-- ==== Sys2Proof/Word.lean ====
section
/-! DEFINITION. Word types, the sparse map type, and the small records that appear as operands of commands. -/

namespace Sys2Proof

/-- One byte. -/
abbrev Byte := BitVec 8
/-- A 64-bit register word or address. -/
abbrev Word := BitVec 64

/-- A map from natural numbers, held as pairs with strictly rising keys; a key that is not listed
has the map's default value. -/
abbrev Sparse (α : Type) := List (Nat × α)

/-- Who performs a register, doorbell or memory access (R308, R545, R563). -/
inductive Party where
  | host (p : Nat)
  | hart (h : Nat)
  deriving DecidableEq, Repr

/-- The end of the path-parity check of a transfer: good at once, good after a replay, or failed after
all three replays (R447). -/
inductive PathCheck where
  | good
  | replayed
  | persistent
  deriving DecidableEq, Repr

/-- What an HBM controller's code says of a sector it reads (R291 to R293). -/
inductive Ecc where
  | good
  | corrected
  | uncorrectable
  deriving DecidableEq, Repr

/-- The three command queues of a tile (R86). -/
inductive QueueId where
  | mat
  | vec
  | dma
  deriving DecidableEq, Repr

/-- What a CSR instruction does to its register besides reading it. -/
inductive CsrHow where
  | read
  | write
  | set
  | clear
  deriving DecidableEq, Repr

/-- A hart's operation: a memory operation (R239, R279, R282, R360), where `amo` carries the Lake operation code of R280, or one of the
system instructions of its privileged architecture (R236): an access to a CSR by number, MRET, SRET and HFENCE.GVMA; or a scalar instruction by its
word, whose low half is the instruction where it is compressed (R236, R238). -/
inductive HartOp where
  | load
  | store
  | amo (op : Nat)
  | lr
  | sc
  | csr (n : Nat) (how : CsrHow)
  | mret
  | sret
  | hfence
  | scalar (word : BitVec 32)
  deriving DecidableEq, Repr

/-- Fields of a short-vector instruction of format QA other than the opcode and FUNCT3 (R254). -/
structure QA where
  qd  : BitVec 5
  qs1 : BitVec 5
  qs2 : BitVec 5
  q   : Bool
  esz : BitVec 2
  deriving DecidableEq, Repr

/-- Fields of a short-vector memory instruction of format QM (R254, R255); `f4` is bits [31:28]. -/
structure QM where
  qd  : BitVec 5
  rs1 : BitVec 5
  f5  : BitVec 5
  q   : Bool
  esz : BitVec 2
  f4  : BitVec 4
  deriving DecidableEq, Repr

/-- A Jarip packet: the header of R365 and the bytes after it. -/
structure Packet where
  ptype  : BitVec 8
  vl     : BitVec 2
  vc     : Bool
  aged   : Bool
  detour : Bool
  age    : BitVec 16
  dest   : BitVec 12
  src    : BitVec 12
  spart  : BitVec 3
  sfdie  : Bool
  seq    : BitVec 16
  epoch  : BitVec 16
  job    : BitVec 16
  len    : BitVec 12
  key    : BitVec 32
  offset : BitVec 48
  aop    : BitVec 8
  hops   : BitVec 8
  data   : List Byte
  deriving DecidableEq, Repr

/-- A pair: a source partition, a source F-die and a destination node (R366). At the destination the
node is the source node. -/
structure PairId where
  part : Nat
  fdie : Nat
  node : Nat
  deriving DecidableEq, Repr

/-- A Mordant packet (R365, R426): of its header the tree neighbour that sent it, the job, the key, SPART, SFDIE, SEQ, EPOCH, AGE and HOPS; its
control; and its payload. -/
structure MPacket where
  src     : BitVec 12
  job     : BitVec 16
  key     : BitVec 32
  group   : BitVec 8
  kind    : BitVec 4
  phase   : BitVec 2
  opseq   : BitVec 16
  tag     : BitVec 32
  lanefmt : BitVec 32
  root    : BitVec 16
  nlanes  : BitVec 3
  cfast   : Bool
  payload : List Byte
  spart   : BitVec 3
  sfdie   : Bool
  seq     : BitVec 16
  epoch   : BitVec 16
  age     : BitVec 16
  hops    : BitVec 8
  deriving DecidableEq, Repr

/-- What a received RoCEv2 frame carries (R386, R389, R390). -/
inductive RoceOp where
  | write (va : Word) (rkey : BitVec 32)
  | writeImm (va : Word) (rkey : BitVec 32) (imm : BitVec 32)
  | send
  | sendImm (imm : BitVec 32)
  | readReq (va : Word) (rkey : BitVec 32) (len : Nat)
  | readResp
  | ack (psn : BitVec 24)
  | nakSequence (psn : BitVec 24)
  | nakAccess (psn : BitVec 24)
  | rnrNak (psn : BitVec 24)
  deriving DecidableEq, Repr

/-- A received Ethernet frame: the addressed package QP, its PSN, whether it carries RoCEv2 on UDP port
4791 with a good ICRC, a congestion mark, the operation and the payload (R385, R386, R391). -/
structure Frame where
  rocev2 : Bool
  icrcOk : Bool
  ce     : Bool
  qp     : Nat
  psn    : BitVec 24
  op     : RoceOp
  data   : List Byte
  deriving DecidableEq, Repr

/-- The transport of a management or attestation message (R505, R506): DOE and MCTP of a slot, MCTP over I3C, and its SMBus-compatible fallback on the same
pins (00 table of interfaces, 16 Table 8). -/
inductive Transport where
  | doe (slot : Nat)
  | mctpPcie (slot : Nat)
  | mctpI3c
  | mctpSmbus
  deriving DecidableEq, Repr

/-- What a unit reports when it detects an error (R443 to R447, R455): the fields of the record it
writes, the partition it struck, the descriptor it struck, and whether the record itself can be
written. -/
structure ErrEvent where
  kind     : Nat
  cls      : Nat
  unitType : Nat
  unit     : Nat
  phys     : Nat
  part     : Option Nat
  ring     : Nat
  seq      : BitVec 32
  struck   : Bool
  status   : BitVec 16
  addr     : Word
  detail   : List Byte
  writable : Bool
  deriving DecidableEq, Repr

/-- One firmware image (R507): the bytes of its 4 KiB header and of its body, and whether the signature in bytes 72 to 167 verifies under the firmware
key. -/
structure Image where
  header : List Byte
  body   : List Byte
  sigOk  : Bool
  deriving DecidableEq, Repr

/-- One Swatch pattern (R472): the expected CRC-64 of its outputs and its run time in ns. -/
structure SwatchPattern where
  expect : BitVec 64
  time   : Nat
  deriving DecidableEq, Repr

/-- A Swatch package as the SMC reads it (R472). -/
structure SwatchPackage where
  serial   : BitVec 32
  stepping : BitVec 8
  sigOk    : Bool
  digest   : List Byte
  patterns : List SwatchPattern
  deriving DecidableEq, Repr

end Sys2Proof
end

