-- ==== Sys2Proof/Syntax.lean ====
section
/-! DEFINITION. The commands: one constructor for each row of spec/opcode_table.json. -/

namespace Sys2Proof

/-- A command. `ring` and `seq` name a descriptor in flight, `view` the register view of R545 a write goes through. -/
inductive Instr where
  /-- SQ_TAIL (R318): A host write or hart store to a ring's SQ_TAIL doorbell is checked and, if accepted, advances TAIL. -/
  | sqTail (who : Party) (ring : Nat) (v : BitVec 32)
  /-- CQ_HEAD (R318): A CQ_HEAD doorbell write is checked, advances CQH and re-arms the ring's interrupt. -/
  | cqHead (who : Party) (ring : Nat) (v : BitVec 32)
  /-- ABORT (R325): An ABORT doorbell write stops the accepted descriptors up to a sequence number, and each completes with ABORTED_BY_HOST. -/
  | abortTo (who : Party) (ring : Nat) (v : BitVec 32)
  /-- BASE (R326): A BASE doorbell write equal to TAIL moves the ring base, and pending waits are evaluated again. -/
  | base (who : Party) (ring : Nat) (v : BitVec 32)
  /-- SHADOW_SNOOP (R313): A host write to a ring's CXL shadow line snoops the device copy, which must then be read again. -/
  | shadowSnoop (ring : Nat) (tail head : BitVec 32)
  /-- SHADOW_REREAD (R313): The device reads the shadow line again, and each changed value acts as a doorbell. -/
  | shadowReread (ring : Nat)
  /-- DESC_READ_ISSUE (R319): The device issues the read of the next descriptor when it is before TAIL and a CQ slot is free. -/
  | descReadIssue (ring : Nat)
  /-- DESC_FETCH (R319): A descriptor read returns, FETCH moves past the descriptor, and its header and waits are checked. -/
  | descFetch (ring : Nat) (check : PathCheck)
  /-- WAIT_LIMIT_EXPIRY (R22): The partition's wait limit expires for a fetched descriptor with pending waits, and it completes with FAILED_DEPENDENCY. -/
  | waitLimitExpiry (ring : Nat) (seq : BitVec 32)
  /-- MOD_US_EXPIRY (R333): The moderation timer expires and raises the ring's vector for its oldest signalling record. -/
  | modUsExpiry (ring : Nat)
  /-- RING_ENABLE (R323): Writing ENABLE = 1 to RNG_CFG_r checks the ring set-up and zeroes its counters. -/
  | ringEnable (view ring : Nat) (v : Word)
  /-- RING_DISABLE (R324): Writing ENABLE = 0 starts a disable that aborts every descriptor without a record. -/
  | ringDisable (view ring : Nat) (v : Word)
  /-- HMW_WRITE (R310): A write to a host memory window is stored, or refused when the window would overlap. -/
  | hmwWrite (part win word : Nat) (v : Word)
  /-- HOST_WINDOW_ACCESS (R309): A host read or write through BAR4 or CXL.mem reaches HBM through the home Lake, or fails beyond the region. -/
  | hostWindowAccess (part : Nat) (write : Bool) (off len : Nat) (data : List Byte)
  /-- PCIE_LINK_UP (R527): A slot's PCIe link finishes training after its partition is committed and PERST_N is deasserted. -/
  | pcieLinkUp (slot width speed : Nat)
  /-- PERST_DEASSERT (R527): Deassertion of a slot's PERST_N lets the link train. -/
  | perstDeassert (slot : Nat)
  /-- LINK_DOWN (R306): A host link goes down, LINK_LOSS is set and the partition is reset. -/
  | linkDown (slot : Nat)
  /-- FLR (R306): A host function level reset resets the partition. -/
  | flr (slot : Nat)
  /-- HOT_RESET (R306): A PCIe hot reset resets the partition. -/
  | hotReset (slot : Nat)
  /-- D3HOT_ENTRY (R306): The function entering D3hot resets the partition. -/
  | d3hotEntry (slot : Nat)
  /-- PARTITION_RESET (R340): Writing RESET to PRT_PART_CFG_p resets the partition. -/
  | partitionReset (view part : Nat) (v : Word)
  /-- PARTITION_RESET_END (R340): The zeroing of tile groups and clearing of SCU slots ends, and READY returns to 1. -/
  | partitionResetEnd (part : Nat)
  /-- REGISTER_WRITE (R551): A write to a register with no row of its own stores its RW fields, taken as clamped or rounded. -/
  | registerWrite (who : Party) (view off size : Nat) (v : Word)
  /-- DET_SIGNATURE_READ (R434): A read of DET_SIGNATURE waits until earlier writes and commits have taken effect, then returns the signature. -/
  | detSignatureRead (view part : Nat)
  /-- NOP_DESCRIPTOR (R328): A NOP descriptor completes OK once its waits are satisfied. -/
  | nopDescriptor (ring : Nat) (seq : BitVec 32)
  /-- TILE_WORK (R78): A tile-work descriptor starts its command stream on every tile of the named groups once they are idle. -/
  | tileWork (ring : Nat) (seq : BitVec 32)
  /-- NOP (R86): Tile NOP command is dispatched in the sequencer, honouring its wait fields. -/
  | nop (tile : Nat)
  /-- END (R90): Tile END command ends the stream, and the tile finishes once its queues are empty. -/
  | endCmd (tile : Nat)
  /-- LOOP (R98): Tile LOOP command opens a loop body run COUNT times. -/
  | loop (tile : Nat)
  /-- SETBASE (R86): Tile SETBASE command sets a base slot. -/
  | setbase (tile : Nat)
  /-- ADDBASE (R86): Tile ADDBASE command adds to a base slot modulo 2^64. -/
  | addbase (tile : Nat)
  /-- LDBASE (R86): Tile LDBASE command loads BS0 to BS6 from memory at BS7. -/
  | ldbase (tile : Nat)
  /-- BAR (R99): Tile BAR command enters a barrier over the group or the descriptor. -/
  | bar (tile : Nat)
  /-- BAR_RELEASE (R99): Once every tile in scope has dispatched the matching BAR, later commands may dispatch. -/
  | barRelease (tile : Nat)
  /-- MMA_H (R62): Half-plane matrix multiply-accumulate into an accumulator set. -/
  | mmaH (tile : Nat)
  /-- MMA_D (R68): Double-plane FP64 matrix multiply-accumulate into an accumulator set. -/
  | mmaD (tile : Nat)
  /-- ACCLD (R75): Loads an accumulator set from the scratchpad and tags it. -/
  | accld (tile : Nat)
  /-- ACCST (R75): Stores, or adds, an accumulator set into the scratchpad. -/
  | accst (tile : Nat)
  /-- VEC (R105): Runs a vector program over rows and columns of streams. -/
  | vec (tile : Nat)
  /-- DMA_IN (R96): Copies or transposes memory rows into the scratchpad, optionally multicast to the group. -/
  | dmaIn (tile : Nat)
  /-- DMA_OUT (R97): Writes scratchpad rows to memory, or as Lake atomic adds. -/
  | dmaOut (tile : Nat)
  /-- TILE_QUEUE_CMD_COMPLETE (R88): A queued matrix, vector or DMA command completes, and a descriptor completes when all its tiles finish. -/
  | tileQueueCmdComplete (tile : Nat) (queue : QueueId)
  /-- TILE_FAIL_QUIESCE (R91): Once all tiles of a failing or stopped descriptor are quiet, it completes with the lowest failing tile's status. -/
  | tileFailQuiesce (ring : Nat) (seq : BitVec 32)
  /-- TILE_GROUP_ZEROED (R83): Zeroing of a withdrawn or reset tile group's scratchpads and accumulator sets ends. -/
  | tileGroupZeroed (group : Nat)
  /-- SCU_POST (R143): The SCU accepts an amax and overflow post into a slot's open record. -/
  | scuPost (die : Nat)
  /-- SCU_RESET (R154): SCU RESET clears a range of slots and writes initial scales. -/
  | scuReset (ring : Nat) (seq : BitVec 32)
  /-- SCU_CLOSE (R146): SCU CLOSE computes new scales for every slot, writes the table copy and step record, and opens the next step. -/
  | scuClose (ring : Nat) (seq : BitVec 32)
  /-- SCU_SAVE (R154): SCU SAVE writes the closed state of a slot range as an image. -/
  | scuSave (ring : Nat) (seq : BitVec 32)
  /-- SCU_LOAD (R155): SCU LOAD restores a slot range from an image. -/
  | scuLoad (ring : Nat) (seq : BitVec 32)
  /-- UPDATE (R159): Optimiser UPDATE applies one step to FP32 master weights, or skips a step that overflowed. -/
  | update (ring : Nat) (seq : BitVec 32)
  /-- PACK (R164): Optimiser PACK writes scaled BF16 images of the moments. -/
  | pack (ring : Nat) (seq : BitVec 32)
  /-- UNPACK (R165): Optimiser UNPACK restores FP32 moments from BF16 images. -/
  | unpack (ring : Nat) (seq : BitVec 32)
  /-- SOLVE (R196): An SIE solve runs refinement sweeps with inner Krylov iterations and writes X and the report. -/
  | solve (ring : Nat) (seq : BitVec 32)
  /-- SIE_HALO_ARRIVAL (R197): An arrival counter reaches its target and the waiting product starts. -/
  | sieHaloArrival (ring : Nat) (seq : BitVec 32)
  /-- SIE_REDUCTION_RESULT (R184): A solve reduction returns its exact sums and breach flags to every member. -/
  | sieReductionResult (ring : Nat) (seq : BitVec 32)
  /-- HALO_WAIT_EXPIRY (R205): A halo counter or reduction waits longer than HALO_WAIT, and the solve fails with FAILED_REMOTE_DEAD. -/
  | haloWaitExpiry (ring : Nat) (seq : BitVec 32)
  /-- SIE_SWITCH_OUT (R503): A solve is switched out at an iteration boundary for a reserving partition. -/
  | sieSwitchOut (die : Nat)
  /-- SIE_RESERVATION_PERIOD (R503): A 10 ms reservation period ends and unspent reserved time lapses. -/
  | sieReservationPeriod
  /-- GATHER (R218): FXE gather converts solver fields into a network tensor and posts amax. -/
  | gather (ring : Nat) (seq : BitVec 32)
  /-- SCATTER (R221): FXE scatter dequantises a network tensor into solver fields. -/
  | scatter (ring : Nat) (seq : BitVec 32)
  /-- COPY (R330): DMA COPY moves bytes on a copy engine in bursts. -/
  | copy (ring : Nat) (seq : BitVec 32)
  /-- FILL (R330): DMA FILL writes a repeating 8-byte pattern. -/
  | fill (ring : Nat) (seq : BitVec 32)
  /-- DMA_BURST_DONE (R330): A copy-engine burst finishes, or fails and ends its descriptor. -/
  | dmaBurstDone (engine : Nat) (check : PathCheck)
  /-- SEPIA (R441): A SEPIA descriptor writes Sepia generator outputs. -/
  | sepia (ring : Nat) (seq : BitVec 32)
  /-- HART_VAT_ACCESS (R360): A hart load, store or AMO to a Vat page becomes a Vat request. -/
  | hartVatAccess (hart : Nat) (op : HartOp) (addr : Word) (size : Nat) (data cmp : BitVec 128)
  /-- QADD (R241): Short-vector integer add. -/
  | qadd (hart : Nat) (f : QA)
  /-- QSUB (R241): Short-vector integer subtract. -/
  | qsub (hart : Nat) (f : QA)
  /-- QMUL (R241): Short-vector integer multiply, low half. -/
  | qmul (hart : Nat) (f : QA)
  /-- QMULH (R241): Short-vector signed multiply, high half. -/
  | qmulh (hart : Nat) (f : QA)
  /-- QMIN (R241): Short-vector signed minimum. -/
  | qmin (hart : Nat) (f : QA)
  /-- QMAX (R241): Short-vector signed maximum. -/
  | qmax (hart : Nat) (f : QA)
  /-- QMINU (R241): Short-vector unsigned minimum. -/
  | qminu (hart : Nat) (f : QA)
  /-- QMAXU (R241): Short-vector unsigned maximum. -/
  | qmaxu (hart : Nat) (f : QA)
  /-- QAND (R241): Short-vector bitwise AND. -/
  | qand (hart : Nat) (f : QA)
  /-- QOR (R241): Short-vector bitwise OR. -/
  | qor (hart : Nat) (f : QA)
  /-- QXOR (R241): Short-vector bitwise XOR. -/
  | qxor (hart : Nat) (f : QA)
  /-- QANDN (R241): Short-vector bitwise AND-NOT. -/
  | qandn (hart : Nat) (f : QA)
  /-- QSLL (R241): Short-vector shift left. -/
  | qsll (hart : Nat) (f : QA)
  /-- QSRL (R241): Short-vector logical shift right. -/
  | qsrl (hart : Nat) (f : QA)
  /-- QSRA (R241): Short-vector arithmetic shift right. -/
  | qsra (hart : Nat) (f : QA)
  /-- QSADU_W (R243): Unsigned sum of absolute differences into 32-bit lanes. -/
  | qsaduW (hart : Nat) (f : QA)
  /-- QSADS_W (R243): Signed sum of absolute differences into 32-bit lanes. -/
  | qsadsW (hart : Nat) (f : QA)
  /-- QSADU_X (R243): Unsigned sum of absolute differences into 64-bit lanes. -/
  | qsaduX (hart : Nat) (f : QA)
  /-- QSADS_X (R243): Signed sum of absolute differences into 64-bit lanes. -/
  | qsadsX (hart : Nat) (f : QA)
  /-- QHADD (R241): Horizontal sum of all elements into element 0. -/
  | qhadd (hart : Nat) (f : QA)
  /-- QFADD (R244): Short-vector floating-point add. -/
  | qfadd (hart : Nat) (f : QA)
  /-- QFSUB (R244): Short-vector floating-point subtract. -/
  | qfsub (hart : Nat) (f : QA)
  /-- QFMUL (R244): Short-vector floating-point multiply. -/
  | qfmul (hart : Nat) (f : QA)
  /-- QFMA (R244): Short-vector fused multiply-add. -/
  | qfma (hart : Nat) (f : QA)
  /-- QFMIN (R244): Short-vector floating-point minimum. -/
  | qfmin (hart : Nat) (f : QA)
  /-- QFMAX (R244): Short-vector floating-point maximum. -/
  | qfmax (hart : Nat) (f : QA)
  /-- QFNEG (R244): Short-vector floating-point negate. -/
  | qfneg (hart : Nat) (f : QA)
  /-- QFDIV (R244): Short-vector correctly rounded division. -/
  | qfdiv (hart : Nat) (f : QA)
  /-- QFSQRT (R244): Short-vector correctly rounded square root. -/
  | qfsqrt (hart : Nat) (f : QA)
  /-- QF2SUM (R245): Error-free FP64 sum into a pair. -/
  | qf2sum (hart : Nat) (f : QA)
  /-- QF2PROD (R245): Error-free FP64 product into a pair. -/
  | qf2prod (hart : Nat) (f : QA)
  /-- QCMPEQ (R241): Short-vector integer compare equal. -/
  | qcmpeq (hart : Nat) (f : QA)
  /-- QCMPLT (R241): Short-vector integer compare less than. -/
  | qcmplt (hart : Nat) (f : QA)
  /-- QCMPLE (R241): Short-vector integer compare less or equal. -/
  | qcmple (hart : Nat) (f : QA)
  /-- QFCMPEQ (R241): Short-vector floating-point compare equal. -/
  | qfcmpeq (hart : Nat) (f : QA)
  /-- QFCMPLT (R241): Short-vector floating-point compare less than. -/
  | qfcmplt (hart : Nat) (f : QA)
  /-- QFCMPLE (R241): Short-vector floating-point compare less or equal. -/
  | qfcmple (hart : Nat) (f : QA)
  /-- QSEL (R241): Short-vector bitwise select. -/
  | qsel (hart : Nat) (f : QA)
  /-- QINS (R255): Inserts an x register into one element. -/
  | qins (hart : Nat) (f : QA)
  /-- QEXT (R255): Extracts one element into an x register. -/
  | qext (hart : Nat) (f : QA)
  /-- QCVT (R246): Short-vector conversion between types. -/
  | qcvt (hart : Nat) (src : BitVec 4) (f : QA)
  /-- QLD (R247): Short-vector load. -/
  | qld (hart : Nat) (f : QM)
  /-- QST (R247): Short-vector store. -/
  | qst (hart : Nat) (f : QM)
  /-- QGATHER (R250): Short-vector indexed gather, which restarts whole after a fault. -/
  | qgather (hart : Nat) (f : QM)
  /-- QSCATTER (R251): Short-vector indexed scatter, checked whole before any write. -/
  | qscatter (hart : Nat) (f : QM)
  /-- PBANK_HANDOVER (R259): Writing GO to PRT_PBANK_CTRL_d starts a handover of P-die SRAM banks, or is refused. -/
  | pbankHandover (view die : Nat) (v : Word)
  /-- PBANK_DRAIN_DONE (R259): The old owner's accepted requests to a bank have finished, and zeroing starts. -/
  | pbankDrainDone (die bank : Nat)
  /-- PBANK_ZERO_DONE (R259): A bank's zeroing ends and it gets its new owner; after the last bank, the epoch and measurement advance. -/
  | pbankZeroDone (die bank : Nat)
  /-- LAKE_PERFORM (R286): The home Lake performs a queued inbound request or atomic. -/
  | lakePerform (die : Nat)
  /-- PATROL_READ (R295): The patrol scrubber reads and checks one HBM sector. -/
  | patrolRead (stack pc : Nat) (ecc : Ecc)
  /-- HMC_REPAIR (R298): Writing GO to HMC_REPAIR_CTRL starts a soft, optionally hard, row repair, or is refused. -/
  | hmcRepair (view : Nat) (v : Word)
  /-- HMC_REPAIR_DONE (R298): A row repair ends and the bank is released. -/
  | hmcRepairDone (repaired : Bool)
  /-- READ_DEVICE_IDENTITY (R301): Test port operation 0 reads the stack identity. -/
  | readDeviceIdentity (view : Nat) (v : Word)
  /-- READ_TEMPERATURE (R301): Test port operation 1 reads the stack temperature. -/
  | readTemperature (view : Nat) (v : Word)
  /-- READ_CLEAR_ECC_LOG (R301): Test port operation 2 reads and clears the on-die ECC log. -/
  | readClearEccLog (view : Nat) (v : Word)
  /-- READ_REPAIR_RESOURCES (R301): Test port operation 3 reads the remaining repair rows. -/
  | readRepairResources (view : Nat) (v : Word)
  /-- MEMORY_BIST (R301): Test port operation 4 runs the stack's memory self-test. -/
  | memoryBist (view : Nat) (v : Word)
  /-- TEST_PORT_DONE (R301): A test port operation ends and returns its data in HMC_1500_DATA. -/
  | testPortDone (reading : Word)
  /-- CLK_TILE_TARGET_WRITE (R38): A new tile clock target starts a slew of the main PLL. -/
  | clkTileTargetWrite (view die : Nat) (v : Word)
  /-- CLK_PCORE_TARGET_WRITE (R40): A new P-die core clock target starts a slew. -/
  | clkPcoreTargetWrite (view die : Nat) (v : Word)
  /-- PLL_SLEW_DONE (R38): A slewing PLL reaches its target. -/
  | pllSlewDone (domain : Nat)
  /-- CLOCK_LOSS (R41): Loss of the reference or of a PLL lock makes the device fatal. -/
  | clockLoss (domain : Nat)
  /-- PWR_DOMAIN_REQUEST (R53): Writing REQUEST to PWR_DOMAIN_CTRL starts switching a domain on or off, or is refused. -/
  | pwrDomainRequest (view : Nat) (v : Word)
  /-- DOMAIN_RAMP_DONE (R48): A power domain finishes ramping up or down. -/
  | domainRampDone (domain : Nat)
  /-- REGULATOR_FAULT (R52): A regulator fault or loss of power-good makes the device fatal. -/
  | regulatorFault (domain : Nat)
  /-- P0_INTERNAL_CHECK (R451): An internal check of P0 uncore fails and the device becomes fatal. -/
  | p0InternalCheck
  /-- VIN_APPLIED (R517): VIN becomes present and the regulator controller runs. -/
  | vinApplied (mv : Nat)
  /-- VIN_REMOVED (R517): VIN is removed, clearing the controller's stage, count and trip latch. -/
  | vinRemoved
  /-- POR_RELEASE (R527): Release of POR_N starts a cold boot of P0 uncore and the boot ROM. -/
  | porRelease
  /-- SMC_VERIFY_DONE (R48): The SMC finishes verifying firmware and starts the power-up order. -/
  | smcVerifyDone
  /-- GLB_RESET (R526): Writing WARM with KEY 0x5A to GLB_RESET starts a warm reset. -/
  | glbReset (view : Nat) (v : Word)
  /-- SUPPLY_STAGE_RAISE (R518): Two samples below a threshold enter stage S1, S2 or S3 and its actions. -/
  | supplyStageRaise (mv1 mv2 : Nat) (droop : Bool)
  /-- SUPPLY_S4_ENTER (R521): VIN below 10.0 V for 50 µs enters S4, fails running work, writes obituaries and powers down. -/
  | supplyS4Enter (mv : Nat)
  /-- SUPPLY_S5_ENTER (R519): The comparator sees VIN below 9.6 V and removes all power without order. -/
  | supplyS5Enter
  /-- SUPPLY_STAGE_LOWER (R520): VIN above the exit threshold for 100 µs lowers the stage by one. -/
  | supplyStageLower (mv : Nat)
  /-- SUPPLY_S4_RECOVERY (R521): VIN at or above 11.4 V for 10 ms after S4 makes the SMC perform a warm reset. -/
  | supplyS4Recovery (mv : Nat)
  /-- THERMAL_CAP_DOWN (R528): Every 100 µs at or above 100 °C the die's thermal cap falls by 100 MHz. -/
  | thermalCapDown (die temp : Nat)
  /-- THERMAL_CAP_UP (R528): Every 1 ms at or below 97 °C the thermal cap rises by 100 MHz. -/
  | thermalCapUp (die temp : Nat)
  /-- THERMAL_DUTY (R528): A die at its lowest cap at 105 °C for 1 ms runs tile issue at 50 % duty. -/
  | thermalDuty (die temp : Nat)
  /-- HBM_TEMP_READ (R529): A periodic stack temperature read doubles refresh or lowers the cap. -/
  | hbmTempRead (stack temp : Nat)
  /-- POWER_LIMIT_CHECK (R530): The 10 µs power measurement lowers or raises caps against PL1 and the 4,200 W limit. -/
  | powerLimitCheck (watts : Nat) (hot : Bool)
  /-- THERMAL_TRIP (R531): A sensor over the trip limit drives THERMTRIP_N and removes all power. -/
  | thermalTrip (stack : Bool) (temp : Nat)
  /-- INPUT_RAW_EDGE (R536): A raw edge on a filtered input increments its edge counter. -/
  | inputRawEdge (input : Nat)
  /-- THROTTLE_ASSERT (R537): Recognised THROTTLE_N caps tile and core clocks. -/
  | throttleAssert
  /-- FAULT_IN_ASSERT (R537): Recognised FAULT_IN_N enters S4 and latches it. -/
  | faultInAssert
  /-- TAMPER_EVENT (R511): A tamper event wipes the secure banks, raises TAMPER_COUNT and makes the device fatal. -/
  | tamperEvent (land : Bool)
  /-- WARM_RST_ASSERT (R526): Recognised WARM_RST_N starts a warm reset. -/
  | warmRstAssert
  /-- PPS_EDGE (R535): A filtered PPS_IN edge is accepted and latches the count, or is ignored. -/
  | ppsEdge (interval : Nat)
  /-- PPS_SILENCE (R535): Two seconds without a PPS edge make the next edge only start an interval. -/
  | ppsSilence
  /-- INPUT_STUCK (R538): An input asserted beyond its stuck time sets STUCK and pulses ALERT_N. -/
  | inputStuck (input : Nat)
  /-- TMB_ADJUST (R533): A write to TMB_ADJUST sets a remaining timebase correction. -/
  | tmbAdjust (view : Nat) (v : Word)
  /-- TMB_ADJUST_DONE (R533): The remaining correction reaches 0 and the count returns to its normal rate. -/
  | tmbAdjustDone
  /-- TMB_SET (R533): A write to TMB_SET loads the count, refused while a partition is VALID. -/
  | tmbSet (view : Nat) (v : Word)
  /-- HEARTBEAT (R452): Every 100 ms P0 uncore writes the timebase into each heartbeat word. -/
  | heartbeat
  /-- BYPASS (R541): TAP instruction BYPASS. -/
  | bypass
  /-- IDCODE (R541): TAP instruction IDCODE returns the identity code. -/
  | idcode
  /-- SAMPLE_PRELOAD (R541): TAP instruction SAMPLE/PRELOAD. -/
  | samplePreload
  /-- EXTEST (R541): TAP instruction EXTEST, which halts fetching and holds ports down. -/
  | extest
  /-- CLAMP (R541): TAP instruction CLAMP, which halts fetching and holds ports down. -/
  | clamp
  /-- HIGHZ (R541): TAP instruction HIGHZ, which halts fetching and holds ports down. -/
  | highz
  /-- PORT_ADMIN_UP (R348): Setting ADMIN_UP starts a port's training. -/
  | portAdminUp (view port : Nat) (v : Word)
  /-- PORT_ADMIN_DOWN (R353): Clearing ADMIN_UP sends DRAIN and starts a lossless shutdown. -/
  | portAdminDown (view port : Nat) (v : Word)
  /-- PORT_TRAINED (R348): PHY training and FEC lock finish, and the port aligns or enters ETH_UP. -/
  | portTrained (port : Nat)
  /-- PORT_TRAIN_TIMEOUT (R348): Training exceeds 500 ms and the port returns to DOWN. -/
  | portTrainTimeout (port : Nat)
  /-- PORT_TRAIN_RETRY (R348): One second after a training timeout the port trains again. -/
  | portTrainRetry (port : Nat)
  /-- PORT_ALIGN_DONE (R348): Deskew and alignment finish and the port sends its discovery record. -/
  | portAlignDone (port : Nat)
  /-- DISCOVERY (R351): A received discovery record is checked and the port enters UP or MISWIRED. -/
  | discovery (port : Nat) (record : List Byte)
  /-- MISWIRED_RETRY (R348): Every 1 s a MISWIRED port exchanges records again. -/
  | miswiredRetry (port : Nat)
  /-- LINK_LOSS (R350): Loss of FEC lock takes a Jarip port DOWN and it retrains. -/
  | linkLoss (port : Nat)
  /-- DRAIN (R353): A DRAIN notice from the partner stops routing to the port. -/
  | drain (port : Nat)
  /-- PORT_DRAIN_DONE (R353): The partner has acknowledged every flit, and the link drops. -/
  | portDrainDone (port : Nat)
  /-- FLIT_DATA (R349): A received data flit is CRC-checked and acknowledged, or replay is requested. -/
  | flitData (port : Nat) (flit : List Byte)
  /-- FLIT_REPLAY_REQUEST (R349): A replay-request flit makes the sender replay from FACK + 1. -/
  | flitReplayRequest (port : Nat) (flit : List Byte)
  /-- FLIT_CREDIT_UPDATE (R349): A credit-update flit returns virtual lane credits. -/
  | flitCreditUpdate (port : Nat) (flit : List Byte)
  /-- LANE_WEAR (R356): A worn lane is steered onto a free spare, or the port falls to 4 lanes. -/
  | laneWear (port lane : Nat)
  /-- LANE_SPARE_DONE (R356): The spare lane has trained and the port returns to UP. -/
  | laneSpareDone (port : Nat)
  /-- VAT_REQUEST_ISSUE (R366): A unit's Vat request enters the source F-die's replay store and is sent. -/
  | vatRequestIssue (fdie : Nat)
  /-- PACKET_FORWARD (R377): A forwarding F-die routes a packet, or discards it on AGE or HOPS. -/
  | packetForward (pkt : Packet) (residence : Nat)
  /-- PKT_READ (R363): A READ request is checked at its destination and performed in pair order. -/
  | pktRead (pkt : Packet)
  /-- PKT_WRITE (R363): A WRITE request is checked at its destination and performed in pair order. -/
  | pktWrite (pkt : Packet)
  /-- PKT_ATOMIC (R363): An ATOMIC request is checked at its destination and performed at the home Lake. -/
  | pktAtomic (pkt : Packet)
  /-- READ_RESP (R368): A read response returns data and acknowledges its request. -/
  | readResp (pkt : Packet)
  /-- ACK (R368): An ACK frees a pair's requests up to a sequence number. -/
  | ack (pkt : Packet)
  /-- NACK (R369): A NACK schedules a backoff replay from the expected number. -/
  | nack (pkt : Packet)
  /-- REJECT (R375): A REJECT fails the request at its source. -/
  | reject (pkt : Packet)
  /-- RESYNC (R374): A RESYNC sets the destination's expected sequence number for a pair. -/
  | resync (pkt : Packet)
  /-- NACK_BACKOFF_EXPIRY (R369): The backoff delay ends and the pair's unacknowledged requests are replayed. -/
  | nackBackoffExpiry (pair : PairId)
  /-- RETRANSMIT_TIMER (R379): A request's retransmit timer expires and it is replayed. -/
  | retransmitTimer (pair : PairId) (seq : BitVec 16)
  /-- DEAD_TARGET_TIMEOUT (R372): A request unacknowledged after T fails with every later request of its pair. -/
  | deadTargetTimeout (pair : PairId) (seq : BitVec 16)
  /-- FENCE (R382): A FENCE descriptor records each pair's last request and completes when all are acknowledged or failed. -/
  | fence (ring : Nat) (seq : BitVec 32)
  /-- NET_WRITE (R389): RoCEv2 RDMA WRITE. -/
  | netWrite (ring : Nat) (seq : BitVec 32)
  /-- NET_WRITE_IMM (R389): RoCEv2 RDMA WRITE with immediate. -/
  | netWriteImm (ring : Nat) (seq : BitVec 32)
  /-- NET_SEND (R389): RoCEv2 SEND. -/
  | netSend (ring : Nat) (seq : BitVec 32)
  /-- NET_SEND_IMM (R389): RoCEv2 SEND with immediate. -/
  | netSendImm (ring : Nat) (seq : BitVec 32)
  /-- NET_READ (R389): RoCEv2 RDMA READ. -/
  | netRead (ring : Nat) (seq : BitVec 32)
  /-- NET_RECV (R389): Posts a receive buffer that completes when a SEND lands. -/
  | netRecv (ring : Nat) (seq : BitVec 32)
  /-- NET_MODIFY (R388): Moves a QP to the state written in its context. -/
  | netModify (ring : Nat) (seq : BitVec 32)
  /-- ROCE_FRAME_RECEIVE (R390): An incoming RoCEv2 frame is checked and handled by the NEE. -/
  | roceFrameReceive (part : Nat) (frame : Frame)
  /-- QP_RETRY_TIMEOUT (R386): A QP's transport timer expires, retries, or moves the QP to ERROR. -/
  | qpRetryTimeout (part qpn : Nat) (rnr : Bool)
  /-- CNP_RECEIVE (R391): A CNP lowers the QP's current rate and raises alpha. -/
  | cnpReceive (part qpn : Nat)
  /-- RATE_RECOVERY_PERIOD (R391): Each 55 µs without a CNP lowers alpha and raises the rate. -/
  | rateRecoveryPeriod (part qpn : Nat)
  /-- ALLREDUCE (R396): Mordant ALLREDUCE delivers combined lanes to every member. -/
  | allreduce (ring : Nat) (seq : BitVec 32)
  /-- REDUCE (R396): Mordant REDUCE delivers combined lanes to the root member. -/
  | reduce (ring : Nat) (seq : BitVec 32)
  /-- BROADCAST (R396): Mordant BROADCAST delivers the root's payload to every member. -/
  | broadcast (ring : Nat) (seq : BitVec 32)
  /-- BARRIER (R396): Mordant BARRIER completes once every member has entered. -/
  | barrier (ring : Nat) (seq : BitVec 32)
  /-- BULK_ALLREDUCE (R408): Ring reduce-scatter and all-gather of a buffer in fixed order. -/
  | bulkAllreduce (ring : Nat) (seq : BitVec 32)
  /-- ALLTOALLV (R410): Moves rows between members with counts exchanged first and capacities applied. -/
  | alltoallv (ring : Nat) (seq : BitVec 32)
  /-- QPUSH (R414): Pushes an item into an inter-stage queue, waiting for credit or spilling. -/
  | qpush (ring : Nat) (seq : BitVec 32)
  /-- QPOP (R415): Waits until an item is in its slot, copying it from the spill area if needed. -/
  | qpop (ring : Nat) (seq : BitVec 32)
  /-- QRELEASE (R416): Returns a credit to the producer with a Vat atomic. -/
  | qrelease (ring : Nat) (seq : BitVec 32)
  /-- QUEUE_TIMEOUT (R417): A QPUSH or QPOP waiting past TIMEOUT_MS fails with FAILED_QUEUE_TIMEOUT. -/
  | queueTimeout (ring : Nat) (seq : BitVec 32)
  /-- MORDANT_PARTIAL (R398): A partial result toward the root is combined at a tree node. -/
  | mordantPartial (pkt : MPacket)
  /-- MORDANT_RESULT (R397): A result from the root completes the operation on a member and is passed down. -/
  | mordantResult (pkt : MPacket)
  /-- MORDANT_FAIL (R406): A FAIL passes through the tree and members complete with FAILED_REMOTE_DEAD. -/
  | mordantFail (pkt : MPacket)
  /-- MORDANT_NACK (R404): A partial finding no free context is NACKed. -/
  | mordantNack (pkt : MPacket)
  /-- MORDANT_RESEND (R404): A NACKed child sends its partial again after 100 ns. -/
  | mordantResend (group : Nat) (opseq : BitVec 16)
  /-- MORDANT_CHILD_TIMEOUT (R406): A child silent for W makes the node send a FAIL toward the root. -/
  | mordantChildTimeout (group : Nat) (opseq : BitVec 16) (child : BitVec 12)
  /-- MORDANT_MEMBER_TIMEOUT (R406): A member with no result within 2W completes with FAILED_REMOTE_DEAD. -/
  | mordantMemberTimeout (group : Nat) (opseq : BitVec 16)
  /-- LAUNCH (R420): A LAUNCH descriptor at the root sends PREPARE down the launch tree. -/
  | launch (ring : Nat) (seq : BitVec 32)
  /-- TEARDOWN (R424): A TEARDOWN descriptor retires the job on every member. -/
  | teardown (ring : Nat) (seq : BitVec 32)
  /-- PREPARE (R420): A PREPARE is forwarded, acknowledged and starts local preparation. -/
  | prepare (pkt : MPacket)
  /-- LAUNCH_PREPARED (R420): A node finishes preparing for a launch. -/
  | launchPrepared (job : BitVec 16) (key : BitVec 32)
  /-- LAUNCH_ACK (R420): A child's acknowledgement of PREPARE arrives at its parent. -/
  | launchAck (pkt : MPacket)
  /-- REPORT (R421): A subtree report arrives, and the root ends the phase once counts are complete. -/
  | report (pkt : MPacket)
  /-- NOTICE (R421): A notice naming a silent child arrives at the root, which sets FAILMAP. -/
  | notice (pkt : MPacket)
  /-- COMMIT (R423): A COMMIT makes the job entry LIVE, binds the partition and installs groups. -/
  | commit (pkt : MPacket)
  /-- LAUNCH_ABORT (R423): An ABORT releases the node's reservation. -/
  | launchAbort (pkt : MPacket)
  /-- TEARDOWN_PACKET (R424): A TEARDOWN packet retires the entry, unbinds and commits, with optional scrub. -/
  | teardownPacket (pkt : MPacket)
  /-- LAUNCH_ACK_TIMEOUT (R420): A child silent for 50 µs is adopted past and reported by a notice. -/
  | launchAckTimeout (job : BitVec 16) (key : BitVec 32) (node : BitVec 12)
  /-- LAUNCH_REPORT_TIMEOUT (R420): A child's report missing past its limit makes it silent. -/
  | launchReportTimeout (job : BitVec 16) (key : BitVec 32) (node : BitVec 12)
  /-- LAUNCH_BUSY_RETRY (R422): Every 100 µs the root sends PREPARE again to busy nodes. -/
  | launchBusyRetry (job : BitVec 16) (key : BitVec 32)
  /-- LAUNCH_BUSY_EXPIRY (R422): A node busy for 10 ms counts as failed. -/
  | launchBusyExpiry (job : BitVec 16) (key : BitVec 32) (node : BitVec 12)
  /-- JOB_SCRUB_DONE (R424): The local scrub of a retired window ends. -/
  | jobScrubDone (entry : Nat)
  /-- JOB_ENTRY_FREE (R424): A retired entry becomes FREE once scrubbed and 10 ms after retirement. -/
  | jobEntryFree (entry : Nat)
  /-- UNIT_ERROR (R448): A unit detects an error, writes a record and performs the class's action, or is fenced on a second error. -/
  | unitError (e : ErrEvent)
  /-- UNIT_HANDLING_DONE (R448): The record is accepted and the action done, and the unit returns to RUN. -/
  | unitHandlingDone (unitType unit : Nat)
  /-- UNIT_CLEAR (R450): Writing CLEAR to ERR_UNIT_CTRL starts a fenced unit's self-test. -/
  | unitClear (view : Nat) (v : Word)
  /-- UNIT_SELF_TEST_DONE (R450): The self-test ends, and the unit returns to RUN or stays fenced as worn. -/
  | unitSelfTestDone (pass : Bool)
  /-- ERROR_RING_ENABLE (R454): Writing ENABLE to ERR_RING enables the error ring and zeroes its counters, or is refused. -/
  | errorRingEnable (view : Nat) (v : Word)
  /-- MERGE_WINDOW_EXPIRY (R458): A 1 ms merge window closes and one merged record is written. -/
  | mergeWindowExpiry (kind unitType unit : Nat)
  /-- PART_WEAR (R462): A part meets its wear criterion and is spared in or a WEAR record is written. -/
  | partWear (cls die index events : Nat)
  /-- SPARE_IN_REQUEST (R463): Writing GO to ERR_SPARE_CTRL requests a spare-in, or is refused. -/
  | spareInRequest (view : Nat) (v : Word)
  /-- TILE_SPARE_IN (R464): Once the group's descriptor finishes, the worn tile's state is copied to the spare. -/
  | tileSpareIn (tile : Nat) (badBanks : BitVec 24)
  /-- TILE_SPARE_DONE (R464): The copy ends, the remap table is written and the group released. -/
  | tileSpareDone (tile : Nat)
  /-- CORE_SPARE_IN (R466): The firmware moves a hart's state to a spare core. -/
  | coreSpareIn (hart : Nat)
  /-- LAKE_WAY_SPARE_IN (R277): A worn way array starts being copied to its set group's spare. -/
  | lakeWaySpareIn (die array : Nat)
  /-- LAKE_WAY_COPY_DONE (R277): The way array copy ends and the spare replaces it. -/
  | lakeWayCopyDone (die array : Nat)
  /-- SWATCH_LOAD (R472): Writing LOAD to ERR_SWATCH_CTRL starts verifying a Swatch package. -/
  | swatchLoad (view : Nat) (v : Word)
  /-- SWATCH_LOAD_DONE (R472): The SMC accepts or refuses the Swatch package. -/
  | swatchLoadDone (pkg : SwatchPackage)
  /-- SWATCH_PATTERN_RUN (R474): An idle eligible tile group saves state and runs a Swatch pattern. -/
  | swatchPatternRun (group pattern : Nat)
  /-- SWATCH_PATTERN_DONE (R475): A pattern ends, its digest is compared and state restored. -/
  | swatchPatternDone (group tile : Nat) (digest : Word)
  /-- SWATCH_PREEMPT (R474): A descriptor arriving for the group stops the pattern at its next command boundary. -/
  | swatchPreempt (group : Nat)
  /-- SNAP (R477): SNAP copies listed regions to local and remote slots and commits them. -/
  | snap (ring : Nat) (seq : BitVec 32)
  /-- RESTORE (R480): RESTORE checks a slot and copies its regions back. -/
  | restore (ring : Nat) (seq : BitVec 32)
  /-- DIGEST (R482): DIGEST computes the SHA-384 of a range. -/
  | digest (ring : Nat) (seq : BitVec 32)
  /-- SIGN (R482): SIGN checks and signs a checkpoint manifest with the checkpoint key. -/
  | sign (ring : Nat) (seq : BitVec 32)
  /-- SNAP_WRITE_STALL (R478): A write to a protected block stalls until the block is copied. -/
  | snapWriteStall (part : Nat) (va : Word) (data : List Byte)
  /-- SNAP_STALL_RESUME (R478): The stalled block is copied and the write resumes. -/
  | snapStallResume (part : Nat)
  /-- PROOF (R470): A PROOF descriptor waits for the buddy's digest list. -/
  | proof (ring : Nat) (seq : BitVec 32)
  /-- PROOF_READY (R470): READY of INBOX equals STEP + 1 and the lists are compared. -/
  | proofReady (ring : Nat) (seq : BitVec 32)
  /-- PROOF_TIMEOUT (R470): The buddy's list does not arrive in time and PROOF fails. -/
  | proofTimeout (ring : Nat) (seq : BitVec 32)
  /-- PRT_COMMIT (R495): Writing GO to PRT_COMMIT checks the shadow and makes it live with a new epoch, or refuses. -/
  | prtCommit (view : Nat) (v : Word)
  /-- COMMIT_DRAIN_DONE (R495): No request of the previous epoch remains, and lost resources are released. -/
  | commitDrainDone
  /-- COMMIT_RELEASE_DONE (R498): Releases and region zeroing end, and PRT_MEAS is extended. -/
  | commitReleaseDone
  /-- CONFIRM (R509): CONFIRM in SEC_CTRL makes the trial firmware image active. -/
  | confirm (view : Nat) (v : Word)
  /-- LC_ARM (R510): LC_ARM arms a life-cycle change for 1 s. -/
  | lcArm (view : Nat) (v : Word)
  /-- LC_GO (R510): LC_GO performs the armed life-cycle change and wipes the secure banks. -/
  | lcGo (view : Nat) (v : Word)
  /-- LC_ARM_EXPIRY (R510): An arm not followed by LC_GO within 1 s expires. -/
  | lcArmExpiry
  /-- GET_VERSION (R505): SPDM GET_VERSION request. -/
  | getVersion (via : Transport)
  /-- GET_CAPABILITIES (R505): SPDM GET_CAPABILITIES request. -/
  | getCapabilities (via : Transport)
  /-- NEGOTIATE_ALGORITHMS (R505): SPDM NEGOTIATE_ALGORITHMS request. -/
  | negotiateAlgorithms (via : Transport) (p384 sha384 : Bool)
  /-- GET_DIGESTS (R505): SPDM GET_DIGESTS request. -/
  | getDigests (via : Transport)
  /-- GET_CERTIFICATE (R505): SPDM GET_CERTIFICATE request. -/
  | getCertificate (via : Transport) (slot off len : Nat)
  /-- CHALLENGE (R505): SPDM CHALLENGE request, signed by AK. -/
  | challenge (via : Transport) (slot : Nat) (nonce : List Byte)
  /-- GET_MEASUREMENTS (R506): SPDM GET_MEASUREMENTS request, signed over the requester's nonce. -/
  | getMeasurements (via : Transport) (index : Nat) (nonce : List Byte)
  /-- MCTP_CONTROL (R506): An MCTP control message is answered. -/
  | mctpControl (via : Transport) (cmd : Byte)
  /-- MGMT_FIRMWARE_UPDATE (R506): A Krovolaran management message over I3C updates firmware, including in recovery. -/
  | mgmtFirmwareUpdate (via : Transport) (img : Image)
  /-- MGMT_LIFE_CYCLE_REQUEST (R506): A Krovolaran management message over I3C requests a life-cycle change. -/
  | mgmtLifeCycleRequest (via : Transport) (target : BitVec 2)
  /-- MGMT_LOG_READ (R506): A Krovolaran management message over I3C reads the flash log. -/
  | mgmtLogRead (via : Transport) (first count : Nat)
  /-- POR_ASSERT (R525): Assertion of POR_N by the board causes a cold reset: every domain goes off and the thermal trip latch clears. -/
  | porAssert
  /-- INPUT_DEASSERT (R536): A filtered input is recognised as deasserted after its minimum pulse width: THROTTLE_N lifts the cap, a released WARM_RST_N lets the boot proceed, and stuck reporting re-arms. -/
  | inputDeassert (input : Nat)
  /-- FXE_ROW_DONE (R225): A die of a running FXE descriptor finishes a row; at a row boundary it stops for a fault, abort or S4, and after its last row the fingerprint is written and the descriptor completes. -/
  | fxeRowDone (ring : Nat) (seq : BitVec 32) (die : Nat)
  /-- SCU_DESCRIPTOR_DONE (R152): An SCU RESET, CLOSE, SAVE or LOAD finishes its writes, which are visible, and completes. -/
  | scuDescriptorDone (ring : Nat) (seq : BitVec 32)
  /-- OPTIMISER_DONE (R160): An optimiser UPDATE, PACK or UNPACK running on the vector engines of its tile groups ends its passes and completes. -/
  | optimiserDone (ring : Nat) (seq : BitVec 32)
  /-- SIGN_DONE (R482): The SMC finishes signing a manifest hash, writes the signature and the SIGN descriptor completes. -/
  | signDone (ring : Nat) (seq : BitVec 32)
  /-- MEMORY_INIT_DONE (R561): Zeroing of the HBM stacks, P-die SRAM and scratchpads of a domain that came on ends, so the domain's memory may be granted and, at boot, configuration block 3 may be committed. -/
  | memoryInitDone (domain : Nat)
  /-- HART_MEMORY_ACCESS (R279): A hart store, AMO or LR/SC to local HBM, Lake-backed memory or P-die SRAM is performed, with the AMO at the home Lake, bank-owner checks and access faults. -/
  | hartMemoryAccess (hart : Nat) (op : HartOp) (addr : Word) (size : Nat) (data cmp : BitVec 128)
  deriving DecidableEq, Repr

end Sys2Proof
end

