-- ==== Sys2Proof/WellFormed.lean ====
section
/-! DEFINITION. Well-formed commands: the ranges of units and the legal fields of short-vector instructions (08 R254). -/

namespace Sys2Proof

/-- The arithmetic operations of Table 2 of chapter 08. -/
inductive QOp where
  | add | sub | mul | mulh | min | max | minu | maxu | and | or | xor | andn | sll | srl | sra
  | saduW | sadsW | saduX | sadsX | hadd
  | fadd | fsub | fmul | fma | fmin | fmax | fneg | fdiv | fsqrt | twoSum | twoProd
  | cmpeq | cmplt | cmple | fcmpeq | fcmplt | fcmple | sel | ins | ext
  deriving DecidableEq, Repr

/-- FUNCT3 and FUNCT4 of an operation (08 Table 2). -/
def QOp.functs : QOp → Nat × Nat
  | .add => (0, 0) | .sub => (0, 1) | .mul => (0, 2) | .mulh => (0, 3) | .min => (0, 4) | .max => (0, 5) | .minu => (0, 6)
  | .maxu => (0, 7) | .and => (0, 8) | .or => (0, 9) | .xor => (0, 10) | .andn => (0, 11) | .sll => (0, 12) | .srl => (0, 13)
  | .sra => (0, 14) | .saduW => (1, 0) | .sadsW => (1, 1) | .saduX => (1, 2) | .sadsX => (1, 3) | .hadd => (1, 4)
  | .fadd => (2, 0) | .fsub => (2, 1) | .fmul => (2, 2) | .fma => (2, 3) | .fmin => (2, 4) | .fmax => (2, 5) | .fneg => (2, 6)
  | .fdiv => (2, 7) | .fsqrt => (2, 8) | .twoSum => (2, 9) | .twoProd => (2, 10) | .cmpeq => (3, 0) | .cmplt => (3, 1)
  | .cmple => (3, 2) | .fcmpeq => (3, 3) | .fcmplt => (3, 4) | .fcmple => (3, 5) | .sel => (4, 0) | .ins => (5, 0) | .ext => (5, 1)

/-- Every operation. -/
def QOp.all : List QOp :=
  [.add, .sub, .mul, .mulh, .min, .max, .minu, .maxu, .and, .or, .xor, .andn, .sll, .srl, .sra, .saduW, .sadsW, .saduX, .sadsX, .hadd,
    .fadd, .fsub, .fmul, .fma, .fmin, .fmax, .fneg, .fdiv, .fsqrt, .twoSum, .twoProd, .cmpeq, .cmplt, .cmple, .fcmpeq, .fcmplt, .fcmple,
    .sel, .ins, .ext]

/-- The fields of a QA instruction are legal for the operation: ESZ in the listed range, unused fields 0, the Q form where it is
required, and an element that exists (08 Table 2, R254, R255). -/
def QA.legal (op : QOp) (f : QA) : Bool :=
  let e := f.esz.toNat
  match op with
  | .saduW | .sadsW | .saduX | .sadsX => decide (e ≤ 1)
  | .hadd => decide (2 ≤ e) && f.qs2 == 0
  | .fneg | .fsqrt => decide (2 ≤ e) && f.qs2 == 0
  | .fadd | .fsub | .fmul | .fma | .fmin | .fmax | .fdiv | .fcmpeq | .fcmplt | .fcmple => decide (2 ≤ e)
  | .twoSum | .twoProd => decide (e = 3) && f.q
  | .sel => decide (e = 0)
  | .ins | .ext => decide (f.qs2.toNat < (if f.q then 128 else 64) / (8 * 2 ^ e))
  | _ => true

/-- Size in bytes of a type code of Table 5 of chapter 04; 0 for a reserved code. -/
def qTypeBytes : Nat → Nat
  | 0 | 1 | 9 => 2
  | 2 | 3 | 4 => 1
  | 5 | 8 => 4
  | 6 | 10 => 8
  | _ => 0

/-- The fields of a QCVT are legal (08 R246). -/
def QA.cvtLegal (src : BitVec 4) (f : QA) : Bool :=
  f.esz == 0 && decide (0 < qTypeBytes src.toNat) && decide (0 < qTypeBytes f.qs2.toNat)

/-- Elements of a gather or scatter (08 R248). -/
def QM.count (f : QM) : Nat := (if f.q then 128 else 64) / (8 * 2 ^ f.esz.toNat)

/-- Registers of its index group (08 R248). -/
def QM.groupLen (f : QM) : Nat := (QM.count f * (8 * 2 ^ (f.f4.toNat % 4)) + 127) / 128

/-- The fields of a QLD or QST are legal: ESZ is 0 (08 Table 5). -/
def QM.lineLegal (f : QM) : Bool := f.esz == 0

/-- The fields of a gather or scatter are legal: bits [31:30] 0 and an aligned index group within q0 to q31 (08 R248, Table 5). -/
def QM.groupLegal (f : QM) : Bool :=
  decide (f.f4.toNat < 4) && decide (f.f5.toNat % QM.groupLen f = 0) && decide (f.f5.toNat + QM.groupLen f ≤ 32)

/-- A gather's destination lies outside its index group (08 R248). -/
def QM.gatherLegal (f : QM) : Bool :=
  QM.groupLegal f && !(decide (f.f5.toNat ≤ f.qd.toNat) && decide (f.qd.toNat < f.f5.toNat + QM.groupLen f))

end Sys2Proof
end

