-- ==== Sys2Proof/Decode.lean ====
section
/-! DEFINITION. Decoding: spec/opcode_table.json gives no row any bits, so no word spells a command; the 32-bit words of the
short-vector instructions are those of 08 R254 and Table 5. -/

namespace Sys2Proof

/-- The command that a word spells by the table's bits: the table gives no row bits, so none (log entry 1). -/
def decodeTableWord (_nbits _w : Nat) : Option Instr := none

/-- Bits `lo` to `lo + n - 1` of a word. -/
def wordField (w lo n : Nat) : Nat := w / 2 ^ lo % 2 ^ n

/-- The word of format QA with FUNCT3 `f3` and FUNCT4 `f4` (08 Table 5). -/
def qaWord (f3 f4 : Nat) (f : QA) : Nat :=
  11 + f.qd.toNat * 2 ^ 7 + f3 * 2 ^ 12 + f.qs1.toNat * 2 ^ 15 + f.qs2.toNat * 2 ^ 20 + f.q.toNat * 2 ^ 25 + f.esz.toNat * 2 ^ 26 +
    f4 * 2 ^ 28

/-- The word of format QM with FUNCT3 `f3` (08 Table 5). -/
def qmWord (f3 : Nat) (f : QM) : Nat :=
  43 + f.qd.toNat * 2 ^ 7 + f3 * 2 ^ 12 + f.rs1.toNat * 2 ^ 15 + f.f5.toNat * 2 ^ 20 + f.q.toNat * 2 ^ 25 + f.esz.toNat * 2 ^ 26 +
    f.f4.toNat * 2 ^ 28

/-- The fields of a word of format QA. -/
def qaFields (w : Nat) : QA :=
  ⟨BitVec.ofNat 5 (wordField w 7 5), BitVec.ofNat 5 (wordField w 15 5), BitVec.ofNat 5 (wordField w 20 5), wordField w 25 1 == 1,
    BitVec.ofNat 2 (wordField w 26 2)⟩

/-- The fields of a word of format QM. -/
def qmFields (w : Nat) : QM :=
  ⟨BitVec.ofNat 5 (wordField w 7 5), BitVec.ofNat 5 (wordField w 15 5), BitVec.ofNat 5 (wordField w 20 5), wordField w 25 1 == 1,
    BitVec.ofNat 2 (wordField w 26 2), BitVec.ofNat 4 (wordField w 28 4)⟩

/-- The operation of a FUNCT3 and FUNCT4 pair; none where Table 2 of chapter 08 defines none. -/
def qOpOf (f3 f4 : Nat) : Option QOp := QOp.all.find? (fun op => op.functs == (f3, f4))

/-- The command that runs an operation on a hart. -/
def qaInstr (h : Nat) (f : QA) : QOp → Instr
  | .add => .qadd h f
  | .sub => .qsub h f
  | .mul => .qmul h f
  | .mulh => .qmulh h f
  | .min => .qmin h f
  | .max => .qmax h f
  | .minu => .qminu h f
  | .maxu => .qmaxu h f
  | .and => .qand h f
  | .or => .qor h f
  | .xor => .qxor h f
  | .andn => .qandn h f
  | .sll => .qsll h f
  | .srl => .qsrl h f
  | .sra => .qsra h f
  | .saduW => .qsaduW h f
  | .sadsW => .qsadsW h f
  | .saduX => .qsaduX h f
  | .sadsX => .qsadsX h f
  | .hadd => .qhadd h f
  | .fadd => .qfadd h f
  | .fsub => .qfsub h f
  | .fmul => .qfmul h f
  | .fma => .qfma h f
  | .fmin => .qfmin h f
  | .fmax => .qfmax h f
  | .fneg => .qfneg h f
  | .fdiv => .qfdiv h f
  | .fsqrt => .qfsqrt h f
  | .twoSum => .qf2sum h f
  | .twoProd => .qf2prod h f
  | .cmpeq => .qcmpeq h f
  | .cmplt => .qcmplt h f
  | .cmple => .qcmple h f
  | .fcmpeq => .qfcmpeq h f
  | .fcmplt => .qfcmplt h f
  | .fcmple => .qfcmple h f
  | .sel => .qsel h f
  | .ins => .qins h f
  | .ext => .qext h f

/-- The operation of a command of Table 2 of chapter 08 other than QCVT, with its hart and fields. -/
def qaParts : Instr → Option (QOp × Nat × QA)
  | .qadd h f => some (.add, h, f)
  | .qsub h f => some (.sub, h, f)
  | .qmul h f => some (.mul, h, f)
  | .qmulh h f => some (.mulh, h, f)
  | .qmin h f => some (.min, h, f)
  | .qmax h f => some (.max, h, f)
  | .qminu h f => some (.minu, h, f)
  | .qmaxu h f => some (.maxu, h, f)
  | .qand h f => some (.and, h, f)
  | .qor h f => some (.or, h, f)
  | .qxor h f => some (.xor, h, f)
  | .qandn h f => some (.andn, h, f)
  | .qsll h f => some (.sll, h, f)
  | .qsrl h f => some (.srl, h, f)
  | .qsra h f => some (.sra, h, f)
  | .qsaduW h f => some (.saduW, h, f)
  | .qsadsW h f => some (.sadsW, h, f)
  | .qsaduX h f => some (.saduX, h, f)
  | .qsadsX h f => some (.sadsX, h, f)
  | .qhadd h f => some (.hadd, h, f)
  | .qfadd h f => some (.fadd, h, f)
  | .qfsub h f => some (.fsub, h, f)
  | .qfmul h f => some (.fmul, h, f)
  | .qfma h f => some (.fma, h, f)
  | .qfmin h f => some (.fmin, h, f)
  | .qfmax h f => some (.fmax, h, f)
  | .qfneg h f => some (.fneg, h, f)
  | .qfdiv h f => some (.fdiv, h, f)
  | .qfsqrt h f => some (.fsqrt, h, f)
  | .qf2sum h f => some (.twoSum, h, f)
  | .qf2prod h f => some (.twoProd, h, f)
  | .qcmpeq h f => some (.cmpeq, h, f)
  | .qcmplt h f => some (.cmplt, h, f)
  | .qcmple h f => some (.cmple, h, f)
  | .qfcmpeq h f => some (.fcmpeq, h, f)
  | .qfcmplt h f => some (.fcmplt, h, f)
  | .qfcmple h f => some (.fcmple, h, f)
  | .qsel h f => some (.sel, h, f)
  | .qins h f => some (.ins, h, f)
  | .qext h f => some (.ext, h, f)
  | _ => none

/-- The word of a short-vector command (08 Tables 2, 4 and 5); none for any other command. -/
def encodeQuad (i : Instr) : Option Nat :=
  match qaParts i with
  | some (op, _, f) => some (qaWord op.functs.1 op.functs.2 f)
  | none =>
    match i with
    | .qcvt _ src f => some (qaWord 6 src.toNat f)
    | .qld _ f => some (qmWord 0 f)
    | .qst _ f => some (qmWord 1 f)
    | .qgather _ f => some (qmWord 2 f)
    | .qscatter _ f => some (qmWord 3 f)
    | _ => none

/-- The fields of a short-vector command are legal (08 R246, R248, R254, R255). -/
def quadLegal (i : Instr) : Bool :=
  match qaParts i with
  | some (op, _, f) => QA.legal op f
  | none =>
    match i with
    | .qcvt _ src f => QA.cvtLegal src f
    | .qld _ f => QM.lineLegal f
    | .qst _ f => QM.lineLegal f
    | .qgather _ f => QM.gatherLegal f
    | .qscatter _ f => QM.groupLegal f
    | _ => false

/-- The hart of a short-vector command. -/
def quadHart (i : Instr) : Nat :=
  match qaParts i with
  | some (_, h, _) => h
  | none =>
    match i with
    | .qcvt h _ _ => h
    | .qld h _ => h
    | .qst h _ => h
    | .qgather h _ => h
    | .qscatter h _ => h
    | _ => 0

/-- The command of a word of format QA. -/
def decodeQa (h w : Nat) : Option Instr :=
  if wordField w 12 3 = 6 then some (.qcvt h (BitVec.ofNat 4 (wordField w 28 4)) (qaFields w))
  else (qOpOf (wordField w 12 3) (wordField w 28 4)).map (qaInstr h (qaFields w))

/-- The command of a word of format QM. -/
def decodeQm (h w : Nat) : Option Instr :=
  match wordField w 12 3 with
  | 0 => some (.qld h (qmFields w))
  | 1 => some (.qst h (qmFields w))
  | 2 => some (.qgather h (qmFields w))
  | 3 => some (.qscatter h (qmFields w))
  | _ => none

/-- The short-vector command that a 32-bit word spells on hart `h`; none where the word raises an illegal-instruction exception
(08 R254) or is no short-vector instruction. -/
def decodeQuad (h : Nat) (w : BitVec 32) : Option Instr :=
  (match wordField w.toNat 0 7 with
    | 11 => decodeQa h w.toNat
    | 43 => decodeQm h w.toNat
    | _ => none).filter quadLegal

end Sys2Proof
end

