-- ==== Sys2Proof/Config.lean ====
section
/-! DEFINITION. What the spec leaves open: constants without a body, so that no proof can see their values. -/

namespace Sys2Proof

/-- The `n`-th free value: a value the spec leaves undefined (log entry 2). DESIGN CHOICE: safe, since
nothing is known of it. -/
opaque Config.freeValue : Nat → Word

/-- Which result within the error bound that R122 gives a transcendental instruction returns: the operation's number, the type's
code and the operand bits (log entry 9). The spec fixes the same bits on every device (R124) but not which bits. -/
opaque Config.transcendental : Nat → Nat → Nat → Nat

/-- Early arrivals that a pair can hold at its destination (11 R367 gives no number; log entry 17). -/
opaque Config.reorderSpace : Nat

/-- Replacement rows of bank group `(stack * 32 + pc) * 8 + bank / 4` of the HBM stacks (09 R300 and R301 give no
number; log entry 12). -/
opaque Config.repairRows : Nat → Nat

/-- The pseudo-channel of a stack whose bank groups operation 3 of the test port shows (09 Table 7 names none; log entry 12). -/
opaque Config.repairView : Nat → Nat

/-- Offset in a solve's WORK of the mirror of the group at element `g` of vector `v` (06 R202 gives WORK's size and not
its layout; log entry 25). -/
opaque Config.sieMirror : Nat → Nat → Nat

/-- Offset in a solve's WORK of the arrival counter (log entry 25). -/
opaque Config.sieCounter : Nat

/-- Offset in a consumer's exported window of byte `b` of tile `t` of tile group `g`, for the slots of an inter-stage queue (12 R413
gives the tile byte and not the window offset; log entry 27). -/
opaque Config.queueSlot : Nat → Nat → Nat → Nat

/-- Mantissa of the reciprocal pivot of scalar row `r` where ILU(0) stores no diagonal block (log entry 25). -/
opaque Config.missingPivot : Nat → Int

/-- How the scalar unit rounds the steps of GMRES that the spec names without a formula, bit by bit: 0 a fused sum of squares in a Givens rotation, 1
fused steps in applying one, 2 fused steps in the back substitution, 3 its terms in descending order, 4 a negated rotation (06 R194; log entry
25). -/
opaque Config.gmresForm : Nat

/-- Which of a descriptor's tiles, counted by rank and taken modulo their number, sums element `i` of a tensor of `n` elements in a TRUST update (05 R160
names the order and not the share; log entry 11). -/
opaque Config.trustShare : Nat → Nat → Nat → Nat

/-- Manufacturer field of IDCODE (16 R541; log entry 7). -/
opaque Config.manufacturer : Nat

/-- Boot ROM version, measurement 1 (15 Table 6; log entry 13). -/
opaque Config.bootRom : List Byte

/-- SHA-384 of the SMC image (0) and of the Owner image (1) within a firmware body, given the body's digest (15 R506; log entry 6). -/
opaque Config.partDigest : Nat → List Byte → List Byte

/-- DER bytes of the certificate chain of a slot, given the body digest of the running image (15 R504, R505; log entry 13). -/
opaque Config.certChain : Nat → List Byte → List Byte

/-- Offset, taken modulo 5 and less 2, of a clock domain's replica of the timebase at a master count: within 2 ns either way, and open within that (02
R42; log entry 38). -/
opaque Config.replica : Nat → Nat → Nat

end Sys2Proof
end

