-- ==== Sys2Proof/Machine/Store.lean ====
section
/-! DEFINITION. The sparse map in its canonical form, and bit-field and byte-order helpers. -/

namespace Sys2Proof.Machine

/-- The value at key `k`; a key that is not listed has the default value `d k`. -/
def sget {α : Type} (d : Nat → α) : Sparse α → Nat → α
  | [], k => d k
  | (j, v) :: m, k => if k = j then v else sget d m k

/-- The map with the pair of `k` and `v` at its place. -/
def sinsert {α : Type} : Sparse α → Nat → α → Sparse α
  | [], k, v => [(k, v)]
  | (j, w) :: m, k, v =>
    if k < j then (k, v) :: (j, w) :: m
    else if k = j then (k, v) :: m
    else (j, w) :: sinsert m k v

/-- The map with `v` at key `k`, in canonical form: a default value is not listed. -/
def sset {α : Type} [DecidableEq α] (d : Nat → α) (m : Sparse α) (k : Nat) (v : α) : Sparse α :=
  if v = d k then m.filter (fun e => decide (e.1 ≠ k)) else sinsert m k v

/-- The keys from `lo` to `hi - 1` return to their default values. -/
def sclear {α : Type} (m : Sparse α) (lo hi : Nat) : Sparse α :=
  m.filter (fun e => decide (e.1 < lo) || decide (hi ≤ e.1))

/-- Every key of the list is above `k`, keys rise strictly, and no value is the default. -/
def sabove {α : Type} [DecidableEq α] (d : Nat → α) : Nat → Sparse α → Bool
  | _, [] => true
  | k, (j, v) :: m => decide (k < j) && decide (v ≠ d j) && sabove d j m

/-- The canonical form: keys rise strictly and no listed value is the default. -/
def swf {α : Type} [DecidableEq α] (d : Nat → α) : Sparse α → Bool
  | [] => true
  | (j, v) :: m => decide (v ≠ d j) && sabove d j m

/-- Field of `len` bits at bit `lo` of a natural number. -/
def fieldOf (w lo len : Nat) : Nat := (w >>> lo) % 2 ^ len

/-- Bit `i` of a natural number. -/
def bitAt (w i : Nat) : Bool := (w >>> i) % 2 == 1

/-- The number with its field of `len` bits at bit `lo` replaced by `v mod 2^len`. -/
def setFieldOf (w lo len v : Nat) : Nat :=
  w - (fieldOf w lo len) * 2 ^ lo + (v % 2 ^ len) * 2 ^ lo

/-- The bytes as a little-endian number (00 R7). -/
def leNat : List Byte → Nat
  | [] => 0
  | b :: bs => b.toNat + 256 * leNat bs

/-- `n` bytes of a number, little-endian (00 R7). -/
def leBytes : Nat → Nat → List Byte
  | 0, _ => []
  | n + 1, v => BitVec.ofNat 8 v :: leBytes n (v / 256)

/-- `n` bytes of a number, big-endian. -/
def beBytes (n v : Nat) : List Byte := (leBytes n v).reverse

/-- `len` bytes of a record starting at byte `off`, as a little-endian number. -/
def leField (bs : List Byte) (off len : Nat) : Nat := leNat ((bs.drop off).take len)

/-- The record with its bytes from `off` replaced. -/
def patchBytes (bs : List Byte) (off : Nat) (new : List Byte) : List Byte :=
  bs.take off ++ new ++ bs.drop (off + new.length)

/-- A truth value as a number. -/
def b2n (b : Bool) : Nat := if b then 1 else 0

/-- A record of `n` bytes built from (offset, bytes, value) fields over zeros. -/
def layoutBytes (n : Nat) (fs : List (Nat × Nat × Nat)) : List Byte :=
  fs.foldl (fun bs f => patchBytes bs f.1 (leBytes f.2.1 f.2.2)) (List.replicate n 0#8)

/-- An unsigned value limited to `2^n - 1`. -/
def satNat (n v : Nat) : Nat := min v (2 ^ n - 1)

/-- All indices below `n` that satisfy a test, in ascending order. -/
def indicesWhere (n : Nat) (f : Nat → Bool) : List Nat := (List.range n).filter f

/-- Two's-complement value of an `n`-bit number. -/
def toSigned (n v : Nat) : Int :=
  if v % 2 ^ n < 2 ^ (n - 1) then (v % 2 ^ n : Nat) else ((v % 2 ^ n : Nat) : Int) - (2 ^ n : Nat)

/-- The `n`-bit two's-complement representation of an integer. -/
def ofSigned (n : Nat) (v : Int) : Nat := (v % ((2 ^ n : Nat) : Int)).toNat

/-- An integer limited to a range. -/
def clampInt (lo hi v : Int) : Int := if v < lo then lo else if hi < v then hi else v

/-- The list with the element at position `i` changed. -/
def modAt {α : Type} (l : List α) (i : Nat) (f : α → α) : List α := l.modify i f

/-- One byte through the reflected CRC-32C (15 R512). -/
def crc32cBits : Nat → Nat → Nat
  | 0, c => c
  | k + 1, c => crc32cBits k (if c % 2 = 1 then (c / 2) ^^^ 0x82F63B78 else c / 2)

/-- CRC-32C of a byte string: reflected, initial value and final XOR 0xFFFF_FFFF (15 R512). -/
def crc32c (bs : List Byte) : Nat := (bs.foldl (fun c b => crc32cBits 8 (c ^^^ b.toNat)) 0xFFFFFFFF) ^^^ 0xFFFFFFFF

end Sys2Proof.Machine
end

