-- ==== Sys2Proof/Machine/RegMap.lean ====
section
/-! DEFINITION. The set-up registers: their offsets, views, field masks and reset values (17 R545 to R557). -/

namespace Sys2Proof.Machine

/-- CLK_TILE_TARGET_k, Tile clock target for A-die k (02_dies_clock_islands_power_domains.md). -/
def Reg.clkTileTarget : Nat := 0x00E08000
/-- CLK_TILE_STATUS_k, Tile clock status for A-die k (02_dies_clock_islands_power_domains.md). -/
def Reg.clkTileStatus : Nat := 0x00E08040
/-- CLK_PCORE_TARGET_k, Core clock target for P-die k (02_dies_clock_islands_power_domains.md). -/
def Reg.clkPcoreTarget : Nat := 0x00E08080
/-- PWR_DOMAIN_STATUS, Power domain status (02_dies_clock_islands_power_domains.md). -/
def Reg.pwrDomainStatus : Nat := 0x00E00100
/-- PWR_DOMAIN_CTRL, Power domain request (02_dies_clock_islands_power_domains.md). -/
def Reg.pwrDomainCtrl : Nat := 0x00E00108
/-- TIL_REMAP_k_w, Remap table of A-die k, word w (03_tiles_half_plane_double_plane.md). -/
def Reg.tilRemap : Nat := 0x00400000
/-- TIL_DIE_INFO_k, Tile inventory of A-die k (03_tiles_half_plane_double_plane.md). -/
def Reg.tilDieInfo : Nat := 0x00400800
/-- SCU_CFG_BASE, Slot configuration table address (05_formats_scales_training_numerics.md). -/
def Reg.scuCfgBase : Nat := 0x00500000
/-- SCU_TABLE_BASE, Scale table address (05_formats_scales_training_numerics.md). -/
def Reg.scuTableBase : Nat := 0x00500008
/-- SCU_SLOTS, Slots in use (05_formats_scales_training_numerics.md). -/
def Reg.scuSlots : Nat := 0x00500010
/-- SCU_STEP, Open step (05_formats_scales_training_numerics.md). -/
def Reg.scuStep : Nat := 0x00500018
/-- SCU_QUOTA_p, Slot quota of partition p (05_formats_scales_training_numerics.md). -/
def Reg.scuQuota : Nat := 0x00501000
/-- SIE_INFO, Engine information (06_sparse_iteration_engine.md). -/
def Reg.sieInfo : Nat := 0x00600000
/-- SIE_STATE_k, State of the SIE on A-die k (06_sparse_iteration_engine.md). -/
def Reg.sieState : Nat := 0x00600100
/-- FXE_INFO, Engine information (07_field_exchange.md). -/
def Reg.fxeInfo : Nat := 0x00700000
/-- FXE_STATE_k, State of the FXE on A-die k (07_field_exchange.md). -/
def Reg.fxeState : Nat := 0x00700100
/-- GLB_PDIE_INFO_k, Core inventory of P-die k (08_processor_dies_short_vector.md). -/
def Reg.glbPdieInfo : Nat := 0x00000200
/-- PRT_PBANK_CTRL_d, SRAM bank handover on P-die d (08_processor_dies_short_vector.md). -/
def Reg.prtPbankCtrl : Nat := 0x00304000
/-- PRT_PBANK_OWNER_d_w, Bank owners on P-die d, word w (08_processor_dies_short_vector.md). -/
def Reg.prtPbankOwner : Nat := 0x00304080
/-- LAK_INFO, Lake information (09_scratchpad_lake_hbm.md). -/
def Reg.lakInfo : Nat := 0x00800000
/-- LAK_WAYS_p, Lake ways of partition p (09_scratchpad_lake_hbm.md). -/
def Reg.lakWays : Nat := 0x00800100
/-- LAK_WAY_STATUS_k, Way repair state of A-die k (09_scratchpad_lake_hbm.md). -/
def Reg.lakWayStatus : Nat := 0x00800200
/-- HMC_REGION_n, HBM region n (09_scratchpad_lake_hbm.md). -/
def Reg.hmcRegion : Nat := 0x00900000
/-- HMC_STACK_STATUS_s, State of stack s (09_scratchpad_lake_hbm.md). -/
def Reg.hmcStackStatus : Nat := 0x00900400
/-- HMC_REPAIR_CTRL, HBM row repair (09_scratchpad_lake_hbm.md). -/
def Reg.hmcRepairCtrl : Nat := 0x00900600
/-- HMC_SCRUB, Patrol scrub (09_scratchpad_lake_hbm.md). -/
def Reg.hmcScrub : Nat := 0x00900608
/-- HMC_1500_CTRL, Stack test port (09_scratchpad_lake_hbm.md). -/
def Reg.hmc1500Ctrl : Nat := 0x00900610
/-- HMC_1500_DATA, Test port data (09_scratchpad_lake_hbm.md). -/
def Reg.hmc1500Data : Nat := 0x00900618
/-- RNG_SQ_BASE_r, Submission queue address (10_host_attachment_and_rings.md). -/
def Reg.rngSqBase : Nat := 0x00200000
/-- RNG_CQ_BASE_r, Completion queue address (10_host_attachment_and_rings.md). -/
def Reg.rngCqBase : Nat := 0x00200008
/-- RNG_CFG_r, Ring configuration (10_host_attachment_and_rings.md). -/
def Reg.rngCfg : Nat := 0x00200010
/-- RNG_OBIT_r, Obituary slot (10_host_attachment_and_rings.md). -/
def Reg.rngObit : Nat := 0x00200018
/-- RNG_STATE_r, Ring counters (10_host_attachment_and_rings.md). -/
def Reg.rngState : Nat := 0x00200020
/-- RNG_STATE2_r, Ring state (10_host_attachment_and_rings.md). -/
def Reg.rngState2 : Nat := 0x00200028
/-- RNG_SHADOW_r, Shadow line (10_host_attachment_and_rings.md). -/
def Reg.rngShadow : Nat := 0x00200030
/-- HIF_PORT_CFG_q, Host port q (10_host_attachment_and_rings.md). -/
def Reg.hifPortCfg : Nat := 0x00100000
/-- HIF_PART_STATUS, Partition link status (10_host_attachment_and_rings.md). -/
def Reg.hifPartStatus : Nat := 0x00100100
/-- HIF_WAIT_LIMIT, Wait limit (10_host_attachment_and_rings.md). -/
def Reg.hifWaitLimit : Nat := 0x00100108
/-- HIF_HMW_n, Host memory window n (10_host_attachment_and_rings.md). -/
def Reg.hifHmw : Nat := 0x00100200
/-- FAB_ID, Identity in the system (11_jarip_fabric_and_vats.md). -/
def Reg.fabId : Nat := 0x00A00000
/-- FAB_VAT_CFG, Vat shape (11_jarip_fabric_and_vats.md). -/
def Reg.fabVatCfg : Nat := 0x00A00008
/-- FAB_DEAD_TIMEOUT, Dead-target timeout (11_jarip_fabric_and_vats.md). -/
def Reg.fabDeadTimeout : Nat := 0x00A00010
/-- FAB_ROUTE_STATUS, Route state (11_jarip_fabric_and_vats.md). -/
def Reg.fabRouteStatus : Nat := 0x00A00018
/-- FAB_PORT_CFG_p, Port p (11_jarip_fabric_and_vats.md). -/
def Reg.fabPortCfg : Nat := 0x00A00100
/-- FAB_PORT_STATUS_p, Port p status (11_jarip_fabric_and_vats.md). -/
def Reg.fabPortStatus : Nat := 0x00A00200
/-- FAB_JOB_n, Job table entry n (11_jarip_fabric_and_vats.md). -/
def Reg.fabJob : Nat := 0x00A01000
/-- FAB_PART_JOB_p, Job binding of partition p (11_jarip_fabric_and_vats.md). -/
def Reg.fabPartJob : Nat := 0x00A02000
/-- FAB_PART_FAULT, Fabric faults of this partition (11_jarip_fabric_and_vats.md). -/
def Reg.fabPartFault : Nat := 0x00A03000
/-- ETH_QPC_BASE, QP context table (11_jarip_fabric_and_vats.md). -/
def Reg.ethQpcBase : Nat := 0x00C00000
/-- ETH_MR_BASE, Memory-region table (11_jarip_fabric_and_vats.md). -/
def Reg.ethMrBase : Nat := 0x00C00008
/-- ETH_QP_QUOTA_p, QPs of partition p (11_jarip_fabric_and_vats.md). -/
def Reg.ethQpQuota : Nat := 0x00C01000
/-- MOR_INFO, Mordant information (12_collectives_and_job_mapping.md). -/
def Reg.morInfo : Nat := 0x00B00000
/-- MOR_ADMIT_p, Job admission of partition p (12_collectives_and_job_mapping.md). -/
def Reg.morAdmit : Nat := 0x00B00100
/-- MOR_GROUP_n, Collective group n (12_collectives_and_job_mapping.md). -/
def Reg.morGroup : Nat := 0x00B01000
/-- DET_CTRL, Reproducibility control (13_colourfast_and_regeneration.md). -/
def Reg.detCtrl : Nat := 0x01008000
/-- DET_TABLE_VERSION, Reduction table version (13_colourfast_and_regeneration.md). -/
def Reg.detTableVersion : Nat := 0x01008008
/-- DET_INFO, Signature inputs set by the device (13_colourfast_and_regeneration.md). -/
def Reg.detInfo : Nat := 0x01008010
/-- DET_STEP, Partition step counter (13_colourfast_and_regeneration.md). -/
def Reg.detStep : Nat := 0x01008018
/-- DET_SEED_i, Seed i (13_colourfast_and_regeneration.md). -/
def Reg.detSeed : Nat := 0x01008020
/-- DET_SIGNATURE, Reduction signature (13_colourfast_and_regeneration.md). -/
def Reg.detSignature : Nat := 0x01008040
/-- ERR_RING, Error ring (14_faults_spares_checkpoints.md). -/
def Reg.errRing : Nat := 0x00D00000
/-- ERR_RING_STATE, Error ring counters (14_faults_spares_checkpoints.md). -/
def Reg.errRingState : Nat := 0x00D00010
/-- ERR_RING_DROP, Dropped records (14_faults_spares_checkpoints.md). -/
def Reg.errRingDrop : Nat := 0x00D00018
/-- ERR_HEARTBEAT, Heartbeat word (14_faults_spares_checkpoints.md). -/
def Reg.errHeartbeat : Nat := 0x00D00020
/-- ERR_UNIT_CTRL, Unit clear (14_faults_spares_checkpoints.md). -/
def Reg.errUnitCtrl : Nat := 0x00D00100
/-- ERR_SPARE_CTRL, Spare-in (14_faults_spares_checkpoints.md). -/
def Reg.errSpareCtrl : Nat := 0x00D00108
/-- ERR_HEALTH, Package health (14_faults_spares_checkpoints.md). -/
def Reg.errHealth : Nat := 0x00D00110
/-- ERR_SWATCH_CTRL, Swatch (14_faults_spares_checkpoints.md). -/
def Reg.errSwatchCtrl : Nat := 0x00D00118
/-- PRT_EPOCH, Protection epoch (15_partitions_protection_trust.md). -/
def Reg.prtEpoch : Nat := 0x00300000
/-- PRT_COMMIT, Protection commit (15_partitions_protection_trust.md). -/
def Reg.prtCommit : Nat := 0x00300008
/-- PRT_MEAS_w, Protection measurement (15_partitions_protection_trust.md). -/
def Reg.prtMeas : Nat := 0x00300040
/-- PRT_PART_CFG_p, Partition p (15_partitions_protection_trust.md). -/
def Reg.prtPartCfg : Nat := 0x00301000
/-- PRT_TGROUPS_p, Tile groups of partition p (15_partitions_protection_trust.md). -/
def Reg.prtTgroups : Nat := 0x00302000
/-- PRT_REGIONS_p, HBM regions of partition p (15_partitions_protection_trust.md). -/
def Reg.prtRegions : Nat := 0x00303000
/-- SEC_STATUS, Security status (15_partitions_protection_trust.md). -/
def Reg.secStatus : Nat := 0x00F00000
/-- SEC_CTRL, Security control (15_partitions_protection_trust.md). -/
def Reg.secCtrl : Nat := 0x00F00008
/-- CFG_STATUS, Configuration status (15_partitions_protection_trust.md). -/
def Reg.cfgStatus : Nat := 0x00F08000
/-- GLB_RESET, Warm reset (16_power_reset_signals_package.md). -/
def Reg.glbReset : Nat := 0x00000100
/-- PWR_SAG_STATUS, Supply stage (16_power_reset_signals_package.md). -/
def Reg.pwrSagStatus : Nat := 0x00E00200
/-- PWR_LIMIT, Power limit (16_power_reset_signals_package.md). -/
def Reg.pwrLimit : Nat := 0x00E00208
/-- PWR_THERMAL, Hottest readings (16_power_reset_signals_package.md). -/
def Reg.pwrThermal : Nat := 0x00E00300
/-- PWR_INPUT_i, Input i of Table 5 (16_power_reset_signals_package.md). -/
def Reg.pwrInput : Nat := 0x00E00400
/-- TMB_COUNT, Timebase (16_power_reset_signals_package.md). -/
def Reg.tmbCount : Nat := 0x01000000
/-- TMB_CTRL, Timebase control (16_power_reset_signals_package.md). -/
def Reg.tmbCtrl : Nat := 0x01000008
/-- TMB_SLEW, Rate (16_power_reset_signals_package.md). -/
def Reg.tmbSlew : Nat := 0x01000010
/-- TMB_ADJUST, Offset correction (16_power_reset_signals_package.md). -/
def Reg.tmbAdjust : Nat := 0x01000018
/-- TMB_SET, Timebase load (16_power_reset_signals_package.md). -/
def Reg.tmbSet : Nat := 0x01000020
/-- TMB_PPS_LATCH, PPS latch (16_power_reset_signals_package.md). -/
def Reg.tmbPpsLatch : Nat := 0x01000028
/-- TMB_PPS_STATUS, PPS status (16_power_reset_signals_package.md). -/
def Reg.tmbPpsStatus : Nat := 0x01000030
/-- GLB_ID, Device identity (17_setup_register_map.md). -/
def Reg.glbId : Nat := 0x00000000

/-- The view code of Tables 2 to 5 (17 R556): B every view, O the Owner's, P each partition's own, R the
ring's owner and the Owner, T the timebase discipliner, D per partition with copies in view 8, E per
partition with the Owner's error ring in view 8. -/
inductive RegView where
  | B | O | P | R | T | D | E
  deriving DecidableEq, Repr

/-- One 64-bit word of a register: its first offset, the stride and number of its instances, its view, the
masks of its RW, W1C, W1S and locking fields, whether it is shadowed (C) and its reset value. -/
structure RegRow where
  base   : Nat
  stride : Nat
  count  : Nat
  view   : RegView
  rw     : Nat
  w1c    : Nat
  w1s    : Nat
  lock   : Nat
  shadow : Bool
  reset  : Nat
  deriving DecidableEq, Repr

/-- Rows of the register map, part 1 (17 Tables 2 to 5). -/
def regRows1 : List RegRow := [
  ⟨Reg.clkTileTarget, 8, 8, .O, 0xFFF, 0x0, 0x0, 0x0, false, 0xCE4⟩,
  ⟨Reg.clkTileStatus, 8, 8, .O, 0x0, 0x0, 0x0, 0x0, false, 0x0⟩,
  ⟨Reg.clkPcoreTarget, 8, 2, .O, 0xFFF, 0x0, 0x0, 0x0, false, 0xBB8⟩,
  ⟨Reg.pwrDomainStatus, 8, 1, .O, 0x0, 0x0, 0x0, 0x0, false, 0x1⟩,
  ⟨Reg.pwrDomainCtrl, 8, 1, .O, 0x11F, 0x0, 0x1000, 0x0, false, 0x0⟩,
  ⟨Reg.tilDieInfo, 8, 8, .B, 0x0, 0x0, 0x0, 0x0, false, 0x1508B0⟩,
  ⟨Reg.scuCfgBase, 8, 1, .P, 0xFFFFFFFFFFC0, 0x0, 0x0, 0x0, false, 0x0⟩,
  ⟨Reg.scuTableBase, 8, 1, .P, 0xFFFFFFFFFFC0, 0x0, 0x0, 0x0, false, 0x0⟩,
  ⟨Reg.scuSlots, 8, 1, .P, 0x1FFF, 0x0, 0x0, 0x0, false, 0x0⟩,
  ⟨Reg.scuStep, 8, 1, .P, 0x0, 0x0, 0x0, 0x0, false, 0x0⟩,
  ⟨Reg.scuQuota, 8, 8, .O, 0x1FFF, 0x0, 0x0, 0x0, true, 0x0⟩,
  ⟨Reg.sieInfo, 8, 1, .B, 0x0, 0x0, 0x0, 0x0, false, 0x312040⟩,
  ⟨Reg.sieState, 8, 8, .O, 0x0, 0x0, 0x0, 0x0, false, 0x0⟩,
  ⟨Reg.fxeInfo, 8, 1, .B, 0x0, 0x0, 0x0, 0x0, false, 0x4000100⟩,
  ⟨Reg.fxeState, 8, 8, .O, 0x0, 0x0, 0x0, 0x0, false, 0x0⟩,
  ⟨Reg.glbPdieInfo, 8, 2, .B, 0x0, 0x0, 0x0, 0x0, false, 0xC0232⟩,
  ⟨Reg.prtPbankCtrl, 64, 2, .O, 0xF3F3F, 0x0, 0x1000000, 0x0, false, 0x0⟩,
  ⟨Reg.lakInfo, 8, 1, .B, 0x0, 0x0, 0x0, 0x0, false, 0x20101080⟩,
  ⟨Reg.lakWays, 8, 8, .O, 0xFFFF, 0x0, 0x0, 0x0, true, 0x0⟩,
  ⟨Reg.lakWayStatus, 8, 8, .O, 0x0, 0x0, 0x0, 0x0, false, 0x0⟩,
  ⟨Reg.hmcRegion, 16, 64, .O, 0x1FFF1FFF0F0F, 0x0, 0x0, 0x0, true, 0x0⟩,
  ⟨Reg.hmcRegion + 8, 16, 64, .O, 0x1FF, 0x0, 0x0, 0x0, true, 0x0⟩,
  ⟨Reg.hmcStackStatus, 8, 16, .O, 0x0, 0x0, 0x0, 0x0, false, 0x0⟩,
  ⟨Reg.hmcRepairCtrl, 8, 1, .O, 0x103FFFF3F1F0F, 0x0, 0x10000000000000, 0x0, false, 0x0⟩]

/-- Rows of the register map, part 2 (17 Tables 2 to 5). -/
def regRows2 : List RegRow := [
  ⟨Reg.hmcScrub, 8, 1, .O, 0xFFFF, 0x0, 0x0, 0x0, false, 0x18⟩,
  ⟨Reg.hmc1500Ctrl, 8, 1, .O, 0xF0F, 0x0, 0x10000, 0x0, false, 0x0⟩,
  ⟨Reg.hmc1500Data, 8, 1, .O, 0x0, 0x0, 0x0, 0x0, false, 0x0⟩,
  ⟨Reg.rngSqBase, 64, 4096, .R, 0xFFFFFFFFF000, 0x0, 0x0, 0x0, false, 0x0⟩,
  ⟨Reg.rngCqBase, 64, 4096, .R, 0xFFFFFFFFF000, 0x0, 0x0, 0x0, false, 0x0⟩,
  ⟨Reg.rngCfg, 64, 4096, .R, 0xFF03FF07FF051F, 0x0, 0x0, 0x0, false, 0x0⟩,
  ⟨Reg.rngObit, 64, 4096, .R, 0xFFFFFFFFFFE0, 0x0, 0x0, 0x0, false, 0x0⟩,
  ⟨Reg.rngState, 64, 4096, .R, 0x0, 0x0, 0x0, 0x0, false, 0x0⟩,
  ⟨Reg.rngState2, 64, 4096, .R, 0x0, 0x100000000, 0x0, 0x0, false, 0x0⟩,
  ⟨Reg.rngShadow, 64, 4096, .R, 0xFFFFFFFFFFC0, 0x0, 0x0, 0x0, false, 0x0⟩,
  ⟨Reg.hifPortCfg, 8, 4, .O, 0x3F3FFFF1, 0x0, 0x0, 0x3001, true, 0xFF0⟩,
  ⟨Reg.hifPartStatus, 8, 1, .P, 0x0, 0x2, 0x0, 0x0, false, 0x0⟩,
  ⟨Reg.hifWaitLimit, 8, 1, .P, 0xFFFF, 0x0, 0x0, 0x0, false, 0x3E8⟩,
  ⟨Reg.hifHmw, 16, 16, .P, 0xFFFFFFFFFFFF0003, 0x0, 0x0, 0x0, false, 0x0⟩,
  ⟨Reg.hifHmw + 8, 16, 16, .P, 0xFFFFFFFFFFFFFFFF, 0x0, 0x0, 0x0, false, 0x0⟩,
  ⟨Reg.fabId, 8, 1, .O, 0xFFFF0FFF0003FFFF, 0x0, 0x0, 0xFFFF0FFF0003FFFF, true, 0x0⟩,
  ⟨Reg.fabVatCfg, 8, 1, .O, 0xFF1FFF, 0x0, 0x0, 0x1FFF, true, 0x800000⟩,
  ⟨Reg.fabDeadTimeout, 8, 1, .O, 0x3FFF, 0x0, 0x0, 0x0, false, 0x64⟩,
  ⟨Reg.fabRouteStatus, 8, 1, .O, 0x0, 0x0, 0x0, 0x0, false, 0x0⟩,
  ⟨Reg.fabPortCfg, 8, 16, .O, 0x17F, 0x0, 0x0, 0x0, false, 0x0⟩,
  ⟨Reg.fabPortStatus, 8, 16, .O, 0x0, 0x200, 0x0, 0x0, false, 0x0⟩,
  ⟨Reg.fabJob, 32, 64, .O, 0xFFFFFFFFFFFF01FF, 0x0, 0x0, 0x0, true, 0x0⟩,
  ⟨Reg.fabJob + 8, 32, 64, .O, 0xFFFFFFE00000, 0x0, 0x0, 0x0, true, 0x0⟩,
  ⟨Reg.fabJob + 16, 32, 64, .O, 0x7FFFFFF, 0x0, 0x0, 0x0, true, 0x0⟩]

/-- Rows of the register map, part 3 (17 Tables 2 to 5). -/
def regRows3 : List RegRow := [
  ⟨Reg.fabJob + 24, 32, 64, .O, 0x0, 0x0, 0x0, 0x0, true, 0x0⟩,
  ⟨Reg.fabPartJob, 8, 8, .O, 0x7F, 0x0, 0x0, 0x0, true, 0x0⟩,
  ⟨Reg.fabPartFault, 8, 1, .P, 0x0, 0x7, 0x0, 0x0, false, 0x0⟩,
  ⟨Reg.ethQpcBase, 8, 1, .P, 0xFFFFFFFFFF80, 0x0, 0x0, 0x0, false, 0x0⟩,
  ⟨Reg.ethMrBase, 16, 1, .P, 0xFFFF00000001FFFF, 0x0, 0x0, 0x0, false, 0x0⟩,
  ⟨Reg.ethMrBase + 8, 16, 1, .P, 0xFFFFFFFF, 0x0, 0x0, 0x0, false, 0x0⟩,
  ⟨Reg.ethQpQuota, 8, 8, .O, 0x1FFFF0001FFFF, 0x0, 0x0, 0x0, true, 0x0⟩,
  ⟨Reg.morInfo, 8, 1, .B, 0x0, 0x0, 0x0, 0x0, false, 0x40040100⟩,
  ⟨Reg.morAdmit, 16, 8, .O, 0x1FFFF, 0x0, 0x0, 0x0, true, 0x0⟩,
  ⟨Reg.morAdmit + 8, 16, 8, .O, 0xFFFFFFFFFFC0, 0x0, 0x0, 0x0, true, 0x0⟩,
  ⟨Reg.morGroup, 32, 256, .O, 0xFFFFFF0FFF3F07, 0x0, 0x0, 0x0, true, 0x0⟩,
  ⟨Reg.morGroup + 8, 32, 256, .O, 0x7FFFFFFFFFFFF, 0x0, 0x0, 0x0, true, 0x0⟩,
  ⟨Reg.morGroup + 16, 32, 256, .O, 0x0, 0x0, 0x0, 0x0, true, 0x0⟩,
  ⟨Reg.morGroup + 24, 32, 256, .O, 0x0, 0x0, 0x0, 0x0, true, 0x0⟩,
  ⟨Reg.detCtrl, 8, 1, .D, 0x1, 0x0, 0x0, 0x0, false, 0x0⟩,
  ⟨Reg.detTableVersion, 8, 1, .D, 0xFFFFFFFF, 0x0, 0x0, 0x0, false, 0x0⟩,
  ⟨Reg.detInfo, 8, 1, .D, 0x0, 0x0, 0x0, 0x0, false, 0x0⟩,
  ⟨Reg.detStep, 8, 1, .D, 0xFFFFFFFFFFFFFFFF, 0x0, 0x0, 0x0, false, 0x0⟩,
  ⟨Reg.detSeed, 8, 4, .D, 0xFFFFFFFFFFFFFFFF, 0x0, 0x0, 0x0, false, 0x0⟩,
  ⟨Reg.detSignature, 8, 1, .D, 0x0, 0x0, 0x0, 0x0, false, 0x0⟩,
  ⟨Reg.errRing, 16, 1, .E, 0xFFFFFFFFFFC0, 0x0, 0x0, 0x0, false, 0x0⟩,
  ⟨Reg.errRing + 8, 16, 1, .E, 0x7FF011F, 0x0, 0x0, 0x0, false, 0x0⟩,
  ⟨Reg.errRingState, 8, 1, .E, 0xFFFFFFFF00000000, 0x0, 0x0, 0x0, false, 0x0⟩,
  ⟨Reg.errRingDrop, 8, 1, .E, 0x0, 0x100000000, 0x0, 0x0, false, 0x0⟩]

/-- Rows of the register map, part 4 (17 Tables 2 to 5). -/
def regRows4 : List RegRow := [
  ⟨Reg.errHeartbeat, 8, 1, .E, 0xFFFFFFFFFFF8, 0x0, 0x0, 0x0, false, 0x0⟩,
  ⟨Reg.errUnitCtrl, 8, 1, .O, 0x7FF0F, 0x0, 0x1000000, 0x0, false, 0x0⟩,
  ⟨Reg.errSpareCtrl, 8, 1, .O, 0x77FF71, 0x0, 0x1000000, 0x0, false, 0x1⟩,
  ⟨Reg.errHealth, 8, 1, .O, 0x0, 0x0, 0x0, 0x0, false, 0x0⟩,
  ⟨Reg.errSwatchCtrl, 16, 1, .O, 0xFF0F, 0x0, 0x1000000000000, 0x0, false, 0xA0B⟩,
  ⟨Reg.errSwatchCtrl + 8, 16, 1, .O, 0xFFFFFFFFFFC0, 0x0, 0x0, 0x0, false, 0x0⟩,
  ⟨Reg.prtEpoch, 8, 1, .B, 0x0, 0x0, 0x0, 0x0, false, 0x0⟩,
  ⟨Reg.prtCommit, 8, 1, .O, 0x0, 0x0, 0x1, 0x0, false, 0x0⟩,
  ⟨Reg.prtMeas, 8, 6, .O, 0x0, 0x0, 0x0, 0x0, false, 0x0⟩,
  ⟨Reg.prtPartCfg, 64, 8, .O, 0xFF7FFFFFFF01, 0x0, 0x2, 0x0, true, 0x0⟩,
  ⟨Reg.prtPartCfg + 8, 64, 8, .O, 0xFFFFFFF, 0x0, 0x0, 0x0, true, 0x0⟩,
  ⟨Reg.prtPartCfg + 16, 64, 8, .O, 0x7FF0FFF, 0x0, 0x0, 0x0, true, 0x0⟩,
  ⟨Reg.prtTgroups, 32, 8, .O, 0xFFFFFFFFFFFFFFFF, 0x0, 0x0, 0x0, true, 0x0⟩,
  ⟨Reg.prtTgroups + 8, 32, 8, .O, 0xFFFFFFFFFFFFFFFF, 0x0, 0x0, 0x0, true, 0x0⟩,
  ⟨Reg.prtTgroups + 16, 32, 8, .O, 0xFFFFFFFFFF, 0x0, 0x0, 0x0, true, 0x0⟩,
  ⟨Reg.prtRegions, 8, 8, .O, 0xFFFFFFFFFFFFFFFF, 0x0, 0x0, 0x0, true, 0x0⟩,
  ⟨Reg.secStatus, 8, 1, .B, 0x0, 0x0, 0x0, 0x0, false, 0x1⟩,
  ⟨Reg.secCtrl, 8, 1, .O, 0x6, 0x0, 0x19, 0x0, false, 0x0⟩,
  ⟨Reg.cfgStatus, 8, 1, .O, 0x0, 0x0, 0x0, 0x0, false, 0x0⟩,
  ⟨Reg.glbReset, 8, 1, .O, 0x0, 0x0, 0x0, 0x0, false, 0x0⟩,
  ⟨Reg.pwrSagStatus, 8, 1, .O, 0x0, 0xFFFF00000000, 0x0, 0x0, false, 0x0⟩,
  ⟨Reg.pwrLimit, 8, 1, .O, 0xFFF0FFF, 0x0, 0x0, 0x0, false, 0xCE40E10⟩,
  ⟨Reg.pwrThermal, 8, 1, .O, 0x0, 0x0, 0x0, 0x0, false, 0x0⟩,
  ⟨Reg.pwrInput, 8, 5, .O, 0x0, 0xFFFF0004, 0x0, 0x0, false, 0x0⟩]

/-- Rows of the register map, part 5 (17 Tables 2 to 5). -/
def regRows5 : List RegRow := [
  ⟨Reg.tmbCount, 8, 1, .B, 0x0, 0x0, 0x0, 0x0, false, 0x0⟩,
  ⟨Reg.tmbCtrl, 8, 1, .O, 0x1F, 0x0, 0x0, 0x0, false, 0x8⟩,
  ⟨Reg.tmbSlew, 8, 1, .T, 0xFFFFFFFF, 0x0, 0x0, 0x0, false, 0x0⟩,
  ⟨Reg.tmbAdjust, 8, 1, .T, 0xFFFFFFFF, 0x0, 0x0, 0x0, false, 0x0⟩,
  ⟨Reg.tmbSet, 8, 1, .O, 0x0, 0x0, 0x0, 0x0, false, 0x0⟩,
  ⟨Reg.tmbPpsLatch, 8, 1, .B, 0x0, 0x0, 0x0, 0x0, false, 0x0⟩,
  ⟨Reg.tmbPpsStatus, 8, 1, .B, 0x0, 0x0, 0x0, 0x0, false, 0x0⟩,
  ⟨Reg.glbId, 8, 1, .B, 0x0, 0x0, 0x0, 0x0, false, 0x14820⟩]

/-- The remap table and the bank owner words, whose instances have two indices (03, 08). -/
def regRowsX : List RegRow := [
  ⟨Reg.tilRemap + 0x0, 8, 21, .O, 0, 0, 0, 0, false, 0⟩,
  ⟨Reg.tilRemap + 0x100, 8, 21, .O, 0, 0, 0, 0, false, 0⟩,
  ⟨Reg.tilRemap + 0x200, 8, 21, .O, 0, 0, 0, 0, false, 0⟩,
  ⟨Reg.tilRemap + 0x300, 8, 21, .O, 0, 0, 0, 0, false, 0⟩,
  ⟨Reg.tilRemap + 0x400, 8, 21, .O, 0, 0, 0, 0, false, 0⟩,
  ⟨Reg.tilRemap + 0x500, 8, 21, .O, 0, 0, 0, 0, false, 0⟩,
  ⟨Reg.tilRemap + 0x600, 8, 21, .O, 0, 0, 0, 0, false, 0⟩,
  ⟨Reg.tilRemap + 0x700, 8, 21, .O, 0, 0, 0, 0, false, 0⟩,
  ⟨Reg.prtPbankOwner + 0x0, 8, 4, .O, 0, 0, 0, 0, false, 0⟩,
  ⟨Reg.prtPbankOwner + 0x40, 8, 4, .O, 0, 0, 0, 0, false, 0⟩]

/-- The whole register map. -/
def regRows : List RegRow := regRows1 ++ regRows2 ++ regRows3 ++ regRows4 ++ regRows5 ++ regRowsX

/-- The row that holds offset `off`, a multiple of 8. -/
def RegRow.covers (r : RegRow) (off : Nat) : Bool :=
  decide (r.base ≤ off) && decide ((off - r.base) % r.stride = 0) && decide ((off - r.base) / r.stride < r.count)

/-- The row of the register word at an offset; an offset that decodes nothing has none (17 R546). -/
def regRow (off : Nat) : Option RegRow := regRows.find? (fun r => r.covers off)

/-- The key, in the register file, of a register word that every view or the Owner's view shows. -/
def okey (off : Nat) : Nat := off / 8

/-- The key of partition `p`'s copy of a register word; index 8 is the Owner's error ring set. -/
def pkey (p off : Nat) : Nat := off / 8 + (p + 1) * 2 ^ 24

/-- Default role of fabric port `p`: torus direction and index, or Ethernet (11 Table 2). -/
def portCfgReset (p : Nat) : Nat :=
  if p % 8 < 6 then 1 + (p % 8) * 8 + (p / 8) * 64 else 3

/-- The reset value of a register word (17 Tables 2 to 5), by its key. Fuse and configuration values are
those of log entries 4 and 5. -/
def regReset (key : Nat) : Word :=
  let off := (key % 2 ^ 24) * 8
  if Reg.tilRemap ≤ off ∧ off < Reg.tilRemap + 0x800 then
    let j := (off - Reg.tilRemap) % 0x100
    BitVec.ofNat 64 (leNat ((List.range 8).map (fun i => BitVec.ofNat 8 (if j < 168 then j + i else 0))))
  else if Reg.prtPbankOwner ≤ off ∧ off < Reg.prtPbankOwner + 0x80 then
    (if (off - Reg.prtPbankOwner) % 0x40 = 24 then 0x9999888888888888#64 else 0x8888888888888888#64)
  else if Reg.fabPortCfg ≤ off ∧ off < Reg.fabPortCfg + 0x80 then
    BitVec.ofNat 64 (portCfgReset ((off - Reg.fabPortCfg) / 8))
  else match regRow off with
    | some r => BitVec.ofNat 64 r.reset
    | none => 0#64

end Sys2Proof.Machine
end

