-- ==== Sys2Proof/Machine/State.lean ====
section
/-! DEFINITION. The state of the block: every register, queue, buffer, counter, mode and pin the spec gives the
package, and the queue of waiting commands. -/

namespace Sys2Proof.Machine

/-- Why a command stops with a fault. -/
inductive Fault where
  /-- Raised by a command that names a unit, ring, partition, port, tile, hart or index the package does not
  have (WellFormed.lean gives the ranges). Safe: the spec gives such a command no meaning. -/
  | noSuchUnit
  deriving DecidableEq, Repr

/-- Why a command is refused. -/
inductive Refusal where
  /-- Raised by an arm of `exec` whose command has no meaning in the model. Safe: the machine stops. -/
  | notModelled (mnemonic : String)
  deriving DecidableEq, Repr

/-- Boot and power phases (15 R508, 16 R527, 10 R338). -/
inductive BootPhase where
  | off | verifying | powering | memInit | done | recovery | fatal
  deriving DecidableEq, Repr

/-- A descriptor's phase between its fetch and its record (R19, R24, R319). -/
inductive Phase where
  | waiting | running
  deriving DecidableEq, Repr

/-- Why an access fails: an address error, an uncorrectable sector (09 R293), a fenced controller or Lake slice (14 Table 2), or a power
domain that is off or switches (02 R51), with the
address as the requester gave it and, where it resolved, the key of the byte. -/
inductive MemErr where
  | addr (a : Nat)
  | bad (a key : Nat)
  | fenced (a key : Nat)
  | off (a key : Nat)
  deriving DecidableEq, Repr

/-- An accumulator set (03 R65, R71): tag 0 FP32, 1 INT32, 2 FP64, its elements' bits by row-major index, and
the sticky flags INV, OVF and SAT. -/
structure AccSet where
  tag  : Nat
  elts : Sparse Nat
  inv  : Bool
  ovf  : Bool
  sat  : Bool
  deriving DecidableEq, Repr

/-- A zeroed accumulator set, tagged FP32 (03 R83). -/
def AccSet.init : AccSet := ⟨0, [], false, false, false⟩

/-- An open loop (03 R98): first command of the body, the command after it, the runs left, and, where the body is short enough for the loop
buffer, the commands of it fetched so far, by position. -/
structure LoopFrame where
  first : Nat
  last  : Nat
  left  : Nat
  short : Bool
  code  : List (Nat × List Byte)
  deriving DecidableEq, Repr

/-- An incomplete matrix command (03 R72, R86): its number among the tile's commands, its accumulator set, and whether it writes the set. -/
structure MatCmd where
  no     : Nat
  set    : Nat
  writes : Bool
  deriving DecidableEq, Repr

/-- An incomplete VEC (03 R72, R86, 04 R128): its number, the sets it reads, and its posts not yet accepted. -/
structure VecCmd where
  no    : Nat
  sets  : List Nat
  posts : Nat
  deriving DecidableEq, Repr

/-- An incomplete DMA command (03 R86, R88, R96): its number, its position in the stream, its bytes, the value of its base slot at dispatch,
its number among the multicasts, whether it has begun, and the parts of it that have not landed. -/
structure DmaEntry where
  no    : Nat
  pos   : Nat
  cmd   : List Byte
  base  : Nat
  mcast : Option Nat
  begun : Bool
  parts : Nat
  deriving DecidableEq, Repr

/-- A post that the SCU of a die has not accepted (04 R128, 05 R143): the descriptor and the tile it comes from, the
slot, the amax as FP32 bits and the overflow bit. -/
structure Post where
  die  : Nat
  part : Nat
  ring : Nat
  seq  : BitVec 32
  tile : Option Nat
  slot : Nat
  amax : Nat
  ovf  : Bool
  deriving DecidableEq, Repr

/-- A logical tile (03 R71, R78 to R99, 04 R102). `running` names the descriptor whose stream it runs, with its rank; `burst` is the number
of the 4 KiB burst of the stream that was fetched last, with its commands (10 R342); `qmat`, `qvec` and `qdma` are the incomplete
commands of the three queues; `cmds` counts the commands that entered them. -/
structure Tile where
  accs    : List AccSet
  vstat   : Nat
  running : Option (Nat × BitVec 32)
  rank    : Nat
  bases   : List Nat
  pos     : Nat
  burst   : Nat × List (MemErr ⊕ List Byte)
  loops   : List LoopFrame
  bar     : Option Nat
  barsG   : Nat
  barsD   : Nat
  mcasts  : Nat
  qmat    : List MatCmd
  qvec    : List VecCmd
  qdma    : List DmaEntry
  cmds    : Nat
  ended   : Bool
  stopped : Bool
  failed  : Option (Nat × Nat)
  deriving DecidableEq, Repr

/-- A tile after reset. -/
def Tile.init : Tile :=
  ⟨List.replicate 4 AccSet.init, 0, none, 0, List.replicate 8 0, 0, (0, []), [], none, 0, 0, 0, [], [], [], 0, false, false, none⟩

/-- A device tile group (03 R60, R80, R83, 14 R464, R465, R474): being zeroed, withdrawn, in a spare-in, its lost
state by tile and banks, and the Swatch pattern it runs, the tiles that have not finished it, and those with one difference. -/
structure Group where
  zeroing   : Bool
  withdrawn : Bool
  sparing   : Option Nat
  lost      : List (Nat × Nat)
  swatch    : Option Nat
  swLeft    : List Nat
  swFailed  : List Nat
  deriving DecidableEq, Repr

/-- A tile group after reset. -/
def Group.init : Group := ⟨false, false, none, [], none, [], []⟩

/-- The open record of an SCU slot for the step that is open (05 R143): largest posted amax as FP32 bits, overflow
bit and posted bit. -/
structure OpenRec where
  amax   : Nat
  ovf    : Bool
  posted : Bool
  deriving DecidableEq, Repr

/-- The closed state of an SCU slot (05 R146, R152): history of FP32 amax values, oldest first, the three scales, the
backoff and the clean count, and the flags of the last close. -/
structure ScuSlot where
  hist      : List Nat
  q         : Nat
  d         : Nat
  dp        : Nat
  b         : Nat
  clean     : Nat
  ovf       : Bool
  nonfinite : Bool
  clamp     : Bool
  deriving DecidableEq, Repr

/-- A cleared slot; the scales of a slot never set are 1.0 (log entry 10, PRESUMED). -/
def ScuSlot.init : ScuSlot := ⟨[], 0x3F800000, 0x3F800000, 0x3F800000, 0, 0, false, false, false⟩

/-- What an SCU descriptor sampled at its start (05, registers): the bases and NSLOTS. A CLOSE over a group keeps the configuration entries that it
read, the open records it took, by slot, and the results of its Mordant operations, by operation, until `opsLeft` is 0. -/
structure ScuWork where
  cfg     : Nat
  table   : Nat
  nslots  : Nat
  cfgs    : List (List Byte)
  taken   : Sparse OpenRec
  results : List (Nat × List Nat)
  opsLeft : Nat
  deriving DecidableEq, Repr

/-- A running optimiser descriptor (05 R158 to R165): its posts not accepted, the status it will end with, and the ranges of the store it wrote. -/
structure OptWork where
  posts : Nat
  final : BitVec 16
  wrote : List (Nat × Nat)
  deriving DecidableEq, Repr

/-- A block record as read (06 Table 3): its index, block column, exponent and mantissas, row-major. -/
structure SieRec where
  ix  : Nat
  col : Nat
  e   : Int
  m   : List Int
  deriving DecidableEq, Repr

/-- What a solve read when it started (06 Tables 5 to 8, 11, 12): the control block's fields and the matrix, its FP64 copy, the windows,
the right-hand side, the guess, the halo plan and the factors. `total` counts the records, `groups` holds Jacobi or block-Jacobi factors as (exponent, mantissas),
`ilu` the ILU(0) factor records of each block row, `doms` the ILU(0) domains as (first block row, block rows by level). -/
structure SieIn where
  ctrl    : List Byte
  b       : Nat
  nbrows  : Nat
  nmirror : Nat
  nrow    : Nat
  fp      : Nat
  certCrc : Nat
  total   : Nat
  recs    : List (List SieRec)
  a64     : List (List (Nat × Nat))
  win     : List (Int × Int)
  rhs     : List Nat
  guess   : List Nat
  zero    : Bool
  wsFlags : Nat
  nrecv   : Nat
  segs    : List (Nat × Nat × Nat × Nat)
  groups  : List (Int × List Int)
  ilu     : List (List SieRec)
  doms    : List (Nat × List (List Nat))
  deriving DecidableEq, Repr

/-- A range breach that this member detected (06 R181): role, die, sweep, iteration, index and the exponent needed; none where
the spec names no exponent (a local sum, R185). -/
structure SieBreach where
  role  : Nat
  die   : Nat
  sweep : Nat
  iter  : Nat
  index : Nat
  exp   : Option Int
  deriving DecidableEq, Repr

/-- A running solve (06 R196 to R208). `stage`: 0 the check reduction of R204, 1 the reduction after a factorisation, 2 the loop of R196.
`answers` holds the lanes of each finished reduction and the mirror data of each finished halo exchange, oldest first; the loop's state is
a function of them. `wait`: 0 a reduction, whose own lanes are `lanes`, 1 a halo exchange of the vector `code`, 2 an iteration boundary.
`passed` counts the boundaries passed, `result` is what the Mordant path returned, `ops` counts the reductions issued and `halos` the halo exchanges; `acks` counts the segments of the exchange that are not acknowledged, and
`adds` names the nodes whose arrival counters are then added to; `asked` and `out`
say that the solve is to be, or is, switched out; `rep` is the report as of the last stop. -/
structure SieWork where
  inp     : SieIn
  stage   : Nat
  answers : List (List Nat)
  wait    : Nat
  lanes   : List Nat
  code    : Nat
  passed  : Nat
  result  : Option (List Nat)
  ops     : Nat
  halos   : Nat
  acks    : Nat
  adds    : List Nat
  asked   : Bool
  out     : Bool
  pivots  : Nat
  fmas    : Nat
  fbreach : Option SieBreach
  sweep   : Nat
  iter    : Nat
  rgroups : Nat
  rep     : List Byte
  deriving DecidableEq, Repr

/-- The share of one die of an FXE descriptor (07 R212, R219, R225): the die, its next row, the row after its last, the rows done, and what
its post will hold. -/
structure FxeDie where
  die  : Nat
  next : Nat
  stop : Nat
  rows : Nat
  amax : Nat
  ovf  : Bool
  deriving DecidableEq, Repr

/-- A faulting row (07 R224 to R226): the row, the status it ends the descriptor with, its kind, feature and address, and the failed
access. -/
structure FxeFault where
  row     : Nat
  status  : BitVec 16
  kind    : Nat
  feature : Nat
  addr    : Nat
  mem     : Option MemErr
  deriving DecidableEq, Repr

/-- A running FXE descriptor (07 R210 to R229): what it read when it started (control block, feature entries, field entries, scale as FP32
bits, fingerprint), its parity, its dies, the lowest faulting row, the die whose fault that is, whether its dies have stopped and
posted, and the posts not accepted. -/
structure FxeWork where
  ctrl   : List Byte
  feats  : List (List Byte)
  fields : List (List Byte)
  scale  : Nat
  fp     : Nat
  parity : Nat
  dies   : List FxeDie
  fault  : Option FxeFault
  unit   : Nat
  halted : Bool
  posts  : Nat
  deriving DecidableEq, Repr

/-- Privilege modes of a hart (08 R236). -/
inductive Priv where
  | m | hs | u | vs | vu
  deriving DecidableEq, Repr

/-- Where the value of a hart's load, AMO, LR or SC goes: to the value returned of a memory command, to a short-vector register (QLD), or to an
integer or floating-point register of a scalar instruction of `len` bytes, whose value has `n` bytes (08 R236, R247). -/
inductive HartDest where
  | value
  | q (r : Nat)
  | x (r n : Nat) (signed : Bool) (len : Nat)
  | f (r n len : Nat)
  deriving DecidableEq, Repr

/-- A Vat load or AMO that waits for its answers (11 R360): where its value goes, the answers that have not come, the address and the bytes so
far. -/
structure HartWait where
  dest  : HartDest
  left  : Nat
  va    : Nat
  bytes : List Byte
  deriving DecidableEq, Repr

/-- A hart (08 R236 to R255, 14 R466): its mode, pc, integer, floating-point and short-vector registers, fcsr, QSTAT, the control and
status registers of its privileged architecture by number (mstatus with XS among them), whether it has stopped, a Vat load or AMO that waits
for its answers, and the value the last load, AMO or register read returned. -/
structure Hart where
  mode    : Priv
  pc      : Word
  x       : Sparse Word
  f       : Sparse Word
  q       : Sparse (BitVec 128)
  fcsr    : Nat
  qstat   : Word
  csr     : Sparse Word
  stopped : Bool
  waiting : Option HartWait
  reply   : BitVec 128
  deriving DecidableEq, Repr

/-- A hart after reset (08 R242; the scalar registers by log entry 8). -/
def Hart.init : Hart := ⟨.m, 0, [], [], [], 0, 0, [], false, none, 0⟩

/-- A bank handover in progress on a P-die (08 R259): its first bank, the bank after its last, the new owner, and the banks
that still drain or zero. -/
structure Handover where
  first    : Nat
  last     : Nat
  owner    : Nat
  draining : List Nat
  zeroing  : List Nat
  deriving DecidableEq, Repr

/-- A row repair in progress (09 R298): its registers' value. -/
structure RepairWork where
  stack : Nat
  pc    : Nat
  bank  : Nat
  row   : Nat
  hard  : Bool
  deriving DecidableEq, Repr

/-- A running COPY, FILL, SEPIA or SNAPSHOT descriptor on a copy engine (10 R330, 13 R441): its engine, the bytes to
produce, the next offset to issue, the offsets in flight, the failing burst of lowest offset with its status, DETAIL and failed access, and what it
sampled at its start (the Sepia key and counter base). -/
structure CopyWork where
  engine : Nat
  total  : Nat
  next   : Nat
  flying : List Nat
  fail   : Option (Nat × BitVec 16 × Nat × Option MemErr)
  key    : Word
  deriving DecidableEq, Repr

/-- Who issued a Vat request and where its answer goes (11 R360, R366). -/
inductive VatFrom where
  /-- A tile's DMA command: the tile, the command's number and the store key that receives read data. -/
  | tile (t dma key : Nat)
  /-- A row, or part of one, of a multicast: the tile that fetches it, the multicast's number and the store key that receives the data in each
  tile of the group. -/
  | mcast (t n : Nat) (keys : List Nat)
  /-- A tile's LDBASE: the tile. -/
  | ldbase (t : Nat)
  /-- A copy engine's burst: ring, descriptor, offset and length of the burst. -/
  | dma (ring : Nat) (seq : BitVec 32) (off len : Nat)
  /-- A solve's halo write or arrival counter. -/
  | sie (ring : Nat) (seq : BitVec 32)
  /-- A hart's access, or part of one: the hart, the address of the access and the offset of the part. -/
  | hart (h va at_ : Nat)
  /-- A device engine's own request on behalf of a descriptor. -/
  | engine (ring : Nat) (seq : BitVec 32)
  /-- A Mordant packet of a tree edge, which nothing waits for (12 R406, R426). -/
  | edge
  deriving DecidableEq, Repr

/-- A Vat request that waits to be issued (11 R360 to R366): the partition, the requester, the target node, the
offset in the exported window, whether it asks for priority, the operation (0 read, 1 write, 2 to 15 atomics by the
operation code of R280), the length and the data. -/
structure VatReq where
  part : Nat
  src  : VatFrom
  fdie : Nat
  node : Nat
  off  : Nat
  prio : Bool
  op   : Nat
  len  : Nat
  data : List Byte
  deriving DecidableEq, Repr

/-- A Jarip port beside its registers (11 R345 to R357): the role, direction and index of its last bring-up (FAB_PORT_CFG [6:0]), the FSEQ of
the next data flit, the last good FSEQ received, consecutive failed flits, the flits kept for replay, the start of a packet whose
end has not arrived, the packets that wait for a credit, the partner's credits for each virtual lane, its lanes that have failed,
the lane being moved to a spare, the lanes that spares carry (lane, spare), the spares that have worn, and the partner's CAPS. -/
structure Port where
  cfg     : Nat
  txSeq   : Nat
  rxLast  : Nat
  fails   : Nat
  sent    : List (List Byte)
  rxBytes : List Byte
  held    : List Packet
  credits : List Word
  bad     : List Nat
  sparing : Option Nat
  spares  : List (Nat × Nat)
  worn    : List Nat
  nbrCaps : Nat
  deriving DecidableEq, Repr

/-- A port after reset. -/
def Port.init : Port := ⟨0, 0, 4095, 0, [], [], [], [0, 0, 0, 0], [], none, [], [], 0⟩

/-- What the package sends: a flit, a packet routed to a port (none: to the package itself), an Ethernet frame or a CNP of a QP through a MAC of its
port, a management message. -/
inductive Wire where
  | flit (port : Nat) (bytes : List Byte)
  | packet (port : Option Nat) (p : Packet)
  | frame (port mac : Nat) (dqpn : Nat) (f : Frame)
  | cnp (port mac : Nat) (dqpn : Nat)
  | message (via : Transport) (bytes : List Byte)
  deriving DecidableEq, Repr

/-- A request in a source F-die's replay store (11 R366): its sequence number, requester, packet, the NACKs it met, the port it last left
through, the tick of its first transmission, and whether it carries a RESYNC. -/
structure SrcReq where
  seq   : Nat
  src   : VatFrom
  part  : Nat
  len   : Nat
  pkt   : Packet
  nacks : Nat
  port  : Option Nat
  first : Nat
  sync  : Bool
  deriving DecidableEq, Repr

/-- A pair at its source (11 R366, R369, R374): the next number, the unacknowledged requests, the tick of the failure after which the next
request carries a RESYNC, and the number a backoff will replay from. -/
structure SrcPair where
  next    : Nat
  reqs    : List SrcReq
  resync  : Option Nat
  backoff : Option Nat
  deriving DecidableEq, Repr

/-- A pair that has issued nothing. -/
def SrcPair.init : SrcPair := ⟨0, [], none, none⟩

/-- A pair at its destination (11 R367, R374): the next number expected, the numbers of the accepted requests not yet performed, oldest first,
early arrivals, and the number of the last RESYNC. -/
structure DstPair where
  expected : Nat
  queued   : List Nat
  held     : List Packet
  synced   : Option Nat
  deriving DecidableEq, Repr

/-- A pair that nothing has arrived on. -/
def DstPair.init : DstPair := ⟨0, [], [], none⟩

/-- A request in a Lake's inbound queue (09 R285): the packet, the local partition, the resolved address, and whether it holds a reserved
entry. -/
structure LakeReq where
  pkt  : Packet
  part : Nat
  va   : Nat
  resv : Bool
  deriving DecidableEq, Repr

/-- A running FENCE (11 R382, R383): for each pair not yet done its recorded number, and the nodes that failed. -/
structure FenceWork where
  waits  : List (Nat × Nat)
  failed : List Nat
  deriving DecidableEq, Repr

/-- An outstanding operation of a QP (11 R389): its descriptor, its OP, its first PSN and its number of packets. -/
structure NetOp where
  ring : Nat
  seq  : BitVec 32
  op   : Nat
  psn  : Nat
  pkts : Nat
  deriving DecidableEq, Repr

/-- A queue pair (11 R386 to R391): its state, bytes 0 to 63 of its context as last read, the next PSN to send, the next PSN
expected, the outstanding operations, the posted RECVs, the retries used, its rates in Mb/s, α and g's period count,
and the tick of the last CNP it answered with. -/
structure Qp where
  st      : Nat
  ctx     : List Byte
  sendPsn : Nat
  recvPsn : Nat
  ops     : List NetOp
  recvs   : List (Nat × BitVec 32)
  retries : Nat
  rnrs    : Nat
  rate    : Rat
  target  : Rat
  alpha   : Rat
  periods : Nat
  lastCnp : Option Nat
  deriving DecidableEq, Repr

/-- A QP in RESET. -/
def Qp.init : Qp := ⟨0, List.replicate 64 0#8, 0, 0, [], [], 0, 0, 0, 0, 1, 0, none⟩

/-- A Mordant operation that waits to be issued for a descriptor (12 R396, R403, 05 R149): the group, the kind (0 all-reduce,
1 reduce, 2 broadcast, 3 barrier), the lane formats and values, the root, W in µs, the descriptor and the operation's
number within it. -/
structure MOp where
  group   : Nat
  kind    : Nat
  fmts    : List Nat
  lanes   : List Nat
  root    : Nat
  timeout : Nat
  ring    : Nat
  seq     : BitVec 32
  idx     : Nat
  deriving DecidableEq, Repr

/-- A Mordant operation's context at this node (12 R404): its group and number, the header as first seen (kind, LANEFMT, ROOT, NLANES, TAG), its own
operation once entered, the values that have arrived in order of arrival (none: its own), the partial it sent, whether that was NACKed, a
failure (lowest silent node, silent nodes; 0 nodes for a mismatch), and whether the root has ended it. -/
structure MCtx where
  group  : Nat
  opseq  : Nat
  hdr    : List Nat
  own    : Option MOp
  got    : List (Option Nat × List Nat)
  val    : Option (List Nat)
  nacked : Bool
  fail   : Option (Nat × Nat)
  ended  : Bool
  deriving DecidableEq, Repr

/-- One step of a bulk all-reduce on this member (12 R408): its axis, whether it gathers, and the element ranges it sends and receives. -/
structure BulkStep where
  axis   : Nat
  gather : Bool
  sendLo : Nat
  sendHi : Nat
  recvLo : Nat
  recvHi : Nat
  deriving DecidableEq, Repr

/-- A bulk all-reduce (12 R408): `stage` 0 the check, 1 the steps, 2 the barrier; the members before and after this one on each axis, the steps,
how many are done, whether the present one has sent, and the segments that have arrived, by step. -/
structure BulkWork where
  stage  : Nat
  before : List Nat
  after  : List Nat
  steps  : List BulkStep
  done   : Nat
  sent   : Bool
  inbox  : List (Nat × List Byte)
  deriving DecidableEq, Repr

/-- An all-to-all (12 R410): its phase, whether its writes have been issued, the requests not acknowledged, whether the phase's barrier is
entered, the members' nodes by rank, and the rows that each accepts of this
member's. -/
structure AtoaWork where
  phase  : Nat
  begun  : Bool
  acks   : Nat
  barred : Bool
  nodes  : List Nat
  grants : List (Nat × Nat)
  deriving DecidableEq, Repr

/-- A queue operation (12 R414 to R416): its control block as read, whether it still waits, and the requests not acknowledged. -/
structure QueueWork where
  qcb     : List Byte
  waiting : Bool
  acks    : Nat
  deriving DecidableEq, Repr

/-- A member of a launch tree as its parent sees it (12 R420, R421): its node, whether it has acknowledged, and its report (prepared, failed, busy,
refused). -/
structure LaunchKid where
  node   : Nat
  acked  : Bool
  counts : Option (Nat × Nat × Nat × Nat)
  deriving DecidableEq, Repr

/-- A launch or teardown at this node (12 R418 to R424). `phase` 0 prepare, 1 commit, 2 teardown; `answer` 0 not prepared yet, 1 prepared, 2 BUSY, 3
REFUSED, 4 busy for too long; whether it was ever BUSY, the admitting partition, the reserved entry and the launch block as read; the parent, the children
and the number of children declared silent (at a root that commits, the BUSY count); at the root the descriptor and the nodes that notices named; whether the report has gone up, and whether a commit here
waits for another to end (15 R497). -/
structure LaunchSt where
  job     : Nat
  key     : Nat
  shape   : List Byte
  phase   : Nat
  answer  : Nat
  busy    : Bool
  part    : Option Nat
  entry   : Option Nat
  parent  : Option Nat
  kids    : List LaunchKid
  lost    : Nat
  root    : Option (Nat × BitVec 32)
  failed  : List Nat
  block   : List Byte
  told    : Bool
  due     : Bool
  deriving DecidableEq, Repr

/-- The error state of a unit of Table 2 (14 R448): 0 RUN, 1 HANDLING, 2 FENCED; the error that struck it first,
whether a self-test runs on it, and whether it failed one. -/
structure UnitSt where
  st      : Nat
  first   : Option (Nat × Nat)
  testing : Bool
  failed  : Bool
  deriving DecidableEq, Repr

/-- A unit after reset. -/
def UnitSt.init : UnitSt := ⟨0, none, false, false⟩

/-- A running SNAP's protection (14 R478): its descriptor, the blocks not copied yet and the writes that stall, oldest first. -/
structure Snap where
  ring    : Nat
  seq     : BitVec 32
  blocks  : List Nat
  stalled : List (Nat × List Byte)
  deriving DecidableEq, Repr

/-- A SNAPSHOT descriptor on a copy engine (14 R476 to R482): its engine and stage, the regions as (address, bytes), the data of a SNAP or
the parts that a RESTORE has read, as (offset, bytes), the slot header, the bytes issued and the Vat requests not answered. SNAP: stage 0
invalidates the slots, 1 copies, 2 waits for the remote copy, 3 for its COMMIT. RESTORE: 0 reads the header, 1 copies. -/
structure SnapWork where
  engine : Nat
  stage  : Nat
  parts  : List (Nat × Nat)
  data   : List Byte
  got    : List (Nat × List Byte)
  header : List Byte
  done   : Nat
  acks   : Nat
  deriving DecidableEq, Repr

/-- A configuration block in flash (15 R512, R513): its 32-byte header and data as read, and the register words that its data sets, as (key, value); the spec
gives the data no layout (log entry 5). -/
structure CfgBlock where
  bytes : List Byte
  sets  : List (Nat × Nat)
  deriving DecidableEq, Repr

/-- Configuration block `id` with VERSION 0, no data and a good CHECK, which sets nothing (log entry 5). -/
def CfgBlock.empty (id : Nat) : CfgBlock :=
  ⟨[BitVec.ofNat 8 id, 0#8, 0#8, 0#8, 0#8, 0#8, 0#8, 0#8] ++ (match id with
    | 1 => [0x61#8, 0xE6#8, 0x37#8, 0xB7#8]
    | 2 => [0x3C#8, 0x97#8, 0xDC#8, 0xF1#8]
    | 3 => [0xF7#8, 0x47#8, 0x7A#8, 0xCC#8]
    | 4 => [0x86#8, 0x75#8, 0x0A#8, 0x7C#8]
    | _ => [0x4D#8, 0xA5#8, 0xAC#8, 0x41#8]) ++ List.replicate 20 0#8, []⟩

/-- The firmware image that slot A holds at reset: every version 0, stepping B1, no body, a signature that verifies (log entry 6). -/
def Image.first : Image :=
  ⟨[0#8, 0#8, 0#8, 0#8, 0#8, 0#8, 0#8, 0#8, 1#8] ++ List.replicate 15 0#8 ++ [
    0x38#8, 0xB0#8, 0x60#8, 0xA7#8, 0x51#8, 0xAC#8, 0x96#8, 0x38#8, 0x4C#8, 0xD9#8, 0x32#8, 0x7E#8, 0xB1#8, 0xB1#8, 0xE3#8, 0x6A#8,
    0x21#8, 0xFD#8, 0xB7#8, 0x11#8, 0x14#8, 0xBE#8, 0x07#8, 0x43#8, 0x4C#8, 0x0C#8, 0xC7#8, 0xBF#8, 0x63#8, 0xF6#8, 0xE1#8, 0xDA#8,
    0x27#8, 0x4E#8, 0xDE#8, 0xBF#8, 0xE7#8, 0x6F#8, 0x65#8, 0xFB#8, 0xD5#8, 0x1A#8, 0xD2#8, 0xF1#8, 0x48#8, 0x98#8, 0xB9#8, 0x5B#8] ++ List.replicate 4024 0#8, [], true⟩

/-- A protection commit in progress (15 R495): whether its drain has ended, the tile groups and the Lake ways that partitions lost and the
partitions that it made VALID. -/
structure CommitWork where
  drained : Bool
  groups  : List Nat
  ways    : List Nat
  fresh   : List Nat
  deriving DecidableEq, Repr

/-- What a running descriptor's engine holds for it. -/
inductive Work where
  /-- Nothing: the descriptor has not started, or its engine keeps nothing. -/
  | idle
  /-- A tile descriptor's running tiles and the byte ranges of the store its commands wrote (03 R91). -/
  | tile (wrote : List (Nat × Nat))
  /-- An SCU descriptor. -/
  | scu (w : ScuWork)
  /-- An optimiser descriptor whose tiles have computed. -/
  | opt (w : OptWork)
  /-- A solve (06). -/
  | sie (w : SieWork)
  /-- A field exchange descriptor (07). -/
  | fxe (w : FxeWork)
  /-- A copy engine's work. -/
  | copy (w : CopyWork)
  /-- A FENCE (11). -/
  | fence (w : FenceWork)
  /-- A NET descriptor handed to its QP (11). -/
  | net (qpn : Nat)
  /-- A bulk all-reduce (12). -/
  | bulk (w : BulkWork)
  /-- An all-to-all (12). -/
  | atoa (w : AtoaWork)
  /-- A queue operation (12). -/
  | queue (w : QueueWork)
  /-- A SNAPSHOT descriptor (14). -/
  | snap (w : SnapWork)
  deriving DecidableEq, Repr

/-- A descriptor that has been fetched and has no record yet: its 64 bytes, the partition and the wait limit in
force at its fetch, and what happened to it: an abort asked
for, Colourfast mode at its start (13 R429), a correction made for it, an error that struck it. -/
structure Desc where
  seq       : BitVec 32
  bytes     : List Byte
  part      : Nat
  limit     : Nat
  phase     : Phase
  work      : Work
  abort     : Bool
  cf        : Bool
  corrected : Bool
  errec     : Bool
  struck    : Option (BitVec 16)
  deriving DecidableEq, Repr

/-- The state of one ring (10 R316, R318 to R326, R333, R338; 01 R18). `bad` lists the descriptors at or after the base
that completed with an unsatisfying status; `abortLeft` counts the next unfetched descriptors that never start; `line…` is
what the host wrote to the shadow line and `shadow…` what the device read of it last (10 R313); `reads` holds, for each read in flight, the key
that its SQ slot resolved to when it was issued (10 R311, R319). -/
structure Ring where
  enabled    : Bool
  disabling  : Bool
  tail       : BitVec 32
  fetch      : BitVec 32
  comp       : BitVec 32
  cqh        : BitVec 32
  base       : BitVec 32
  dbErr      : Bool
  obituary   : Bool
  reads      : List (Option Nat)
  descs      : List Desc
  bad        : List (BitVec 32)
  abortLeft  : Nat
  unsignalled : Nat
  armed      : Bool
  shadowTail : BitVec 32
  shadowHead : BitVec 32
  lineTail   : BitVec 32
  lineHead   : BitVec 32
  stale      : Bool
  deriving DecidableEq, Repr

/-- A ring after reset. -/
def Ring.init : Ring :=
  ⟨false, false, 0, 0, 0, 0, 0, false, false, [], [], [], 0, 0, true, 0, 0, 0, 0, false⟩

/-- A host link slot (10 R302 to R309): PERST_N, link state and D3hot, and the function's configuration: MSI-X enable and function mask, the
vectors that are not masked, the pending bits, the AER uncorrectable status, the addresses in BAR0, BAR2 and BAR4, and the HDM decoder's base and
whether it is committed (10 Tables 2 to 4; log entry 39). -/
structure Slot where
  perst : Bool
  up    : Bool
  width : Nat
  speed : Nat
  d3hot : Bool
  msixOn : Bool
  fmask  : Bool
  clear  : List Nat
  pend   : List Nat
  aer    : Nat
  bar0   : Nat
  bar2   : Nat
  bar4   : Nat
  hdm    : Nat
  hdmOn  : Bool
  deriving DecidableEq, Repr

/-- A slot after reset: PERST_N asserted, link down. -/
def Slot.init : Slot := ⟨true, false, 0, 0, false, false, false, [], [], 0, 0, 0, 0, 0, false⟩

/-- An error ring's bookkeeping beside its registers (14 R458, R459): records dropped since the last one written,
and the tick of the last interrupt. -/
structure ErrRing where
  since   : Nat
  lastIrq : Option Nat
  deriving DecidableEq, Repr

/-- An open merge window (14 R458): the kind and unit, how many events it holds and the record for the first. -/
structure Window where
  kind  : Nat
  utype : Nat
  unit  : Nat
  count : Nat
  first : Option (ErrEvent × Nat)
  deriving DecidableEq, Repr

/-- The state of the package. -/
structure State where
  pending   : List Instr
  tick      : Nat
  freeCount : Nat
  mem       : Sparse Byte
  bad       : List Nat
  regs      : Sparse Word
  shadow    : Sparse Word
  locked    : Bool
  boot      : BootPhase
  fatal     : Option Nat
  rings     : Sparse Ring
  slots     : Sparse Slot
  resetting : List Nat
  errRings  : Sparse ErrRing
  windows   : List Window
  flashLog  : List (List Byte)
  /-- Device-fatal errors of the last 7 days that the flash log holds, as REFCLK periods, oldest first (14 ERR_HEALTH). -/
  fatalAt   : List Nat
  msix      : List (Nat × Nat)
  hostReply : List Byte
  por : Bool
  vin : Bool
  trip : Bool
  tripSeen : Bool
  s4count : Nat
  droop : Bool
  warm : Nat
  ramps : List (Nat × Bool)
  rampSteps : List (List (Nat × Bool))
  initing : List Nat
  pll : Sparse Nat
  tcap : Sparse Nat
  pcap : Nat
  dutyDie : List Nat
  dutyAll : Bool
  dieTemp : Sparse Nat
  refresh2 : List Nat
  alert : Bool
  alertPulses : Nat
  stuckTold : List Nat
  ppsSince : Bool
  tmbFrac : Nat
  adjFrac : Nat
  tapHeld : Bool
  tapInstr : Nat
  pcapAt : Option Nat
  tapOut : Nat
  keys : Bool
  tiles : Sparse Tile
  groups : Sparse Group
  posts : List Post
  readyQ : List (Nat × BitVec 32)
  scuOpen : Sparse OpenRec
  scuSlots : Sparse ScuSlot
  scuClosed : Sparse (List (Nat × Bool))
  sieSwitches : Sparse Nat
  siePeriodAt : Nat
  harts : Sparse Hart
  resvs : List (Nat × Nat)
  coreMap : Sparse Nat
  handovers : Sparse (Option Handover)
  repair : Option RepairWork
  hardRepairs : List (Nat × Nat × Nat × Nat)
  repairUsed : Sparse Nat
  testPort : Option (Nat × Nat)
  patrolAt : Sparse Nat
  patrolDone : List Nat
  wayMove : Sparse (Option Nat)
  wayGone : List (Nat × Nat)
  poison : List Nat
  eccLog : Sparse (Nat × Nat)
  copyTurn : Sparse Nat
  vatQueue : List VatReq
  ports : Sparse Port
  wire : List Wire
  spareBind : Sparse Nat
  srcPairs : Sparse SrcPair
  dstPairs : Sparse DstPair
  lakeQ : Sparse (List LakeReq)
  retiredDiscards : Nat
  rejectTold : Sparse Nat
  qps : Sparse Qp
  otherFrames : Nat
  mordantWait : List MOp
  morSeq : Sparse Nat
  mctxs : List MCtx
  launches : List LaunchSt
  badKinds : Nat
  units : Sparse UnitSt
  worn : List (Nat × Nat × Nat)
  rowFailed : Bool
  snaps : Sparse (Option Snap)
  clusterGone : List Nat
  hbTold : Sparse Nat
  signing : Option (Nat × BitVec 32)
  tileGone : List Nat
  coreGone : List Nat
  slotA : Option Image
  slotB : Option Image
  dirActive : Bool
  dirNext : Bool
  dirTrial : Bool
  running : Option Image
  smcStart : Nat
  cfgBlocks : List CfgBlock
  commit : Option CommitWork
  swPkg : Option SwatchPackage
  deriving DecidableEq, Repr

/-- The package right after reset: every register at its Reset column, P0 uncore on and the firmware image being
verified (16 R527), the queue of commands empty. -/
def State.reset : State where
  pending   := []
  tick      := 0
  freeCount := 0
  mem       := []
  bad       := []
  regs      := []
  shadow    := []
  locked    := false
  boot      := .verifying
  fatal     := none
  rings     := []
  slots     := []
  resetting := []
  errRings  := []
  windows   := []
  flashLog  := []
  fatalAt   := []
  msix      := []
  hostReply := []
  por := false
  vin := true
  trip := false
  tripSeen := false
  s4count := 0
  droop := false
  warm := 0
  ramps := []
  rampSteps := []
  initing := [0]
  pll := []
  tcap := []
  pcap := 3300
  dutyDie := []
  dutyAll := false
  dieTemp := []
  refresh2 := []
  alert := false
  alertPulses := 0
  stuckTold := []
  ppsSince := false
  tmbFrac := 0
  adjFrac := 0
  tapHeld := false
  tapInstr := 1
  pcapAt := none
  tapOut := 0
  keys := false
  tiles := []
  groups := []
  posts := []
  readyQ := []
  scuOpen := []
  scuSlots := []
  scuClosed := []
  sieSwitches := []
  siePeriodAt := 0
  harts := []
  resvs := []
  coreMap := []
  handovers := []
  repair := none
  hardRepairs := []
  repairUsed := []
  testPort := none
  patrolAt := []
  patrolDone := []
  wayMove := []
  wayGone := []
  poison := []
  eccLog := []
  copyTurn := []
  vatQueue := []
  ports := []
  wire := []
  spareBind := []
  srcPairs := []
  dstPairs := []
  lakeQ := []
  retiredDiscards := 0
  rejectTold := []
  qps := []
  otherFrames := 0
  mordantWait := []
  morSeq := []
  mctxs := []
  launches := []
  badKinds := 0
  units := []
  worn := []
  rowFailed := false
  snaps := []
  clusterGone := []
  hbTold := []
  signing := none
  tileGone := []
  coreGone := []
  slotA := some Image.first
  slotB := none
  dirActive := false
  dirNext := false
  dirTrial := false
  running := none
  smcStart := 0
  cfgBlocks := (List.range 5).map (fun i => CfgBlock.empty (i + 1))
  commit := none
  swPkg := none

end Sys2Proof.Machine
end

