-- ==== Sys2Proof/Machine/Regs.lean ====
section
/-! DEFINITION. Access to the register file, and what the committed set-up grants to whom. -/

namespace Sys2Proof.Machine

/-- The live value of the register word with this key. -/
def reg (s : State) (key : Nat) : Nat := (sget regReset s.regs key).toNat

/-- The state with the live value of a register word replaced. -/
def setReg (s : State) (key v : Nat) : State :=
  { s with regs := sset regReset s.regs key (BitVec.ofNat 64 v) }

/-- The shadow value of a register word (15 R494). -/
def shadowReg (s : State) (key : Nat) : Nat := (sget regReset s.shadow key).toNat

/-- The state with the shadow value of a register word replaced. -/
def setShadow (s : State) (key v : Nat) : State :=
  { s with shadow := sset regReset s.shadow key (BitVec.ofNat 64 v) }

/-- A field of a live register word. -/
def rfld (s : State) (key lo len : Nat) : Nat := fieldOf (reg s key) lo len

/-- The state with a field of a live register word replaced. -/
def setRfld (s : State) (key lo len v : Nat) : State := setReg s key (setFieldOf (reg s key) lo len v)

/-- A field of a register word of the Owner's view or of every view. -/
def ofld (s : State) (off lo len : Nat) : Nat := rfld s (okey off) lo len

/-- A field of a register word of partition `p`'s view. -/
def pfld (s : State) (p off lo len : Nat) : Nat := rfld s (pkey p off) lo len

/-- The timebase, in ns (16 R532). -/
def now (s : State) : Nat := reg s (okey Reg.tmbCount)

/-- The replica of the timebase that the island of a clock domain reads: within 2 ns of the master count (02 R42; log entry 38). -/
def stamp (s : State) (island : Nat) : Nat := (now s + 2 ^ 64 + Config.replica island (now s) % 5 - 2) % 2 ^ 64

/-- Power domain `d` is on (02 PWR_DOMAIN_STATUS). -/
def domainOn (s : State) (d : Nat) : Bool := ofld s Reg.pwrDomainStatus d 1 == 1

/-- Power domain `d` ramps up or down. -/
def domainRamps (s : State) (d : Nat) : Bool := ofld s Reg.pwrDomainStatus (32 + d) 1 == 1

/-- The domain takes requests: it is on and does not switch (02 R50, R51). -/
def domainOpen (s : State) (d : Nat) : Bool := domainOn s d && !domainRamps s d

/-- The next free value, and the state in which it is used up (log entry 2). -/
def fresh (s : State) : Word × State :=
  (Config.freeValue s.freeCount, { s with freeCount := s.freeCount + 1 })

/-- `n` free bytes (log entry 2). -/
def freeBytes (start n : Nat) : List Byte :=
  (List.range n).map (fun i => (Config.freeValue (start + i)).truncate 8)

/-- Partition `p` is committed VALID (15 R487). -/
def partValid (s : State) (p : Nat) : Bool :=
  decide (p < 8) && bitAt (reg s (okey (Reg.prtPartCfg + 0x40 * p))) 0

/-- The partition's READY bit (10 R305). -/
def partReady (s : State) (p : Nat) : Bool := bitAt (reg s (pkey p Reg.hifPartStatus)) 0

/-- The partition whose committed ring range holds ring `r` (10 R314, 15 R488). -/
def ringPart (s : State) (r : Nat) : Option Nat :=
  (List.range 8).find? (fun p => partValid s p &&
    (let b := ofld s (Reg.prtPartCfg + 0x40 * p + 16) 0 12
     let n := ofld s (Reg.prtPartCfg + 0x40 * p + 16) 16 11
     decide (b ≤ r) && decide (r < b + n)))

/-- The device tile groups of a partition, as a 168-bit mask (15 R488). -/
def groupMask (s : State) (p : Nat) : Nat :=
  if partValid s p then
    reg s (okey (Reg.prtTgroups + 32 * p)) + reg s (okey (Reg.prtTgroups + 32 * p + 8)) * 2 ^ 64
      + ofld s (Reg.prtTgroups + 32 * p + 16) 0 40 * 2 ^ 128
  else 0

/-- Partition `p` holds device tile group `g`. -/
def holdsGroup (s : State) (p g : Nat) : Bool := bitAt (groupMask s p) g

/-- The partition that holds device tile group `g`. -/
def groupPart (s : State) (g : Nat) : Option Nat := (List.range 8).find? (fun p => holdsGroup s p g)

/-- Partition `p` holds HBM region `n`. -/
def holdsRegion (s : State) (p n : Nat) : Bool :=
  partValid s p && bitAt (reg s (okey (Reg.prtRegions + 8 * p))) n

/-- The partition whose clusters include logical cluster `c` of P-die `d` (15 Table 1). -/
def clusterPart (s : State) (d c : Nat) : Option Nat :=
  (List.range 8).find? (fun p => partValid s p &&
    bitAt (reg s (okey (Reg.prtPartCfg + 0x40 * p))) (8 + 12 * d + c))

/-- The partition whose cluster a hart runs on; hart 48 d + i runs on cluster i div 4 of P-die d (08 R232). -/
def hartPart (s : State) (h : Nat) : Option Nat := clusterPart s (h / 48) (h % 48 / 4)

/-- The hart runs on logical cluster 0 of P0, the Owner's (08 R235). -/
def hartOwner (h : Nat) : Bool := decide (h < 4)

/-- The owner code of an SRAM bank (08 R258). -/
def bankOwner (s : State) (d b : Nat) : Nat :=
  ofld s (Reg.prtPbankOwner + 0x40 * d + 8 * (b / 16)) (4 * (b % 16)) 4

/-- The host slot bound to a partition; an unbifurcated port has only its even slot (10 R302, R303). -/
def partSlot (s : State) (p : Nat) : Option Nat :=
  (List.range 8).find? (fun sl =>
    let w := reg s (okey (Reg.hifPortCfg + 8 * (sl / 2)))
    if sl % 2 = 0 then fieldOf w 4 4 == p else bitAt w 0 && fieldOf w 8 4 == p)

/-- The P-die that serves a partition's rings and records: its slot's, or P0 (10 R330, R343). -/
def partPdie (s : State) (p : Nat) : Nat := (partSlot s p).getD 0 / 4

/-- The partition bound to a slot. -/
def slotPart (s : State) (sl : Nat) : Option Nat :=
  (List.range 8).find? (fun p => partSlot s p == some sl)

/-- The dynamic state of a slot. -/
def slotOf (s : State) (sl : Nat) : Slot := sget (fun _ => Slot.init) s.slots sl

/-- The state with a slot replaced. -/
def setSlot (s : State) (sl : Nat) (v : Slot) : State :=
  { s with slots := sset (fun _ => Slot.init) s.slots sl v }

/-- The partition's link is up and its function is not in D3hot (10 R333). -/
def linkUsable (s : State) (p : Nat) : Bool :=
  match partSlot s p with
  | some sl => (slotOf s sl).up && !(slotOf s sl).d3hot
  | none => false

/-- The job table entry a partition is bound to (11 R362). -/
def boundJob (s : State) (p : Nat) : Option Nat :=
  let w := reg s (okey (Reg.fabPartJob + 8 * p))
  if partValid s p && bitAt w 6 && ofld s (Reg.fabJob + 32 * fieldOf w 0 6) 0 2 == 1 then some (fieldOf w 0 6) else none

/-- This package's node number (11 R358). -/
def nodeId (s : State) : Nat := ofld s Reg.fabId 32 12

/-- A ring. -/
def ringOf (s : State) (r : Nat) : Ring := sget (fun _ => Ring.init) s.rings r

/-- The state with a ring replaced. -/
def setRing (s : State) (r : Nat) (v : Ring) : State :=
  { s with rings := sset (fun _ => Ring.init) s.rings r v }

/-- ENTRIES of a ring (10 R315). -/
def ringEntries (s : State) (r : Nat) : Nat := 2 ^ ofld s (Reg.rngCfg + 64 * r) 0 5

/-- The supply stage (16 R519). -/
def stage (s : State) : Nat := ofld s Reg.pwrSagStatus 0 3

/-- P0 uncore runs: the boot has passed verification and no device-fatal condition holds (10 R338). -/
def alive (s : State) : Bool :=
  s.fatal.isNone && (s.boot != .off) && (s.boot != .fatal)

/-- A next state for a command whose unit exists, and the fault `noSuchUnit` otherwise. -/
def onUnit (exists? : Bool) (t : State) : Host.Outcome State Fault Refusal :=
  if exists? then .next t else .fault .noSuchUnit

end Sys2Proof.Machine
end

