-- ==== Sys2Proof/Machine/Mem.lean ====
section
/-! DEFINITION. Memory: physical places, HBM regions and interleave, address translation, and reads and writes of
byte strings (09 R264, R287 to R293, 15 R490 to R493, R562, 08 R256, 10 R310). -/

namespace Sys2Proof.Machine

/-- The kind of an access: read, write, atomic, or a read that the permission to execute allows (HLVX of a hart). -/
inductive Acc where
  | r | w | a | x
  deriving DecidableEq, Repr

/-- Where an address leads: a byte of this package's memory store, or a Vat window of a node. -/
inductive Place where
  | mem (key : Nat)
  | vat (node off : Nat) (prio : Bool)
  deriving DecidableEq, Repr

/-- Key of a byte of HBM: stack, pseudo-channel and byte within it (09 R287, R289). -/
def hbmKey (stack pc byte : Nat) : Nat := stack * 0x600000000 + pc * 0x30000000 + byte

/-- Key of a byte of P-die SRAM: its Owner address (15 R562). -/
def sramKey (d off : Nat) : Nat := 0xE000000000 + 0x4000000 * d + off

/-- Key of a byte of a logical tile's scratchpad (09 R264). -/
def spKey (tile off : Nat) : Nat := 2 ^ 44 + tile * 0x180000 + off

/-- Key of a byte of partition `p`'s host memory. -/
def hostKey (p a : Nat) : Nat := 2 ^ 64 * (p + 1) + a

/-- The key lies in HBM. -/
def isHbm (key : Nat) : Bool := decide (key < 0x6000000000)

/-- NS of an interleave mode (09 Table 4). -/
def modeStacks (mode : Nat) : Nat := if mode = 1 then 2 else if mode = 3 then 1 else 16

/-- Granule G of an interleave mode (09 Table 4). -/
def modeGranule (mode : Nat) : Nat := if mode = 2 then 4096 else 256

/-- First stack of a region: the stacks used are consecutive from it (09 Table 4). -/
def modeFirstStack (mode target : Nat) : Nat := if mode = 1 then 2 * target else if mode = 3 then target else 0

/-- The mapping of R289: offset `o` in a region of this mode, target and stack offset. -/
def interleave (mode target soff o : Nat) : Nat :=
  let g := modeGranule mode
  let ns := modeStacks mode
  let u := o / g
  let si := (u ^^^ (u >>> 4) ^^^ (u >>> 8)) &&& (ns - 1)
  let v := u / ns
  let pc := (v ^^^ (v >>> 5)) &&& 31
  hbmKey (modeFirstStack mode target + si) pc (soff * 0x200000 + (v / 32) * g + o % g)

/-- The live first word of region `n`. -/
def regionWord (s : State) (n : Nat) : Nat := reg s (okey (Reg.hmcRegion + 16 * n))

/-- The valid region that contains a DPA (09 R288). -/
def regionOf (s : State) (dpa : Nat) : Option Nat :=
  (List.range 64).find? (fun n =>
    let w := regionWord s n
    bitAt w 0 && decide (fieldOf w 16 13 * 0x4000000 ≤ dpa) &&
      decide (dpa < (fieldOf w 16 13 + fieldOf w 32 13) * 0x4000000))

/-- Key of a DPA of region `n` (09 R289). -/
def regionKey (s : State) (n dpa : Nat) : Nat :=
  let w := regionWord s n
  interleave (fieldOf w 1 3) (fieldOf w 8 4) (ofld s (Reg.hmcRegion + 16 * n + 8) 0 9) (dpa - fieldOf w 16 13 * 0x4000000)

/-- The partition that holds a region. -/
def regionPart (s : State) (n : Nat) : Option Nat := (List.range 8).find? (fun p => holdsRegion s p n)

/-- `n` bytes of the store from a key. -/
def getBytes (s : State) (key n : Nat) : List Byte :=
  (List.range n).map (fun i => sget (fun _ => 0#8) s.mem (key + i))

/-- One byte put into the store. -/
def putByte (m : Sparse Byte) (key : Nat) (b : Byte) : Sparse Byte := sset (fun _ => 0#8) m key b

/-- Bytes put into the store from a key. -/
def putList : Sparse Byte → Nat → List Byte → Sparse Byte
  | m, _, [] => m
  | m, key, b :: bs => putList (putByte m key b) (key + 1) bs

/-- Reservations outside the 64-byte lines of a range of the store; a write ends the others (09 R282, RISC-V LR/SC). -/
def resvOutside (l : List (Nat × Nat)) (key n : Nat) : List (Nat × Nat) :=
  l.filter (fun x => decide (x.2 < key / 64) || decide ((key + n - 1) / 64 < x.2))

/-- The state with bytes of the store replaced; a byte written holds no double error any more (09 R294). -/
def putBytes (s : State) (key : Nat) (bs : List Byte) : State :=
  { s with
    mem := putList s.mem key bs
    resvs := resvOutside s.resvs key bs.length
    poison := s.poison.filter (fun b => decide (b < key) || decide (key + bs.length ≤ b)) }

/-- The state after an atomic's write: the Lake first takes every core's copy of the 128-byte line, so a reservation on either half of it is
lost (09 R270, R282). -/
def putAtomic (s : State) (key : Nat) (bs : List Byte) : State :=
  let s1 := putBytes s key bs
  { s1 with resvs := s1.resvs.filter (fun x => x.2 / 2 != key / 128) }

/-- The state with the bytes of the store from `lo` to `hi - 1` zeroed. -/
def zeroRange (s : State) (lo hi : Nat) : State :=
  { s with mem := sclear s.mem lo hi, poison := s.poison.filter (fun b => decide (b < lo) || decide (hi ≤ b)) }

/-- Bytes of the store hold a scratchpad word with a double error (09 R294; log entry 36). -/
def poisoned (s : State) (key n : Nat) : Bool := s.poison.any (fun b => decide (key ≤ b) && decide (b < key + n))

/-- The HBM sector at a key is marked bad, or bytes of a scratchpad from it cannot be read (09 R293, R294). -/
def isBad (s : State) (key n : Nat) : Bool := (isHbm key && s.bad.contains (key / 32)) || poisoned s key n

/-- The stacks of a region, its first unit of 64 MiB in each, and its units in each (09 R288). -/
def footprint (c : State) (n : Nat) : List Nat × Nat × Nat :=
  let w := regionWord c n
  let ns := modeStacks (fieldOf w 1 3)
  ((List.range ns).map (· + modeFirstStack (fieldOf w 1 3) (fieldOf w 8 4)), ofld c (Reg.hmcRegion + 16 * n + 8) 0 9, fieldOf w 32 13 / ns)

/-- A byte of HBM lies in a region's footprint. -/
def inFootprint (c : State) (n key : Nat) : Bool :=
  let f := footprint c n
  let byte := key % 0x30000000
  bitAt (regionWord c n) 0 && f.1.contains (key / 0x600000000) && decide (f.2.1 * 0x200000 ≤ byte) && decide (byte < (f.2.1 + f.2.2) * 0x200000)

/-- The DPA of a byte of HBM, with its region: the inverse of the interleave (09 R289). -/
def dpaOf (s : State) (key : Nat) : Option (Nat × Nat) :=
  ((List.range 64).find? (fun n => inFootprint s n key)).map (fun n =>
    let w := regionWord s n
    let mode := fieldOf w 1 3
    let g := modeGranule mode
    let ns := modeStacks mode
    let off := key % 0x30000000 - ofld s (Reg.hmcRegion + 16 * n + 8) 0 9 * 0x200000
    let row := off / g
    let v := row * 32 + ((key / 0x30000000 % 32) ^^^ (row % 32))
    let u := v * ns + (((key / 0x600000000 - modeFirstStack mode (fieldOf w 8 4)) ^^^ ((v * ns) >>> 4) ^^^ ((v * ns) >>> 8)) &&& (ns - 1))
    (n, fieldOf w 16 13 * 0x4000000 + u * g + off % g))

/-- The Lake slice that homes a byte of HBM, counted over the package: 32 slices on each A-die (09 R271). -/
def sliceOf (s : State) (key : Nat) : Option Nat :=
  (dpaOf s key).map (fun x =>
    let n := x.2 / 128
    key / 0xC00000000 * 32 + ((n ^^^ (n >>> 5) ^^^ (n >>> 10)) &&& 31))

/-- The HBM controller or the Lake slice of a byte is fenced, so that every access to it fails (14 Table 2). -/
def memFenced (s : State) (key : Nat) : Bool :=
  isHbm key && s.units.any (fun e => e.2.st == 2 &&
    (e.1 == 8 * 4096 + key / 0x600000000 || (e.1 / 4096 == 7 && sliceOf s key == some (e.1 % 4096))))

/-! ### The mesh and the power domains on the way -/

/-- The A-dies of a row from one column to another. -/
def rowDies (row a b : Nat) : List Nat := ((List.range 4).filter (fun c => decide (min a b ≤ c) && decide (c ≤ max a b))).map (4 * row + ·)

/-- The A-dies that a request passes between two dies, 0 to 7 A-dies, 8 and 9 P-dies and others F-dies: along the row to the column, then
across to the row; a P-die's traffic enters and leaves at its own column in the A-die's row (02 R27, R29, R30). Traffic of two P-dies or of an
F-die passes none (log entry 36). -/
def meshWay (src dst : Nat) : List Nat :=
  let edge := fun d => if d = 8 then 0 else 3
  if src < 8 ∧ dst < 8 then rowDies (src / 4) (src % 4) (dst % 4) ++ [dst]
  else if src < 8 ∧ dst < 10 then rowDies (src / 4) (src % 4) (edge dst)
  else if 8 ≤ src ∧ src < 10 ∧ dst < 8 then rowDies (dst / 4) (edge src) (dst % 4)
  else []

/-- The die that holds a byte of the store, host memory lying behind the P-die of its partition's slot. -/
def keyDie (s : State) (key : Nat) : Nat :=
  if isHbm key then key / 0xC00000000
  else if key < 2 ^ 44 then 8 + (key - 0xE000000000) / 0x4000000
  else if key < 2 ^ 64 then (key - 2 ^ 44) / 0x180000 / 168
  else 8 + partPdie s (key / 2 ^ 64 - 1)

/-- The power domains that a request from a die passes to a byte of the store (02 Tables 1 and 7); with no die given, those of the byte alone. -/
def wayDomains (s : State) (src : Option Nat) (key : Nat) : List Nat :=
  let dst := keyDie s key
  let at_ := if 8 ≤ dst then [dst - 8] else if 2 ^ 44 ≤ key then [14 + dst, 22 + dst] else [14 + dst]
  at_ ++ (src.elim [] (fun x => (meshWay x dst).map (14 + ·)))

/-- A domain on the way to a byte is off or switches, so that its boundary answers with an error (02 R51). -/
def wayOff (s : State) (src : Option Nat) (key : Nat) : Bool := (wayDomains s src key).any (fun d => !domainOpen s d)

/-- Address resolution of an Owner address (15 R562). -/
def xlateOwner (s : State) (a : Nat) : Option Nat :=
  if a < 0x6000000000 then
    match regionOf s a with
    | some n => if regionPart s n = none then some (regionKey s n a) else none
    | none => none
  else if 0xE000000000 ≤ a ∧ a < 0xE008000000 then
    let off := a - 0xE000000000
    if bankOwner s (off / 0x4000000) (off % 0x4000000 / 0x100000) = 8 then some a else none
  else none

/-- A page table entry, read from a table in a region that no partition holds (15 R491). -/
def pteAt (s : State) (dpa : Nat) : Option Nat :=
  match regionOf s dpa with
  | some n =>
    let k := regionKey s n dpa
    if regionPart s n = none && !wayOff s none k && !isBad s k 8 && !memFenced s k then some (leNat (getBytes s k 8)) else none
  | none => none

/-- The leaf of R491, resolved for partition `p` at page level `lvl` with page size `size`. -/
def leafPlace (s : State) (p lvl size e va : Nat) (acc : Acc) : Option Place :=
  let perm := bitAt e (match acc with | .r | .x => 2 | .w => 3 | .a => 4)
  let off := va % size
  if !perm || fieldOf e 9 3 != 0 || fieldOf e 52 12 != 0 then none
  else match fieldOf e 5 3 with
  | 0 =>
    let dpa := fieldOf e 16 24 * 0x10000
    if fieldOf e 12 4 != 0 || fieldOf e 40 12 != 0 || dpa % size != 0 then none
    else match regionOf s (dpa + off) with
      | some n => if holdsRegion s p n then some (.mem (regionKey s n (dpa + off))) else none
      | none => none
  | 1 =>
    let o := fieldOf e 16 10 * 0x10000
    let d := fieldOf e 32 1
    if lvl < 2 || fieldOf e 12 4 != 0 || fieldOf e 26 6 != 0 || fieldOf e 33 19 != 0 || o % size != 0 then none
    else if bankOwner s d ((o + off) / 0x100000) = p && acc != .a then some (.mem (sramKey d (o + off))) else none
  | 2 =>
    let t := fieldOf e 16 11
    if lvl < 3 || fieldOf e 12 4 != 0 || fieldOf e 28 24 != 0 || acc = .a then none
    else if t < 1344 && holdsGroup s p (t / 8) then some (.mem (spKey t ((22 + fieldOf e 27 1) * 0x10000 + off))) else none
  | 3 =>
    let o := fieldOf e 16 24 * 0x10000
    if fieldOf e 12 4 != 0 || o % size != 0 || (boundJob s p).isNone then none
    else some (.vat (fieldOf e 40 12) (o + off) (bitAt e 8))
  | _ => none

/-- The page walk of R491 over the levels that remain, each given as (level, index shift, index bits). -/
def walkFrom (s : State) (p va : Nat) (acc : Acc) : List (Nat × Nat × Nat) → Nat → Option Place
  | [], _ => none
  | (lvl, sh, n) :: rest, table =>
    match pteAt s (table + 8 * fieldOf va sh n) with
    | none => none
    | some e =>
      if !bitAt e 0 then none
      else if bitAt e 1 then (if lvl = 0 then none else leafPlace s p lvl (2 ^ sh) e va acc)
      else if fieldOf e 2 10 != 0 || fieldOf e 40 24 != 0 then none
      else walkFrom s p va acc rest (fieldOf e 12 28 * 4096)

/-- The host memory window of partition `p` that contains an address (10 R310). -/
def windowOf (s : State) (p va : Nat) : Option Nat :=
  (List.range 16).find? (fun n =>
    let w0 := reg s (pkey p (Reg.hifHmw + 16 * n))
    let w1 := reg s (pkey p (Reg.hifHmw + 16 * n + 8))
    bitAt w0 0 && decide (fieldOf w1 0 32 * 0x10000 ≤ va) && decide (va < (fieldOf w1 0 32 + fieldOf w1 32 32) * 0x10000))

/-- Resolution of a partition virtual address or Vat address (15 R490 to R492, 11 R359, R362, 10 R310, 09 R279). -/
def xlate (s : State) (p : Nat) (acc : Acc) (a : Nat) : Option Place :=
  if fieldOf a 62 2 = 2 ∧ a < 2 ^ 64 then
    (if bitAt a 60 || (boundJob s p).isNone then none else some (.vat (fieldOf a 48 12) (fieldOf a 0 48) (bitAt a 61)))
  else if 2 ^ 48 ≤ a then none
  else match windowOf s p a with
  | some n =>
    let w0 := reg s (pkey p (Reg.hifHmw + 16 * n))
    let w1 := reg s (pkey p (Reg.hifHmw + 16 * n + 8))
    if acc = .a || (acc = .w && !bitAt w0 1) || !linkUsable s p then none
    else some (.mem (hostKey p (fieldOf w0 16 48 * 0x10000 + (a - fieldOf w1 0 32 * 0x10000))))
  | none => walkFrom s p a acc [(0, 39, 9), (1, 30, 9), (2, 21, 9), (3, 16, 5)]
      (ofld s (Reg.prtPartCfg + 0x40 * p + 8) 0 28 * 4096)

/-- The place of a partition address in this package's own store. -/
def xlateMem (s : State) (p : Nat) (acc : Acc) (a : Nat) : Option Nat :=
  match xlate s p acc a with
  | some (.mem k) => some k
  | _ => none

/-- An address range cut at sector boundaries, as (address, length) pieces. -/
def pieces : Nat → Nat → Nat → List (Nat × Nat)
  | 0, _, _ => []
  | f + 1, a, n =>
    if n = 0 then [] else
      let m := min n (32 - a % 32)
      (a, m) :: pieces f (a + m) (n - m)

/-- The pieces of a range. -/
def sectorsOf (a n : Nat) : List (Nat × Nat) := pieces (n / 32 + 2) a n

/-- The address of a failed access. -/
def MemErr.at_ : MemErr → Nat
  | .addr a | .off a _ | .bad a _ | .fenced a _ => a

/-- A read of pieces through a translation, by a requester on die `src`. -/
def readPieces (s : State) (tr : Nat → Option Nat) (src : Option Nat) : List (Nat × Nat) → Except MemErr (List Byte)
  | [] => .ok []
  | (a, n) :: rest =>
    match tr a with
    | none => .error (.addr a)
    | some k =>
      if wayOff s src k then .error (.off a k)
      else if memFenced s k then .error (.fenced a k)
      else if isBad s k n then .error (.bad a k)
      else match readPieces s tr src rest with
        | .ok bs => .ok (getBytes s k n ++ bs)
        | .error e => .error e

/-- A read of `n` bytes from address `a` through a translation. -/
def readVia (s : State) (tr : Nat → Option Nat) (a n : Nat) (src : Option Nat := none) : Except MemErr (List Byte) :=
  readPieces s tr src (sectorsOf a n)

/-- The first reason a write of pieces would fail: an address error, a domain that is off (02 R51), a fenced unit, or a part of a bad
sector (09 R293). -/
def writeError (s : State) (tr : Nat → Option Nat) (src : Option Nat) : List (Nat × Nat) → Option MemErr
  | [] => none
  | (a, n) :: rest =>
    match tr a with
    | none => some (.addr a)
    | some k =>
      if wayOff s src k then some (.off a k) else if memFenced s k then some (.fenced a k)
      else if isHbm k && isBad s k 32 && n < 32 then some (.bad a k) else writeError s tr src rest

/-- The write of pieces whose translation succeeds; a whole sector clears its bad mark (09 R293). -/
def putPieces (tr : Nat → Option Nat) : List (Nat × Nat) → List Byte → State → State
  | [], _, s => s
  | (a, n) :: rest, bs, s =>
    match tr a with
    | none => s
    | some k =>
      let s1 := putBytes s k (bs.take n)
      let s2 := if n = 32 then { s1 with bad := s1.bad.filter (fun x => !(isHbm k && x == k / 32)) } else s1
      putPieces tr rest (bs.drop n) s2

/-- A write of a byte string at address `a` through a translation: all of it, or none of it and an error. -/
def writeVia (s : State) (tr : Nat → Option Nat) (a : Nat) (bs : List Byte) (src : Option Nat := none) : Except MemErr State :=
  match writeError s tr src (sectorsOf a bs.length) with
  | some e => .error e
  | none => .ok (putPieces tr (sectorsOf a bs.length) bs s)

/-- The die a partition's request comes from: the one given, or the P-die of its slot (10 R330). -/
def fromDie (s : State) (p : Nat) (src : Option Nat) : Option Nat := some (src.getD (8 + partPdie s p))

/-- A read at a partition virtual address. -/
def readVa (s : State) (p a n : Nat) (src : Option Nat := none) : Except MemErr (List Byte) := readVia s (xlateMem s p .r) a n (fromDie s p src)

/-- A write at a partition virtual address. -/
def writeVa (s : State) (p a : Nat) (bs : List Byte) (src : Option Nat := none) : Except MemErr State :=
  writeVia s (xlateMem s p .w) a bs (fromDie s p src)

/-- A read of a little-endian number at a partition virtual address. -/
def readNat (s : State) (p a n : Nat) (src : Option Nat := none) : Except MemErr Nat :=
  match readVa s p a n src with
  | .ok bs => .ok (leNat bs)
  | .error e => .error e

/-- A read at an Owner address, by P0 (15 R562). -/
def readOwner (s : State) (a n : Nat) : Except MemErr (List Byte) := readVia s (xlateOwner s) a n (some 8)

/-- A write at an Owner address. -/
def writeOwner (s : State) (a : Nat) (bs : List Byte) : Except MemErr State := writeVia s (xlateOwner s) a bs (some 8)

/-- The list of states after writing in turn, or the first error. -/
def writeAll (s : State) (p : Nat) : List (Nat × List Byte) → (src : Option Nat := none) → Except MemErr State
  | [], _ => .ok s
  | (a, bs) :: rest, src =>
    match writeVa s p a bs src with
    | .ok s1 => writeAll s1 p rest src
    | .error e => .error e

end Sys2Proof.Machine
end

