-- ==== Sys2Proof/Machine/FxeRows.lean ====
section
/-! DEFINITION. Fields of FXE descriptors, the elements their rows name, and what a stopped one leaves behind (07 R213 to R217, R225, R228). -/

namespace Sys2Proof.Machine

/-- A field of the control block (07 Table 2). -/
def FxeWork.cb (w : FxeWork) (off len : Nat) : Nat := leField w.ctrl off len

/-- The descriptor is a gather. -/
def FxeWork.isGather (w : FxeWork) : Bool := w.cb 0 1 == 0

/-- BOX. -/
def FxeWork.box (w : FxeWork) : Bool := bitAt (w.cb 4 2) 1

/-- The tensor's type as a type code of Table 5 of chapter 04: TFMT uses the same codes. -/
def FxeWork.tfmt (w : FxeWork) : Nat := w.cb 1 1

/-- The size in bytes of a format code of TFMT or TYPE (07 Tables 2 and 3). -/
def fxeBytes : Nat → Nat
  | 0 => 2
  | 1 => 2
  | 2 => 1
  | 3 => 1
  | 4 => 1
  | 5 => 4
  | 6 => 8
  | _ => 0

/-- Address of tensor row `r` (07 R216, R230). -/
def FxeWork.rowAddr (w : FxeWork) (r : Nat) : Nat := (w.cb (56 + 8 * w.parity) 8 + r * w.cb 16 4) % 2 ^ 64

/-- A field table entry. -/
def FxeWork.field (w : FxeWork) (i : Nat) : List Byte := w.fields.getD i []

/-- Address of a component of an element of a field (07 R214, R230). -/
def FxeWork.compAddr (w : FxeWork) (i g comp : Nat) : Nat :=
  let f := w.field i
  (leField f (8 * w.parity) 8 + g * leField f 20 4 + comp * fxeBytes (leField f 24 1)) % 2 ^ 64

/-- The element of row `r`: none for a missing row (07 R216). -/
def fxeElement (s : State) (p : Nat) (w : FxeWork) (r : Nat) : Except MemErr (Option Nat) :=
  if w.box then .ok (some r)
  else match readNat s p ((w.cb 40 8 + 4 * r) % 2 ^ 64) 4 (some w.unit) with
    | .error e => .error e
    | .ok v => .ok (if v = 0xFFFFFFFF then none else some v)

/-- The resume index F: the lowest row that is not done (07 R225). -/
def fxeResumeRow (w : FxeWork) : Nat :=
  (w.dies.filterMap (fun d => if d.next < d.stop then some d.next else none)).foldl min (w.cb 8 4 + w.cb 12 4)

/-- The rows from the resume index on: the rows not reported done (07 R225, R228). -/
def fxeUndone (w : FxeWork) : List Nat :=
  (List.range (w.cb 8 4 + w.cb 12 4 - fxeResumeRow w)).map (· + fxeResumeRow w)

/-- What a row would write: its tensor row, or the targets of its element, but no component at or above its field's NELEM (07 R218, R221, R224). -/
def fxeRowTargets (s : State) (p : Nat) (w : FxeWork) (r : Nat) : List (Nat × Nat) :=
  if w.isGather then [(w.rowAddr r, w.cb 6 2 * fxeBytes w.tfmt)]
  else match fxeElement s p w r with
    | .ok (some e) => (w.feats.filter (fun f => decide (e < leField (w.field (leField f 0 1)) 16 4))).map (fun f =>
        (w.compAddr (leField f 0 1) e (leField f 1 1), fxeBytes (leField (w.field (leField f 0 1)) 24 1)))
    | _ => []

/-- The address ranges of the rows not reported done (07 R228). -/
def fxeTargets (s : State) (p : Nat) (w : FxeWork) : List (Nat × Nat) := (fxeUndone w).flatMap (fxeRowTargets s p w)

/-- The descriptor posts: a gather that names a slot (07 R219). -/
def FxeWork.hasPosts (w : FxeWork) : Bool := w.isGather && w.cb 22 2 != 0xFFFF

/-- The posts of dies that stop: each die that converted a row posts its amax and its overflow bit (07 R219). -/
def fxePosts (r : Nat) (d : Desc) (w : FxeWork) (ds : List FxeDie) : List Post :=
  if w.hasPosts then (ds.filter (fun x => decide (0 < x.rows))).map (fun x => ⟨x.die, d.part, r, d.seq, none, w.cb 22 2, x.amax, x.ovf⟩) else []

/-- The dies with rows left. -/
def FxeWork.busyDies (w : FxeWork) : List FxeDie := w.dies.filter (fun x => decide (x.next < x.stop))

/-- What a descriptor whose dies have all stopped posted: the largest amax and whether an overflow bit was set (07 Table 5). -/
def fxePosted (w : FxeWork) : Nat × Bool :=
  if w.hasPosts then (w.dies.foldl (fun m x => max m x.amax) 0, w.dies.any (·.ovf)) else (0, false)

/-- The report of a descriptor whose dies have all stopped (07 Table 5). -/
def fxeReport (w : FxeWork) (st : BitVec 16) (fpWritten : Bool) : List Byte :=
  let f := w.fault.getD ⟨0xFFFFFFFF, 0, 0, 0, 0, none⟩
  layoutBytes 32 [(0, 2, st.toNat), (2, 2, f.feature), (4, 1, f.kind), (8, 4, fxeResumeRow w - w.cb 8 4), (12, 4, f.row),
    (16, 8, f.addr), (24, 4, (fxePosted w).1), (28, 1, b2n (fxePosted w).2 + 2 * b2n fpWritten)]

/-! ### Sparse solves -/

/-- Bytes of WORK that a solve of `nn` local and mirror elements needs (06 R202). -/
def sieWorkSize (c : List Byte) (nn : Nat) : Nat :=
  let sb := (4 * nn + 2 * (nn / 64) + 255) / 256 * 256
  let v := if leField c 0 1 = 0 then 5 else if leField c 0 1 = 1 then 9 else leField c 1 1 + 5
  65536 + v * sb + 16 * nn

/-- Where other members write in a solve's WORK: the mirror groups of its vectors and the arrival counter, as (offset, length) (06 R197). -/
def sieInbox (w : SieIn) : List (Nat × Nat) :=
  (Config.sieCounter, 4) :: (List.range w.nmirror).flatMap (fun g =>
    [(Config.sieMirror 0 (w.nbrows * w.b + 64 * g), 260), (Config.sieMirror 1 (w.nbrows * w.b + 64 * g), 260),
      (Config.sieMirror 2 (w.nbrows * w.b + 64 * g), 512)])

/-- The sectors of WORK that a solve uses for itself, as address ranges; `all` takes in where others write. -/
def sieOwnWork (w : SieIn) (all : Bool) : List (Nat × Nat) :=
  let a := leField w.ctrl 112 8
  (sectorsOf a (sieWorkSize w.ctrl (w.nbrows * w.b + 64 * w.nmirror))).filter (fun x =>
    all || !(sieInbox w).any (fun y => decide (a + y.1 < x.1 + x.2) && decide (x.1 < a + y.1 + y.2)))

end Sys2Proof.Machine
end

