-- ==== Sys2Proof/Machine/Status.lean ====
section
/-! DEFINITION. Completion status codes, the header of a descriptor, and access to the tiles (10 R327, R335, 03 R57). -/

namespace Sys2Proof.Machine

/-- Completion status codes (10 R335). -/
def St.ok : BitVec 16 := 0x0000
def St.okCorrected : BitVec 16 := 0x0001
def St.uncorrected : BitVec 16 := 0x0100
def St.parity : BitVec 16 := 0x0101
def St.remoteDead : BitVec 16 := 0x0200
def St.fence : BitVec 16 := 0x0201
def St.aborted : BitVec 16 := 0x0300
def St.dependency : BitVec 16 := 0x0301
def St.supply : BitVec 16 := 0x0400
def St.partReset : BitVec 16 := 0x0500
def St.unitFenced : BitVec 16 := 0x0501
def St.deviceFatal : BitVec 16 := 0x0900
def St.cmdInvalid : BitVec 16 := 0x0A00
def St.scratchBounds : BitVec 16 := 0x0A01
def St.tileAddress : BitVec 16 := 0x0A02
def St.tileNotOwned : BitVec 16 := 0x0A03
def St.descInvalid : BitVec 16 := 0x0E00
def St.dmaAddress : BitVec 16 := 0x0E01
def St.descAddress : BitVec 16 := 0x0E02

/-- The status satisfies waits (01 R16). -/
def satisfies (st : BitVec 16) : Bool := decide (st.toNat < 0x100) || st == 0x0800

/-- A failing status that carries no error record of its own (14 R456). -/
def recordless (st : BitVec 16) : Bool :=
  satisfies st || st == St.aborted || st == St.dependency || st == St.supply || st == St.partReset || st == St.deviceFatal

/-- A descriptor field (10 R327). -/
def Desc.fld (d : Desc) (off len : Nat) : Nat := leField d.bytes off len
/-- ENGINE. -/
def Desc.engine (d : Desc) : Nat := d.fld 0 1
/-- OP. -/
def Desc.op (d : Desc) : Nat := d.fld 2 2
/-- The IRQ bit. -/
def Desc.irq (d : Desc) : Bool := bitAt (d.fld 1 1) 0

/-- The A-die of a logical tile (03 R57). -/
def tileDie (t : Nat) : Nat := t / 168

/-- A logical tile. -/
def tileOf (s : State) (t : Nat) : Tile := sget (fun _ => Tile.init) s.tiles t

/-- The state with a logical tile replaced. -/
def setTile (s : State) (t : Nat) (v : Tile) : State := { s with tiles := sset (fun _ => Tile.init) s.tiles t v }

end Sys2Proof.Machine
end

