-- ==== Sys2Proof/Machine/Fp.lean ====
section
/-! DEFINITION. Floating-point and integer formats, exact values, rounding, arithmetic, conversions and flags
(03 R63, 04 R118 to R123, 05 R131 to R138, 08 R250 to R253, 09 R280). -/

namespace Sys2Proof.Machine

/-- A binary floating-point format: exponent bits, fraction bits, its largest finite pattern and whether it has
infinities (05 Table 1). -/
structure Fmt where
  ebits : Nat
  mbits : Nat
  maxFinite : Nat
  hasInf : Bool
  deriving DecidableEq, Repr

def Fmt.fp64 : Fmt := ⟨11, 52, 0x7FEFFFFFFFFFFFFF, true⟩
def Fmt.fp32 : Fmt := ⟨8, 23, 0x7F7FFFFF, true⟩
def Fmt.bf16 : Fmt := ⟨8, 7, 0x7F7F, true⟩
def Fmt.fp16 : Fmt := ⟨5, 10, 0x7BFF, true⟩
def Fmt.e5m2 : Fmt := ⟨5, 2, 0x7B, true⟩
def Fmt.e4m3 : Fmt := ⟨4, 3, 0x7E, false⟩

/-- Exponent bias. -/
def Fmt.bias (f : Fmt) : Int := (2 ^ (f.ebits - 1) : Nat) - 1
/-- Smallest normal exponent. -/
def Fmt.emin (f : Fmt) : Int := 1 - f.bias
/-- Width in bits. -/
def Fmt.width (f : Fmt) : Nat := 1 + f.ebits + f.mbits
/-- The sign bit as a number. -/
def Fmt.signBit (f : Fmt) : Nat := 2 ^ (f.ebits + f.mbits)
/-- The pattern of +∞ (for a format that has infinities). -/
def Fmt.infBits (f : Fmt) : Nat := (2 ^ f.ebits - 1) * 2 ^ f.mbits
/-- The canonical quiet NaN (05 R133). -/
def Fmt.qnan (f : Fmt) : Nat := if f.hasInf then f.infBits + 2 ^ (f.mbits - 1) else 0x7F

/-- An exact value: a NaN (signalling or quiet), an infinity, or (−1)^neg × m × 2^e. -/
inductive Fv where
  | nan (signalling : Bool)
  | inf (neg : Bool)
  | num (neg : Bool) (m : Nat) (e : Int)
  deriving DecidableEq, Repr

/-- Flag bits as VSTAT numbers them (04 Table 11). -/
def Fl.iv : Nat := 1
def Fl.dz : Nat := 2
def Fl.of : Nat := 4
def Fl.uf : Nat := 8
def Fl.nx : Nat := 16
def Fl.sat : Nat := 32

/-- A result pattern and the flags it raises. -/
abbrev Rf := Nat × Nat

/-- The exact value of a pattern. -/
def Fmt.decode (f : Fmt) (bits : Nat) : Fv :=
  let neg := bitAt bits (f.ebits + f.mbits)
  let ex := fieldOf bits f.mbits f.ebits
  let fr := fieldOf bits 0 f.mbits
  if !f.hasInf && ex == 2 ^ f.ebits - 1 && fr == 2 ^ f.mbits - 1 then .nan false
  else if f.hasInf && ex == 2 ^ f.ebits - 1 then
    (if fr = 0 then .inf neg else .nan (decide (fr < 2 ^ (f.mbits - 1))))
  else if ex = 0 then .num neg fr (f.emin - f.mbits)
  else .num neg (fr + 2 ^ f.mbits) ((ex : Int) - f.bias - f.mbits)

/-- Number of significant bits. -/
def bitLen (n : Nat) : Nat := if n = 0 then 0 else Nat.log2 n + 1

/-- `m × 2^-sh` rounded to an integer, nearest with ties to even; `sticky` says that a positive part below the
last bit of `m` was cut off. The second component says that the result is inexact. -/
def rne (m : Nat) (sh : Int) (sticky : Bool) : Nat × Bool :=
  if sh ≤ 0 then (m * 2 ^ (-sh).toNat, sticky)
  else
    let k := sh.toNat
    let q := m / 2 ^ k
    let r := m % 2 ^ k
    let h := 2 ^ (k - 1)
    let up := decide (h < r) || (r == h && (sticky || q % 2 == 1))
    (if up then q + 1 else q, r != 0 || sticky)

/-- The pattern, without its sign, of `m × 2^e` rounded once, the exponent range unbounded above (04 R118);
whether it is inexact, and whether it is tiny after rounding. -/
def Fmt.roundMag (f : Fmt) (m : Nat) (e : Int) (sticky : Bool) : Nat × Bool × Bool :=
  if m = 0 then (0, sticky, sticky)
  else
    let top := e + bitLen m - 1
    let q0 := f.emin - f.mbits
    let q := max (top - f.mbits) q0
    let (r, inx) := rne m (q - e) sticky
    let (ru, _) := rne m (top - f.mbits - e) sticky
    let top' := if ru = 2 ^ (f.mbits + 1) then top + 1 else top
    ((q - q0).toNat * 2 ^ f.mbits + r, inx, decide (top' < f.emin))

/-- A sign applied to a pattern. -/
def Fmt.signed (f : Fmt) (neg : Bool) (mag : Nat) : Nat := if neg then mag + f.signBit else mag

/-- An exact finite value rounded to the format; overflow gives an infinity (04 R118). -/
def Fmt.round (f : Fmt) (neg : Bool) (m : Nat) (e : Int) (sticky : Bool) : Rf :=
  let (mag, inx, tiny) := f.roundMag m e sticky
  if f.maxFinite < mag then (f.signed neg f.infBits, Fl.of + Fl.nx)
  else (f.signed neg mag, (if inx then Fl.nx else 0) + (if inx && tiny then Fl.uf else 0))

/-- The value is a NaN. -/
def Fv.isNan : Fv → Bool
  | .nan _ => true
  | _ => false
/-- The value is a signalling NaN. -/
def Fv.isSnan : Fv → Bool
  | .nan b => b
  | _ => false
/-- The value with its sign inverted. -/
def Fv.neg : Fv → Fv
  | .nan b => .nan b
  | .inf n => .inf (!n)
  | .num n m e => .num (!n) m e
/-- The sign. -/
def Fv.sign : Fv → Bool
  | .nan _ => false
  | .inf n => n
  | .num n _ _ => n

/-- A signed significand. -/
def sgn (neg : Bool) (m : Nat) : Int := if neg then -(m : Int) else m

/-- Exact sum of two finite values as a signed significand and an exponent. -/
def sumExact (n1 : Bool) (m1 : Nat) (e1 : Int) (n2 : Bool) (m2 : Nat) (e2 : Int) : Int × Int :=
  let e := min e1 e2
  (sgn n1 (m1 * 2 ^ (e1 - e).toNat) + sgn n2 (m2 * 2 ^ (e2 - e).toNat), e)

/-- The exact sum of two values; infinities of opposite signs are invalid. -/
def Fv.add : Fv → Fv → Fv × Nat
  | .nan a, y => (.nan false, if a || y.isSnan then Fl.iv else 0)
  | _, .nan b => (.nan false, if b then Fl.iv else 0)
  | .inf a, .inf b => if a = b then (.inf a, 0) else (.nan false, Fl.iv)
  | .inf a, .num _ _ _ => (.inf a, 0)
  | .num _ _ _, .inf b => (.inf b, 0)
  | .num n1 m1 e1, .num n2 m2 e2 =>
    let (x, e) := sumExact n1 m1 e1 n2 m2 e2
    if x = 0 then (.num (n1 && n2) 0 0, 0) else (.num (decide (x < 0)) x.natAbs e, 0)

/-- The exact product of two values; infinity times zero is invalid. -/
def Fv.mul : Fv → Fv → Fv × Nat
  | .nan a, y => (.nan false, if a || y.isSnan then Fl.iv else 0)
  | _, .nan b => (.nan false, if b then Fl.iv else 0)
  | .inf a, .inf b => (.inf (a != b), 0)
  | .inf a, .num n m _ => if m = 0 then (.nan false, Fl.iv) else (.inf (a != n), 0)
  | .num n m _, .inf b => if m = 0 then (.nan false, Fl.iv) else (.inf (b != n), 0)
  | .num n1 m1 e1, .num n2 m2 e2 => (.num (n1 != n2) (m1 * m2) (e1 + e2), 0)

/-- An exact value in a format, rounded once; a NaN is canonical (04 R118). -/
def Fmt.ofFv (f : Fmt) (v : Fv) : Rf :=
  match v with
  | .nan _ => (f.qnan, 0)
  | .inf n => (f.signed n f.infBits, 0)
  | .num n m e => f.round n m e false

/-- A result with the flags of the exact operation joined in. -/
def withFlags (r : Rf) (fl : Nat) : Rf := (r.1, r.2 ||| fl)

/-- Sum, rounded once. -/
def Fmt.add (f : Fmt) (a b : Nat) : Rf :=
  let (v, fl) := (f.decode a).add (f.decode b)
  withFlags (f.ofFv v) fl
/-- Difference, rounded once. -/
def Fmt.sub (f : Fmt) (a b : Nat) : Rf :=
  let (v, fl) := (f.decode a).add (f.decode b).neg
  withFlags (f.ofFv v) fl
/-- Product, rounded once. -/
def Fmt.mul (f : Fmt) (a b : Nat) : Rf :=
  let (v, fl) := (f.decode a).mul (f.decode b)
  withFlags (f.ofFv v) fl
/-- Exact product plus addend of values, rounded once to the format. -/
def Fmt.fmaV (f : Fmt) (a b c : Fv) : Rf :=
  let (p, fl1) := a.mul b
  let (v, fl2) := p.add c
  withFlags (f.ofFv v) (fl1 ||| fl2 ||| (if c.isSnan then Fl.iv else 0))
/-- Fused multiply-add, rounded once. -/
def Fmt.fma (f : Fmt) (a b c : Nat) : Rf := f.fmaV (f.decode a) (f.decode b) (f.decode c)

/-- Quotient, correctly rounded. -/
def Fmt.div (f : Fmt) (a b : Nat) : Rf :=
  match f.decode a, f.decode b with
  | .nan x, y => (f.qnan, if x || y.isSnan then Fl.iv else 0)
  | _, .nan y => (f.qnan, if y then Fl.iv else 0)
  | .inf _, .inf _ => (f.qnan, Fl.iv)
  | .inf n, .num k _ _ => (f.signed (n != k) f.infBits, 0)
  | .num n _ _, .inf k => (f.signed (n != k) 0, 0)
  | .num n m e, .num k m2 e2 =>
    if m2 = 0 then (if m = 0 then (f.qnan, Fl.iv) else (f.signed (n != k) f.infBits, Fl.dz))
    else if m = 0 then (f.signed (n != k) 0, 0)
    else
      let sh := 2 * f.mbits + 8
      let x := m * 2 ^ sh
      f.round (n != k) (x / m2) (e - e2 - sh) (x % m2 != 0)

/-- Integer square root by bits from the top: the largest r with r² ≤ n. -/
def isqrtBits (n : Nat) : Nat → Nat → Nat
  | 0, r => r
  | k + 1, r => if (r + 2 ^ k) * (r + 2 ^ k) ≤ n then isqrtBits n k (r + 2 ^ k) else isqrtBits n k r

/-- Integer square root. -/
def isqrt (n : Nat) : Nat := isqrtBits n (bitLen n / 2 + 1) 0

/-- Square root, correctly rounded. -/
def Fmt.sqrt (f : Fmt) (a : Nat) : Rf :=
  match f.decode a with
  | .nan x => (f.qnan, if x then Fl.iv else 0)
  | .inf n => if n then (f.qnan, Fl.iv) else (f.infBits, 0)
  | .num n m e =>
    if m = 0 then (f.signed n 0, 0)
    else if n then (f.qnan, Fl.iv)
    else
      let k : Nat := 2 * f.mbits + 8
      let odd : Nat := (e % 2).toNat
      let x := m * 2 ^ (2 * k + odd)
      let r := isqrt x
      f.round false r ((e - odd) / 2 - k) (r * r != x)

/-- Exact comparison of two values that are no NaN: −1, 0 or 1. -/
def Fv.cmp : Fv → Fv → Int
  | .inf a, .inf b => if a = b then 0 else if a then -1 else 1
  | .inf a, _ => if a then -1 else 1
  | _, .inf b => if b then 1 else -1
  | .num n1 m1 e1, .num n2 m2 e2 => (sumExact n1 m1 e1 (!n2) m2 e2).1.sign
  | _, _ => 0

/-- IEEE 754-2019 minimum and maximum (04 R118): a NaN operand gives the canonical NaN, −0 is below +0. -/
def Fmt.minMax (f : Fmt) (isMax : Bool) (a b : Nat) : Rf :=
  let x := f.decode a
  let y := f.decode b
  if x.isNan || y.isNan then (f.qnan, if x.isSnan || y.isSnan then Fl.iv else 0)
  else
    let c := x.cmp y
    let aLess := decide (c < 0) || (c == 0 && x.sign && !y.sign)
    (if aLess != isMax then a else b, 0)

/-- The comparison codes of CMP (04 Table 9): 0 EQ, 1 NE, 2 LT, 3 LE, 4 GT, 5 GE, 6 UNORD; with the IV flag. -/
def Fmt.cmp (f : Fmt) (code a b : Nat) : Bool × Nat :=
  let x := f.decode a
  let y := f.decode b
  let ordered := decide (2 ≤ code) && decide (code ≤ 5)
  if x.isNan || y.isNan then
    (code == 1 || code == 6, if ordered || x.isSnan || y.isSnan then Fl.iv else 0)
  else
    let c := x.cmp y
    (match code with
      | 0 => c == 0
      | 1 => c != 0
      | 2 => decide (c < 0)
      | 3 => decide (c ≤ 0)
      | 4 => decide (0 < c)
      | 5 => decide (0 ≤ c)
      | _ => false, 0)

/-! ### Types and conversions -/

/-- The floating-point format of a type code (04 Table 5). -/
def typeFmt : Nat → Option Fmt
  | 0 => some .bf16
  | 1 => some .fp16
  | 2 => some .e4m3
  | 3 => some .e5m2
  | 5 => some .fp32
  | 6 => some .fp64
  | _ => none

/-- The width in bits of an integer type code. -/
def typeInt : Nat → Option Nat
  | 4 => some 8
  | 8 => some 32
  | 9 => some 16
  | 10 => some 64
  | _ => none

/-- The size in bytes of a type code; 0 for a reserved code. -/
def typeBytes : Nat → Nat
  | 0 => 2
  | 1 => 2
  | 2 => 1
  | 3 => 1
  | 4 => 1
  | 5 => 4
  | 6 => 8
  | 8 => 4
  | 9 => 2
  | 10 => 8
  | _ => 0

/-- An exact value rounded to an integer, ties to even, and whether that was inexact. -/
def roundInt (neg : Bool) (m : Nat) (e : Int) : Int × Bool :=
  let (r, inx) := rne m (-e) false
  (sgn neg r, inx)

/-- A value converted to a floating-point format (05 R136, R137). An integer above FP16's largest finite value becomes an infinity with OF and NX as
a floating-point source does, where Table 2's row for integers says only "rounded value, NX" (log entry 34, DEDUCED). -/
def Fmt.convert (f : Fmt) (v : Fv) : Rf :=
  let eight := f.width == 8
  match v with
  | .nan s => (f.qnan, if s then Fl.iv else 0)
  | .inf n => if f.hasInf then (f.signed n f.infBits, 0) else (f.signed n f.maxFinite, Fl.sat)
  | .num n m e =>
    let (mag, inx, tiny) := f.roundMag m e false
    if f.maxFinite < mag then
      (if eight then (f.signed n f.maxFinite, Fl.sat + Fl.nx) else (f.signed n f.infBits, Fl.of + Fl.nx))
    else (f.signed n mag, (if inx then Fl.nx else 0) + (if inx && tiny then Fl.uf else 0))

/-- A value converted to a `w`-bit signed integer (05 R136). -/
def convertToInt (w : Nat) (v : Fv) : Rf :=
  let lo : Int := -(2 ^ (w - 1) : Nat)
  let hi : Int := (2 ^ (w - 1) : Nat) - 1
  match v with
  | .nan _ => (0, Fl.iv)
  | .inf n => (ofSigned w (if n then lo else hi), Fl.sat)
  | .num n m e =>
    let (x, inx) := roundInt n m e
    if x < lo then (ofSigned w lo, Fl.sat) else if hi < x then (ofSigned w hi, Fl.sat)
    else (ofSigned w x, if inx then Fl.nx else 0)

/-- The exact value of a pattern of a type. -/
def typeValue (t bits : Nat) : Fv :=
  match typeFmt t with
  | some f => f.decode bits
  | none =>
    let x := toSigned ((typeInt t).getD 64) bits
    .num (decide (x < 0)) x.natAbs 0

/-- Conversion between two types (05 R136). The bits above a result that is narrower than its lane are 0, where Table 9 of chapter 04 says only "in the
low bits of the lane" (log entry 34, DESIGN CHOICE). -/
def convertType (src dst bits : Nat) : Rf :=
  match typeFmt dst with
  | some f => f.convert (typeValue src bits)
  | none => convertToInt ((typeInt dst).getD 64) (typeValue src bits)

/-- Quantising a value by an FP32 scale: one FP32 product, then one conversion (05 R138). -/
def quantise (dst x q : Nat) : Rf :=
  let y := Fmt.fp32.mul x q
  let r := convertType 5 dst y.1
  (r.1, r.2 ||| y.2)

/-- The magnitude of an FP32 pattern, a NaN becoming canonical (04 R125). -/
def absNan32 (b : Nat) : Nat :=
  let m := b % 2 ^ 31
  if 0x7F800000 < m then 0x7FC00000 else m

/-- A posted FP32 value as it ranks among the magnitudes of an open record: a NaN above all, a value below +0 as +0 (05 R143). -/
def postRank (b : Nat) : Nat :=
  let m := absNan32 b
  if m = 0x7FC00000 then m else if bitAt b 31 then 0 else m

/-- The larger of two FP32 magnitudes, NaN above all (04 R125, 05 R143). -/
def amaxOf (a b : Nat) : Nat := max (absNan32 a) (absNan32 b)

/-- CRC-64 with the ECMA-182 polynomial over one byte, most significant bit first (04 R126). -/
def crc64Bits : Nat → Nat → Nat → Nat
  | 0, c, _ => c
  | k + 1, c, b =>
    let top := bitAt c 63 != bitAt b 7
    crc64Bits k (((c * 2) % 2 ^ 64) ^^^ (if top then 0x42F0E1EBA9EA3693 else 0)) ((b * 2) % 256)

/-- CRC-64 over bytes, from a starting value (04 R126). -/
def crc64 (c : Nat) (bs : List Byte) : Nat := bs.foldl (fun c b => crc64Bits 8 c b.toNat) c

end Sys2Proof.Machine
end

