-- ==== Sys2Proof/Machine/Trans.lean ====
section
/-! DEFINITION. The transcendental functions of 04 Table 10: fixed-point approximations of their exact results, and results within the
bounds of R122 (log entry 9). -/

namespace Sys2Proof.Machine

/-- Fraction bits of the fixed-point numbers below; every function here is exact to more than 100 bits of its result. -/
def fixP : Nat := 448
/-- The fixed-point number 1. -/
def fixOne : Int := ((2 ^ fixP : Nat) : Int)
/-- Product of fixed-point numbers, rounded down. -/
def fixMul (a b : Int) : Int := a * b / fixOne
/-- Quotient of fixed-point numbers, rounded down. -/
def fixDiv (a b : Int) : Int := a * fixOne / b
/-- `m × 2^e` as a fixed-point number, rounded down in magnitude. -/
def fixOf (neg : Bool) (m : Nat) (e : Int) : Int :=
  let k := e + fixP
  sgn neg (if 0 ≤ k then m * 2 ^ k.toNat else m / 2 ^ (-k).toNat)

/-- The sum of z^(2k+1)/(2k+1), with alternating signs if `alt`, from the term `t` of index `k`; `one` stands for 1. -/
def oddSum (alt : Bool) (one z2 : Int) : Nat → Nat → Int → Int
  | 0, _, _ => 0
  | n + 1, k, t => t / ((2 * k + 1 : Nat) : Int) + oddSum alt one z2 n (k + 1) ((if alt then -t else t) * z2 / one)

/-- Inverse hyperbolic tangent of |z| ≤ 1/3. -/
def fixAtanh (z : Int) : Int := oddSum false fixOne (fixMul z z) 150 0 z
/-- Arctangent of 1/n, 5 ≤ n, as a fixed-point number of `one`. -/
def atanInv (one : Int) (n : Nat) : Int := oddSum true one (one / ((n * n : Nat) : Int)) 330 0 (one / (n : Int))
/-- π as a fixed-point number of `one`, for `one` of at most 2^1400. -/
def piAt (one : Int) : Int := 16 * atanInv one 5 - 4 * atanInv one 239
/-- ln 2. -/
def fixLn2 : Int := 2 * fixAtanh (fixOne / 3)
/-- π. -/
def fixPi : Int := piAt fixOne
/-- More fraction bits, for the reduction of large angles. -/
def wideBits : Nat := 952

/-- The sum of r^k/k! over every `step`-th k from the term `t` of index `k`, with alternating signs if `alt`. -/
def factSum (alt : Bool) (step : Nat) (rs : Int) : Nat → Nat → Int → Int
  | 0, _, _ => 0
  | n + 1, k, t =>
    t + factSum alt step rs n (k + step)
      (fixMul (if alt then -t else t) rs / ((if step = 1 then k + 1 else (k + 1) * (k + 2) : Nat) : Int))

/-- e^r of |r| < 2. -/
def fixExp (r : Int) : Int := factSum false 1 r 130 0 fixOne

/-- A positive value m × 2^e. -/
abbrev Pos := Nat × Int

/-- 2^x of a fixed-point number. -/
def exp2Pos (x : Int) : Pos :=
  let n := x / fixOne
  ((fixExp (fixMul (x - n * fixOne) fixLn2)).toNat, n - fixP)

/-- e^x of a fixed-point number. -/
def expPos (x : Int) : Pos :=
  let n := x / fixLn2
  ((fixExp (x - n * fixLn2)).toNat, n - fixP)

/-- A positive value as a fixed-point number. -/
def Pos.fix (p : Pos) : Int := fixOf false p.1 p.2

/-- ln of m × 2^e. -/
def fixLn (m : Nat) (e : Int) : Int :=
  let l := bitLen m
  let y : Int := ((m * 2 ^ (fixP + 1 - l) : Nat) : Int)
  let k : Int := e + l - 1
  let (y, k) := if 3 * fixOne < 2 * y then (y / 2, k + 1) else (y, k)
  2 * fixAtanh (fixDiv (y - fixOne) (y + fixOne)) + k * fixLn2

/-- Square root of a fixed-point number. -/
def fixSqrt (a : Int) : Int := (isqrtBits (a.toNat * 2 ^ fixP) (fixP + 8) 0 : Nat)

/-- The alternating sum of x^(2k+1)/(k! (2k+1)), from the term `t` of index `k`. -/
def erfSum (x2 : Int) : Nat → Nat → Int → Int
  | 0, _, _ => 0
  | n + 1, k, t => t / ((2 * k + 1 : Nat) : Int) + erfSum x2 n (k + 1) (fixMul (-t) x2 / ((k + 1 : Nat) : Int))

/-- A value below 1 by less than half an ulp of every type. -/
def nearOne : Pos := (2 ^ fixP - 1, -(fixP : Int))

/-- sin (`c` 0) or cos (`c` 1) of m × 2^e. -/
def fixSin (c : Nat) (neg : Bool) (m : Nat) (e : Int) : Int :=
  let x := fixOf neg m (e + wideBits)
  let h := piAt (fixOne * ((2 ^ wideBits : Nat) : Int)) / 2
  let k := x / h
  let r := (x - k * h) / ((2 ^ wideBits : Nat) : Int)
  let s := factSum true 2 (fixMul r r) 90 1 r
  let cs := factSum true 2 (fixMul r r) 90 0 fixOne
  match ((k + c) % 4).toNat with
  | 0 => s
  | 1 => cs
  | 2 => -s
  | _ => -cs

/-- The exact result of a transcendental instruction on a finite operand that is no special case, as a sign and m × 2^e. -/
def transValue (op : Nat) (neg : Bool) (m : Nat) (e : Int) : Bool × Nat × Int :=
  let top := e + bitLen m
  let x := fixOf neg m e
  let pos := fun (p : Pos) => (false, p.1, p.2)
  let ofFix := fun (v : Int) => (decide (v < 0), v.natAbs, -(fixP : Int))
  match op with
  | 0x18 => (neg, 2 ^ 300 / m, -300 - e)
  | 0x19 =>
    let (m2, e2) := if e % 2 = 0 then (m, e) else (2 * m, e - 1)
    (false, isqrtBits (2 ^ 600 / m2) 301 0, -300 - e2 / 2)
  | 0x1C => if 14 < top then (false, 1, if neg then -16384 else 16384) else pos (exp2Pos x)
  | 0x1D => if 14 < top then (false, 1, if neg then -16384 else 16384) else pos (expPos x)
  | 0x1E => ofFix (fixDiv (fixLn m e) fixLn2)
  | 0x1F => ofFix (fixLn m e)
  | 0x20 =>
    if 5 < top then (neg, nearOne.1, nearOne.2)
    else if top < -150 then (neg, m, e)
    else
      let y := (expPos (2 * fixOf false m e)).fix
      (neg, (fixDiv (y - fixOne) (y + fixOne)).toNat, -(fixP : Int))
  | 0x21 =>
    if 8 < top then (if neg then (false, 1, -2000) else (false, nearOne.1, nearOne.2))
    else
      let y := (expPos x).fix
      (false, (fixDiv y (y + fixOne)).toNat, -(fixP : Int))
  | 0x22 => if top < -150 then (neg, m, e) else ofFix (fixSin 0 neg m e)
  | 0x23 => ofFix (fixSin 1 neg m e)
  | _ =>
    if 3 < top then (neg, nearOne.1, nearOne.2)
    else
      let y := fixOf false m e
      if top < -150 then (neg, m * (fixDiv (2 * fixOne) (fixSqrt fixPi)).toNat, e - fixP)
      else (neg, (fixDiv (2 * erfSum (fixMul y y) 400 0 y) (fixSqrt fixPi)).toNat, -(fixP : Int))

/-- The bound of a transcendental instruction in ulps, at a format of 32 or 64 bits (04 Table 10). -/
def transUlps (op : Nat) (f : Fmt) : Nat :=
  if [0x18, 0x19, 0x1C, 0x1E].contains op || f.width == 64 then 1 else 2

/-- A magnitude pattern lies within `b` ulps of m × 2^e (04 R122). -/
def withinUlps (f : Fmt) (b mag m : Nat) (e : Int) : Bool :=
  match f.decode mag with
  | .num _ vm ve =>
    let u := max (e + bitLen m - 1) f.emin - f.mbits
    let lo := min (min e ve) u
    let at_ := fun (k : Nat) (x : Int) => ((k * 2 ^ (x - lo).toNat : Nat) : Int)
    decide ((at_ vm ve - at_ m e).natAbs ≤ b * 2 ^ (u - lo).toNat)
  | _ => false

/-- A result within the bound: `pick` chooses among the patterns around the correctly rounded result; an overflow gives infinity. -/
def boundedResult (f : Fmt) (b pick : Nat) (neg : Bool) (m : Nat) (e : Int) : Rf :=
  let c := f.round neg m e true
  if bitAt c.2 2 then c
  else
    let mag := c.1 % f.signBit
    let cand := (mag + pick % (2 * b + 1)) - b
    if cand ≠ mag ∧ b ≤ mag + pick % (2 * b + 1) ∧ cand ≤ f.maxFinite ∧ withinUlps f b cand m e then
      (f.signed neg cand, Fl.nx + (if cand < 2 ^ f.mbits then Fl.uf else 0))
    else c

/-- A transcendental result on a finite operand that is no special case: free within the bound, the same for the same input (04 R122 to
R124); a 16-bit type is computed in FP32 and rounded once. -/
def transOpen (op ty : Nat) (f : Fmt) (a : Nat) : Rf :=
  match f.decode a with
  | .num n m e =>
    let (rn, rm, re) := transValue op n m e
    let pick := Config.transcendental op ty a
    if f.width = 16 then
      let r := boundedResult Fmt.fp32 (transUlps op Fmt.fp32) pick rn rm re
      withFlags (f.ofFv (Fmt.fp32.decode r.1)) (r.2 ||| Fl.nx)
    else boundedResult f (transUlps op f) pick rn rm re
  | _ => (f.qnan, 0)

end Sys2Proof.Machine
end

