-- ==== Sys2Proof/Machine/Vec.lean ====
section
/-! DEFINITION. The vector engine: program blocks, streams, lane operations and one VEC command (04 R102 to R129). -/

namespace Sys2Proof.Machine

/-- Lane width in bits of a WIDTH code (04 Table 2). -/
def vecBits (w : Nat) : Nat := 8 * 2 ^ w
/-- Elements per step of a WIDTH code (04 Table 2). -/
def vecElems (w : Nat) : Nat := 128 / 2 ^ w

/-- An instruction of a VEC program (04 Table 7). -/
structure VIns where
  op   : Nat
  dst  : Nat
  sa   : Nat
  sb   : Nat
  sc   : Nat
  mask : Nat
  mz   : Bool
  ty   : Nat
  imm  : Nat
  rsv  : Nat
  deriving DecidableEq, Repr

/-- A program instruction from its 64-bit word. -/
def VIns.ofWord (w : Nat) : VIns :=
  ⟨fieldOf w 0 8, fieldOf w 8 6, fieldOf w 14 6, fieldOf w 20 6, fieldOf w 26 6, fieldOf w 32 3, bitAt w 35,
    fieldOf w 36 4, fieldOf w 40 8, fieldOf w 48 16⟩

/-- A stream descriptor (04 Table 6). -/
structure VStream where
  kind : Nat
  ty   : Nat
  acc  : Nat
  row0 : Nat
  col0 : Nat
  base : Nat
  rs   : Int
  cs   : Int
  raw  : Nat
  deriving DecidableEq, Repr

/-- A stream descriptor from its 128-bit value. -/
def VStream.ofNat (w : Nat) : VStream :=
  ⟨fieldOf w 0 3, fieldOf w 4 4, fieldOf w 8 2, fieldOf w 10 6, fieldOf w 16 6, fieldOf w 32 21,
    toSigned 32 (fieldOf w 64 32), toSigned 32 (fieldOf w 96 32), w⟩

/-- A program block with the command's fields (04 Tables 3 and 4). -/
structure VProg where
  width   : Nat
  rowstep : Bool
  rows    : Nat
  cols    : Nat
  nins    : Nat
  slot0   : Nat
  slot1   : Nat
  ctrl    : Nat
  result  : Nat
  consts  : List Nat
  streams : List VStream
  ins     : List VIns
  deriving DecidableEq, Repr

/-- The lane types that match a WIDTH (04 Table 2, Table 5). -/
def laneTypes (w : Nat) : List Nat :=
  match w with
  | 0 => [4]
  | 1 => [0, 1, 9]
  | 2 => [5, 8]
  | _ => [6, 10]

/-- The number of sources an opcode takes; none for an undefined opcode (04 Tables 9 and 10). -/
def vecSources (op : Nat) : Option Nat :=
  if op = 0x05 then some 3
  else if [0x02, 0x03, 0x04, 0x06, 0x07, 0x0A, 0x0B, 0x0D, 0x0E, 0x0F, 0x11, 0x12, 0x13, 0x14, 0x1B].contains op then some 2
  else if [0x01, 0x08, 0x09, 0x0C, 0x10, 0x30, 0x31, 0x38, 0x39].contains op then some 1
  else if 0x18 ≤ op ∧ op ≤ 0x24 then some 1
  else none

/-- The largest legal IMM of an opcode that takes a modifier, 0 for the others (04 Table 9). -/
def vecImmOk (op imm w : Nat) : Bool :=
  if op = 0x0A then decide (imm ≤ 6)
  else if op = 0x0B then decide (imm ≤ 7)
  else if op = 0x0C then decide (imm ≤ 15) && decide (0 < typeBytes imm) && decide (typeBytes imm * 8 ≤ vecBits w)
  else if op = 0x14 then decide (imm ≤ 3)
  else if op = 0x30 || op = 0x31 then decide (imm ≤ 2)
  else if op = 0x38 then decide (imm ≤ 1)
  else if op = 0x39 then decide (imm ≤ 3) && decide ((if imm = 3 then 8 else imm + 1) * 8 ≤ vecBits w)
  else imm == 0

/-- A type is floating-point. -/
def isFloatTy (t : Nat) : Bool := (typeFmt t).isSome

/-- The lane types an opcode admits (04 Tables 9 and 10). -/
def vecTypeOk (op ty w : Nat) : Bool :=
  if op = 0x14 then ty == 0
  else (laneTypes w).contains ty &&
    (if op = 0x11 || op = 0x12 || op = 0x13 || op = 0x39 then !isFloatTy ty
     else if op = 0x38 then ty == 0 || ty == 1 || ty == 5
     else if 0x18 ≤ op ∧ op ≤ 0x1F then isFloatTy ty
     else if 0x20 ≤ op ∧ op ≤ 0x24 then isFloatTy ty && ty != 6
     else true)

/-- KIND of the stream that a selector 16 to 23 names. -/
def VProg.kindOf (p : VProg) (sel : Nat) : Nat := ((p.streams[sel - 16]?).map (·.kind)).getD 0

/-- A source selector is valid for an opcode (04 Table 8, R114). -/
def VProg.sourceOk (p : VProg) (op sel : Nat) (third : Bool) : Bool :=
  if 48 ≤ sel ∧ sel ≤ 55 then (op == 0x14 || op == 0x0B) && !third
  else if op = 0x14 then false
  else if sel ≤ 15 then true
  else if sel ≤ 23 then p.kindOf sel == 1 || p.kindOf sel == 2
  else decide (sel ≤ 42)

/-- A destination selector is valid for an opcode (04 Table 8, R114). -/
def VProg.destOk (p : VProg) (op dst imm : Nat) : Bool :=
  if op = 0x0A || op = 0x14 then decide (49 ≤ dst) && decide (dst ≤ 55)
  else if op = 0x38 then dst == 56 + imm
  else if op = 0x39 then dst == 58
  else if dst ≤ 15 then true
  else decide (16 ≤ dst) && decide (dst ≤ 23) && (p.kindOf dst == 3 || p.kindOf dst == 4)

/-- An instruction meets R107 and R114. -/
def VProg.insOk (p : VProg) (i : VIns) : Bool :=
  match vecSources i.op with
  | none => false
  | some n =>
    i.rsv == 0 && vecTypeOk i.op i.ty p.width && vecImmOk i.op i.imm p.width && p.destOk i.op i.dst i.imm &&
    p.sourceOk i.op i.sa false &&
    (if 2 ≤ n then p.sourceOk i.op i.sb false else i.sb == 0) &&
    (if 3 ≤ n then p.sourceOk i.op i.sc true else i.sc == 0) &&
    (if i.op = 0x31 || (16 ≤ i.dst && i.dst ≤ 23 && p.kindOf i.dst == 4) then p.rowstep else true)

/-- The bits that a stream's KIND leaves reserved are 0 (04 Table 6). -/
def VStream.reservedOk (x : VStream) : Bool :=
  let w := x.raw
  fieldOf w 3 1 == 0 && fieldOf w 22 10 == 0 && fieldOf w 53 11 == 0 &&
  (match x.kind with
   | 0 => w == 0
   | 2 => fieldOf w 32 21 == 0 && fieldOf w 64 64 == 0
   | _ => fieldOf w 8 14 == 0)

/-- A stream meets R107 to R112. -/
def VStream.ok (x : VStream) (w : Nat) (accTag : Nat) : Bool :=
  let sz := typeBytes x.ty
  x.reservedOk && decide (x.kind ≤ 4) &&
  (if x.kind = 0 then true
   else if x.kind = 2 then
     decide (2 ≤ w) && x.ty == (match accTag with | 0 => 5 | 1 => 8 | _ => 6) && (accTag != 2 || w == 3)
   else
     decide (0 < sz) && decide (sz * 8 ≤ vecBits w) && decide (x.base % sz = 0) && decide (x.rs % (sz : Int) = 0) &&
     decide (x.cs % (sz : Int) = 0) && (x.kind != 4 || x.cs == 0) && (x.kind != 1 || w != 0 || !isFloatTy x.ty))

/-- A program as read from its block (04 Table 4). -/
def VProg.ofBytes (width : Nat) (rowstep : Bool) (rows cols : Nat) (b : List Byte) : VProg :=
  { width := width, rowstep := rowstep, rows := rows, cols := cols
    nins := leField b 0 1, slot0 := leField b 4 2, slot1 := leField b 6 2, ctrl := leField b 8 1
    result := leField b 12 4
    consts := (List.range 16).map (fun i => leField b (32 + 8 * i) 8)
    streams := (List.range 8).map (fun i => VStream.ofNat (leField b (160 + 16 * i) 16))
    ins := (List.range (leField b 0 1)).map (fun i => VIns.ofWord (leField b (288 + 8 * i) 8)) }

/-- The accumulator sets that a program reads (04 R111). -/
def VProg.setsRead (p : VProg) : List Nat := (p.streams.filter (fun x => x.kind == 2)).map (·.acc)

/-- The program block passes the check of R107. -/
def VProg.ok (p : VProg) (b : List Byte) (accTags : List Nat) : Bool :=
  decide (1 ≤ p.nins) && decide (p.nins ≤ 64) && leField b 1 3 == 0 && decide (p.ctrl < 32) && leField b 9 3 == 0 &&
  decide (p.result < 2 ^ 21) && p.result % 32 == 0 && leField b 16 16 == 0 &&
  p.streams.all (fun x => x.ok p.width (accTags.getD x.acc 0)) && p.ins.all (fun i => p.insOk i) &&
  (List.range 8).all (fun k => decide ((p.ins.filter (fun i => i.dst == 16 + k)).length ≤ 1)) &&
  decide (1 ≤ p.rows) && decide (1 ≤ p.cols)

/-! ### Lane operations -/

/-- A one-operand transcendental on a floating-point type: the special operands of R123, and otherwise a result
within the bound of R122 (log entry 9). -/
def transcend (op ty : Nat) (f : Fmt) (a : Nat) : Rf :=
  let one := (f.convert (.num false 1 0)).1
  let half := (f.convert (.num false 1 (-1))).1
  match f.decode a with
  | .nan s => (f.qnan, if s then Fl.iv else 0)
  | .inf n =>
    match op with
    | 0x18 => (f.signed n 0, 0)
    | 0x19 => if n then (f.qnan, Fl.iv) else (0, 0)
    | 0x1C | 0x1D => if n then (0, 0) else (f.infBits, 0)
    | 0x1E | 0x1F => if n then (f.qnan, Fl.iv) else (f.infBits, 0)
    | 0x20 | 0x24 => (f.signed n one, 0)
    | 0x21 => (if n then 0 else one, 0)
    | _ => (f.qnan, Fl.iv)
  | .num n m e =>
    if m = 0 then
      match op with
      | 0x18 | 0x19 => (f.signed n f.infBits, Fl.dz)
      | 0x1C | 0x1D | 0x23 => (one, 0)
      | 0x1E | 0x1F => (f.signed true f.infBits, Fl.dz)
      | 0x21 => (half, 0)
      | _ => (f.signed n 0, 0)
    else if n && (op = 0x19 || op = 0x1E || op = 0x1F) then (f.qnan, Fl.iv)
    else if (op = 0x1E || op = 0x1F) && (Fv.num n m e).cmp (.num false 1 0) == 0 then (0, 0)
    else transOpen op ty f a

/-- An arithmetic lane operation on floating-point lanes (04 Table 9). -/
def floatOp (op ty imm : Nat) (f : Fmt) (a b c : Nat) : Rf :=
  match op with
  | 0x02 => f.add a b
  | 0x03 => f.sub a b
  | 0x04 => f.mul a b
  | 0x05 => f.fma a b c
  | 0x06 => f.minMax false a b
  | 0x07 => f.minMax true a b
  | 0x08 => (a % f.signBit, 0)
  | 0x09 => (a ^^^ f.signBit, 0)
  | 0x0C => convertType ty imm a
  | 0x1A => f.sqrt a
  | 0x1B => f.div a b
  | _ => transcend op ty f a

/-- An arithmetic lane operation on integer lanes of `w` bits (04 R119, Table 9). -/
def intOp (op ty imm w a b c : Nat) : Rf :=
  let x := toSigned w a
  let y := toSigned w b
  match op with
  | 0x02 => (ofSigned w (x + y), 0)
  | 0x03 => (ofSigned w (x - y), 0)
  | 0x04 => (ofSigned w (x * y), 0)
  | 0x05 => (ofSigned w (x * y + toSigned w c), 0)
  | 0x06 => (ofSigned w (min x y), 0)
  | 0x07 => (ofSigned w (max x y), 0)
  | 0x08 => (ofSigned w (if x < 0 then -x else x), 0)
  | 0x09 => (ofSigned w (-x), 0)
  | 0x0C => convertType ty imm a
  | 0x11 => ((a <<< (b % w)) % 2 ^ w, 0)
  | 0x12 => (a >>> (b % w), 0)
  | _ => (ofSigned w (x / ((2 ^ (b % w) : Nat) : Int)), 0)

/-- A lane operation with a lane result (04 Tables 9 and 10). -/
def laneOp (w op ty imm a b c : Nat) : Rf :=
  match op with
  | 0x01 => (a, 0)
  | 0x0D => (a &&& b, 0)
  | 0x0E => (a ||| b, 0)
  | 0x0F => (a ^^^ b, 0)
  | 0x10 => (2 ^ w - 1 - a % 2 ^ w, 0)
  | _ => match typeFmt ty with
    | some f => floatOp op ty imm f a b c
    | none => intOp op ty imm w a b c

/-- A comparison of two lanes (04 Table 9, R121). -/
def laneCmp (w ty code a b : Nat) : Bool × Nat :=
  match typeFmt ty with
  | some f => f.cmp code a b
  | none =>
    let x := toSigned w a
    let y := toSigned w b
    (match code with
      | 0 => x == y
      | 1 => x != y
      | 2 => decide (x < y)
      | 3 => decide (x ≤ y)
      | 4 => decide (y < x)
      | 5 => decide (y ≤ x)
      | _ => false, 0)

/-- The identity of a reduction (04 R117). -/
def redIdentity (w ty imm : Nat) : Nat :=
  match typeFmt ty with
  | some f => if imm = 0 then f.signBit else if imm = 1 then f.signed true f.infBits else f.infBits
  | none => if imm = 0 then 0 else if imm = 1 then 2 ^ (w - 1) else 2 ^ (w - 1) - 1

/-- One node of a reduction: sum, max or min. -/
def redNode (w ty imm a b : Nat) : Rf := laneOp w (if imm = 0 then 0x02 else if imm = 1 then 0x07 else 0x06) ty 0 a b 0

/-- Adjacent pairs of a list combined (04 R117). -/
def pairUp (g : Nat → Nat → Rf) : List Nat → List Nat × Nat
  | a :: b :: rest =>
    let r := g a b
    let (l, fl) := pairUp g rest
    (r.1 :: l, r.2 ||| fl)
  | l => (l, 0)

/-- The pairwise tree over a list, in `k` rounds. -/
def redTree (g : Nat → Nat → Rf) : Nat → List Nat → Nat → List Nat × Nat
  | 0, l, fl => (l, fl)
  | k + 1, l, fl =>
    let (l', f') := pairUp g l
    redTree g k l' (fl ||| f')

/-! ### Steps -/

/-- The engine during a command (04 Table 1): registers by lane, masks as lists of lanes' bits, A0, A1, D0, CMDFLAGS and
the running value of each SEGRED. -/
structure VSt where
  v     : List (List Nat)
  m     : List (List Bool)
  a     : List Nat
  d0    : Nat
  fl    : Nat
  seg   : List Nat
  deriving DecidableEq, Repr

/-- An address range lies in the scratchpad and in enabled banks (03 R84). -/
def spRangeOk (mask start len : Nat) : Bool :=
  decide (start + len ≤ 1572864) &&
    (decide (len = 0) || (List.range (((start + len - 1) / 65536) + 1)).all (fun b => decide (b < start / 65536) || bitAt mask b))

/-- Address of element (r, c) of a scratchpad stream, if it lies in enabled banks (04 R109). -/
def VStream.addr (x : VStream) (mask r c : Nat) : Option Nat :=
  let a : Int := (x.base : Int) + r * x.rs + c * x.cs
  if a < 0 then none else if spRangeOk mask a.toNat (typeBytes x.ty) then some a.toNat else none

/-- An element read by an input stream, widened to the lane (04 R110). -/
def widen (w ty raw : Nat) : Rf :=
  let bits := vecBits w
  match typeFmt ty with
  | some _ =>
    let target := if w = 1 then (if ty = 0 then 0 else 1) else if w = 2 then 5 else 6
    if ty = target then (raw, 0) else
      let r := convertType ty target raw
      (r.1, r.2 &&& Fl.iv)
  | none => (ofSigned bits (toSigned (8 * typeBytes ty) raw), 0)

/-- The lanes that an input stream gives for the elements of a step, with the flags it raises. -/
def streamLanes (s : State) (t mask : Nat) (accs : List AccSet) (w : Nat) (x : VStream) :
    List (Nat × Nat) → Except (BitVec 16) (List Nat × Nat)
  | [] => .ok ([], 0)
  | (r, c) :: rest =>
    let here : Except (BitVec 16) Rf :=
      if x.kind = 2 then
        let set := accs.getD x.acc AccSet.init
        let lim := if set.tag = 2 then 24 else 48
        if x.row0 + r < lim ∧ x.col0 + c < 48 then
          let rf := widen w x.ty (sget (fun _ => 0) set.elts ((x.row0 + r) * 48 + x.col0 + c))
          .ok (rf.1, rf.2 ||| (b2n set.inv * 64 + b2n set.ovf * 128 + b2n set.sat * 256))
        else .error St.cmdInvalid
      else match x.addr mask r c with
        | none => .error St.scratchBounds
        | some a => if poisoned s (spKey t a) (typeBytes x.ty) then .error St.uncorrected else .ok (widen w x.ty (leNat (getBytes s (spKey t a) (typeBytes x.ty))))
    match here with
    | .error e => .error e
    | .ok (v, fl) =>
      match streamLanes s t mask accs w x rest with
      | .error e => .error e
      | .ok (vs, fl2) => .ok (v :: vs, fl ||| fl2)

/-- The lanes of all input streams of a step, in stream order; other streams give an empty list. -/
def inputLanes (s : State) (t mask : Nat) (accs : List AccSet) (w : Nat) (elts : List (Nat × Nat)) :
    List VStream → Except (BitVec 16) (List (List Nat) × Nat)
  | [] => .ok ([], 0)
  | x :: rest =>
    match (if x.kind = 1 || x.kind = 2 then streamLanes s t mask accs w x elts else .ok ([], 0)) with
    | .error e => .error e
    | .ok (l, fl) =>
      match inputLanes s t mask accs w elts rest with
      | .error e => .error e
      | .ok (ls, fl2) => .ok (l :: ls, fl ||| fl2)

/-- Lane `l` of a source selector (04 Table 8). -/
def laneSrc (p : VProg) (ins : List (List Nat)) (elts : List (Nat × Nat)) (st : VSt) (sel l : Nat) : Nat :=
  let w := vecBits p.width
  if sel ≤ 15 then (st.v.getD sel []).getD l 0
  else if sel ≤ 23 then (ins.getD (sel - 16) []).getD l 0
  else if sel ≤ 39 then p.consts.getD (sel - 24) 0 % 2 ^ w
  else if sel = 40 then (elts.getD l (0, 0)).1 % 2 ^ w
  else if sel = 41 then (elts.getD l (0, 0)).2 % 2 ^ w
  else if sel = 42 then l % 2 ^ w
  else if (st.m.getD (sel - 48) []).getD l false then 2 ^ w - 1 else 0

/-- The lane values and flags of an instruction with a lane result, over the lanes of a step. -/
def insLanes (p : VProg) (ins : List (List Nat)) (elts : List (Nat × Nat)) (st : VSt) (i : VIns) (act : List Bool) (seg : Nat) :
    List Nat × Nat × Nat :=
  let w := vecBits p.width
  let n := vecElems p.width
  let src := fun sel l => laneSrc p ins elts st sel l
  if i.op = 0x30 || i.op = 0x31 then
    let ident := redIdentity w i.ty i.imm
    let xs := (List.range n).map (fun l => if act.getD l false then src i.sa l else ident)
    let (l, fl) := redTree (redNode w i.ty i.imm) 7 xs 0
    let tot := l.headD ident
    if i.op = 0x30 then (List.replicate n tot, fl, seg)
    else
      let r := redNode w i.ty i.imm seg tot
      (List.replicate n r.1, fl ||| r.2, r.1)
  else
    let rs := (List.range n).map (fun l =>
      if !act.getD l false then ((0, 0) : Rf)
      else if i.op = 0x0B then ((if (st.m.getD i.imm []).getD l false then src i.sa l else src i.sb l), 0)
      else laneOp w i.op i.ty i.imm (src i.sa l) (src i.sb l) (src i.sc l))
    (rs.map (·.1), rs.foldl (fun f r => f ||| r.2) 0, seg)

/-- The writes of an output stream in one step: active lanes, or all element lanes under zero masking; a row output
writes the lane of the row's last element at the row's last step (04 R112, R116). -/
def outWrites (p : VProg) (x : VStream) (mask : Nat) (elts : List (Nat × Nat)) (act : List Bool) (mz : Bool) (vals : List Nat) :
    Except (BitVec 16) (List (Nat × List Byte)) :=
  (List.range elts.length).foldl (fun acc l =>
    match acc with
    | .error e => .error e
    | .ok ws =>
      let (r, c) := elts.getD l (0, 0)
      let on := act.getD l false
      if x.kind = 4 && c + 1 != p.cols then .ok ws
      else match x.addr mask r (if x.kind = 4 then 0 else c) with
        | none => .error St.scratchBounds
        | some a =>
          if on then .ok (ws ++ [(a, leBytes (typeBytes x.ty) (vals.getD l 0))])
          else if mz then .ok (ws ++ [(a, leBytes (typeBytes x.ty) 0)])
          else .ok ws) (.ok [])

/-- One lane of AMAX: the IEEE maximum of A and the magnitude of the source, as FP32, with the flags (04 Table 9, R118, R125). -/
def amaxStep (ty w a x : Nat) : Rf :=
  let m := convertType ty 5 (x % 2 ^ (w - 1))
  let r := Fmt.fp32.minMax true a m.1
  (r.1, m.2 ||| r.2)

/-- One instruction of one step (04 R115, R116). A tail lane is an inactive lane of R116: under zero masking its bits of a register or a mask become
0, although R105 calls it never written (log entry 34, DEDUCED). The second component lists its writes as (stream selector, address, bytes). -/
def runIns (p : VProg) (mask : Nat) (ins : List (List Nat)) (elts : List (Nat × Nat)) (k : Nat) (i : VIns) (st : VSt) :
    Except (BitVec 16) (VSt × List (Nat × Nat × List Byte)) :=
  let n := vecElems p.width
  let w := vecBits p.width
  let act := (List.range n).map (fun l => decide (l < elts.length) && (st.m.getD i.mask []).getD l false)
  let src := fun sel l => laneSrc p ins elts st sel l
  if i.op = 0x0A || i.op = 0x14 then
    let rs := (List.range n).map (fun l =>
      if !act.getD l false then (false, 0)
      else if i.op = 0x0A then laneCmp w i.ty i.imm (src i.sa l) (src i.sb l)
      else
        let a := (st.m.getD (i.sa - 48) []).getD l false
        let b := (st.m.getD (i.sb - 48) []).getD l false
        (match i.imm with | 0 => a && b | 1 => a || b | 2 => a != b | _ => a && !b, 0))
    let old := st.m.getD (i.dst - 48) []
    let new := (List.range n).map (fun l => if act.getD l false then (rs.getD l (false, 0)).1 else if i.mz then false else old.getD l false)
    .ok ({ st with m := st.m.set (i.dst - 48) new, fl := rs.foldl (fun f r => f ||| r.2) st.fl }, [])
  else if i.op = 0x38 then
    let r := (List.range n).foldl (fun (r : Rf) l =>
      if act.getD l false then
        let q := amaxStep i.ty w r.1 (src i.sa l)
        (q.1, r.2 ||| q.2)
      else r) (st.a.getD i.imm 0, st.fl)
    .ok ({ st with a := st.a.set i.imm r.1, fl := r.2 }, [])
  else if i.op = 0x39 then
    let nb := if i.imm = 3 then 8 else i.imm + 1
    let d := (List.range n).foldl (fun d l => if act.getD l false then crc64 d (leBytes nb (src i.sa l)) else d) st.d0
    .ok ({ st with d0 := d }, [])
  else
    let (vals, fl, sg) := insLanes p ins elts st i act (st.seg.getD k 0)
    let st1 := { st with fl := st.fl ||| fl, seg := st.seg.set k sg }
    if i.dst ≤ 15 then
      let old := st.v.getD i.dst []
      let new := (List.range n).map (fun l => if act.getD l false then vals.getD l 0 else if i.mz then 0 else old.getD l 0)
      .ok ({ st1 with v := st1.v.set i.dst new }, [])
    else
      match outWrites p (p.streams.getD (i.dst - 16) (VStream.ofNat 0)) mask elts act i.mz vals with
      | .error e => .error e
      | .ok ws => .ok (st1, ws.map (fun x => (i.dst, x.1, x.2)))

/-- The instructions of one step in program order. -/
def runInsList (p : VProg) (mask : Nat) (ins : List (List Nat)) (elts : List (Nat × Nat)) :
    Nat → List VIns → VSt → List (Nat × Nat × List Byte) → Except (BitVec 16) (VSt × List (Nat × Nat × List Byte))
  | _, [], st, ws => .ok (st, ws)
  | k, i :: rest, st, ws =>
    match runIns p mask ins elts k i st with
    | .error e => .error e
    | .ok (st1, w1) => runInsList p mask ins elts (k + 1) rest st1 (ws ++ w1)

/-- The elements of each step (04 R105). -/
def vecSteps (p : VProg) : List (List (Nat × Nat)) :=
  let e := vecElems p.width
  if p.rowstep then
    (List.range p.rows).flatMap (fun r =>
      (List.range ((p.cols + e - 1) / e)).map (fun k =>
        (List.range (min e (p.cols - k * e))).map (fun l => (r, k * e + l))))
  else
    let n := p.rows * p.cols
    (List.range ((n + e - 1) / e)).map (fun k =>
      (List.range (min e (n - k * e))).map (fun l => ((k * e + l) / p.cols, (k * e + l) % p.cols)))

/-- The running values at the start of a row (04 R117). -/
def segStart (p : VProg) : List Nat :=
  p.ins.map (fun i => if i.op = 0x31 then redIdentity (vecBits p.width) i.ty i.imm else 0)

/-- The steps of a command; the writes of a step land after its reads, higher streams last (04 R113). -/
def runSteps (p : VProg) (t mask : Nat) (accs : List AccSet) :
    List (List (Nat × Nat)) → VSt → State → List (Nat × Nat) → Except (BitVec 16) (VSt × State × List (Nat × Nat))
  | [], st, s, wr => .ok (st, s, wr)
  | elts :: rest, st, s, wr =>
    let tail := (List.range (vecElems p.width)).map (fun l => decide (l < elts.length))
    let stm := { st with m := st.m.set 0 tail }
    let st0 := if p.rowstep && (elts.headD (0, 0)).2 == 0 then { stm with seg := segStart p } else stm
    match inputLanes s t mask accs p.width elts p.streams with
    | .error e => .error e
    | .ok (ins, fl) =>
      match runInsList p mask ins elts 0 p.ins { st0 with fl := st0.fl ||| fl } [] with
      | .error e => .error e
      | .ok (st1, ws) =>
        let ordered := (List.range 8).flatMap (fun k => ws.filter (fun x => x.1 == 16 + k))
        let s1 := ordered.foldl (fun s x => putBytes s (spKey t x.2.1) x.2.2) s
        runSteps p t mask accs rest st1 s1 (wr ++ ordered.map (fun x => (spKey t x.2.1, x.2.2.length)))

/-- The outcome of a VEC command: the state, VSTAT, A0, A1, CMDFLAGS and the ranges written. -/
structure VResult where
  s     : State
  vstat : Nat
  a0    : Nat
  a1    : Nat
  fl    : Nat
  slots : Nat × Nat
  ctrl  : Nat
  sets  : List Nat
  wrote : List (Nat × Nat)

/-- The scratchpad ranges that a VEC's program names as outputs, in lanes that its masks may leave out (03 R91). -/
def vecTargets (s : State) (t : Nat) (cmd : List Byte) : List (Nat × Nat) :=
  let h := leField cmd 0 4
  let at_ := fieldOf (leField cmd 4 4) 0 16 * 32
  let nins := leNat (getBytes s (spKey t at_) 1)
  let p := VProg.ofBytes (fieldOf h 17 2) (bitAt h 19) (fieldOf (leField cmd 8 4) 0 16) (fieldOf (leField cmd 8 4) 16 16)
    (getBytes s (spKey t at_) (288 + 8 * nins))
  (if bitAt p.ctrl 4 then [(spKey t p.result, 32)] else []) ++
  (List.range 8).flatMap (fun k =>
    match p.streams[k]? with
    | none => []
    | some x =>
      if !(x.kind == 3 || x.kind == 4) || !p.ins.any (fun i => i.dst == 16 + k) then []
      else (List.range p.rows).flatMap (fun r => (List.range (if x.kind = 4 then 1 else p.cols)).filterMap (fun c =>
        (x.addr (2 ^ 24 - 1) r c).map (fun a => (spKey t a, typeBytes x.ty)))))

/-- One VEC command (04 R104 to R128): `cmd` is its 32 bytes, `mask` the bank mask, `nslots` the partition's NSLOTS. -/
def runVec (s : State) (t mask nslots vstat : Nat) (accs : List AccSet) (cmd : List Byte) : Except (BitVec 16) VResult :=
  let h := leField cmd 0 4
  let pspa := fieldOf (leField cmd 4 4) 0 16
  let rows := fieldOf (leField cmd 8 4) 0 16
  let cols := fieldOf (leField cmd 8 4) 16 16
  if fieldOf h 21 11 != 0 || fieldOf (leField cmd 4 4) 16 16 != 0 || leField cmd 12 20 != 0 || rows = 0 || cols = 0 then
    .error St.cmdInvalid
  else if !spRangeOk mask (pspa * 32) 288 then .error St.scratchBounds
  else
    let nins := leNat (getBytes s (spKey t (pspa * 32)) 1)
    if nins = 0 || 64 < nins then .error St.cmdInvalid
    else if !spRangeOk mask (pspa * 32) (288 + 8 * nins) then .error St.scratchBounds
    else
      let b := getBytes s (spKey t (pspa * 32)) (288 + 8 * nins)
      let p := VProg.ofBytes (fieldOf h 17 2) (bitAt h 19) rows cols b
      if poisoned s (spKey t (pspa * 32)) (288 + 8 * nins) then .error St.uncorrected else
      let post0 := bitAt p.ctrl 0
      let post1 := bitAt p.ctrl 1
      let cont := bitAt p.ctrl 2 || bitAt p.ctrl 3
      if !p.ok b (accs.map (·.tag)) || (post0 && nslots ≤ p.slot0) || (post1 && nslots ≤ p.slot1) then .error St.cmdInvalid
      else if (cont || bitAt p.ctrl 4) && !spRangeOk mask p.result 32 then .error St.scratchBounds
      else if cont && poisoned s (spKey t p.result) 32 then .error St.uncorrected
      else
        let rec_ := getBytes s (spKey t p.result) 32
        let v0 := if bitAt h 20 then 0 else vstat
        let n := vecElems p.width
        let st0 : VSt := ⟨List.replicate 16 (List.replicate n 0), List.replicate 8 (List.replicate n false),
          (if bitAt p.ctrl 2 then [leField rec_ 0 4, leField rec_ 4 4] else [0, 0]),
          (if bitAt p.ctrl 3 then leField rec_ 8 8 else 0), 0, segStart p⟩
        match runSteps p t mask accs (vecSteps p) st0 s [] with
        | .error e => .error e
        | .ok (st, s1, wr) =>
          let vs := v0 ||| st.fl
          let s2 := if bitAt p.ctrl 4 then
            putBytes s1 (spKey t p.result) (layoutBytes 32 [(0, 4, st.a.getD 0 0), (4, 4, st.a.getD 1 0), (8, 8, st.d0),
              (16, 4, vs), (20, 4, st.fl)]) else s1
          .ok ⟨s2, vs, st.a.getD 0 0, st.a.getD 1 0, st.fl, (p.slot0, p.slot1), p.ctrl, p.setsRead,
            wr ++ (if bitAt p.ctrl 4 then [(spKey t p.result, 32)] else [])⟩

end Sys2Proof.Machine
end

