-- ==== Sys2Proof/Machine/TileFmt.lean ====
section
/-! DEFINITION. The formats of the tile commands, how a stream moves on, and the bytes that its commands are to write (03 R91, R94 to R98, Tables
4 to 11). -/

namespace Sys2Proof.Machine

/-- Fields of a TILE body (10 Table 9). -/
def tileMask (d : Desc) : Nat := d.fld 41 3
def tileStream (d : Desc) : Nat := d.fld 44 6
def tileCmds (d : Desc) : Nat := d.fld 50 3 % 2 ^ 20
def tileParam (d : Desc) : Nat := d.fld 54 6

/-- The tiles that run a descriptor, in ascending ID. -/
def tilesOn (s : State) (r : Nat) (seq : BitVec 32) : List Nat :=
  (s.tiles.filter (fun e => e.2.running == some (r, seq))).map (·.1)

/-- The 8 tiles of a tile's group. -/
def groupTiles (t : Nat) : List Nat := (List.range 8).map (fun j => t / 8 * 8 + j)

/-- Opcodes of Table 5 (03). -/
def tileOpcodes : List Nat := [0x00, 0x01, 0x02, 0x03, 0x04, 0x05, 0x06, 0x10, 0x11, 0x12, 0x13, 0x20, 0x30, 0x31]

/-- The reserved bits of a command header from bit `lo` up, and its bytes 4 to 31 outside a list of used fields, are 0;
each used field is (byte, length in bytes). -/
def reservedZero (b : List Byte) (hdrFrom : Nat) (used : List (Nat × Nat)) : Bool :=
  fieldOf (leField b 0 4) hdrFrom (32 - hdrFrom) == 0 &&
    leNat ((used.foldl (fun bs u => patchBytes bs u.1 (List.replicate u.2 0#8)) b).drop 4) == 0

/-! ### Loops -/

/-- The end of every loop body that ends at this position; the position where dispatch goes on, and whether it goes back to a body that is fetched
again (03 R98). -/
def loopExit : List LoopFrame → Nat → List LoopFrame × Nat × Bool
  | [], pos => ([], pos, false)
  | f :: fs, pos =>
    if pos = f.last then
      (if 1 < f.left then ({ f with left := f.left - 1 } :: fs, f.first, !f.short) else loopExit fs pos)
    else (f :: fs, pos, false)

/-- A tile whose dispatch goes on to the next command, with the loop bodies that end there; a body too long for the loop buffer is fetched
again (03 R98). -/
def Tile.onward (x : Tile) : Tile :=
  let e := loopExit x.loops (x.pos + 1)
  { x with loops := e.1, pos := e.2.1, burst := if e.2.2 then (0, []) else x.burst }

/-- The LOOP command opens its body (03 R98). -/
def Tile.openLoop (x : Tile) (body count : Nat) : Tile :=
  { x with loops := ⟨x.pos + 1, x.pos + 1 + body, count, decide (body ≤ 64), []⟩ :: x.loops, pos := x.pos + 1 }

/-- BS0 to BS6 loaded from 56 bytes (03 Table 10). -/
def Tile.loadBases (x : Tile) (bs : List Byte) : Tile :=
  { x with bases := (List.range 7).map (fun i => leField bs (8 * i) 8) ++ [x.bases.getD 7 0] }

/-- An accumulator set of a tile. -/
def accOf (x : Tile) (k : Nat) : AccSet := x.accs.getD k AccSet.init

/-- A tile with an accumulator set replaced. -/
def setAcc (x : Tile) (k : Nat) (a : AccSet) : Tile := { x with accs := x.accs.set k a }

/-- The accumulator tag of an operand pair, for the half plane (03 Table 2) and the double plane (03 R68). -/
def pairTag (double : Bool) (a b : Nat) : Option Nat :=
  if double then (if (a = 5 || a = 6) && (b = 5 || b = 6) then some 2 else none)
  else if a = 0 && b = 0 then some 0
  else if a = 1 && b = 1 then some 0
  else if (a = 2 || a = 3) && (b = 2 || b = 3) then some 0
  else if a = 4 && b = 4 then some 1
  else none

/-- Element size of an accumulator tag. -/
def tagBytes (tag : Nat) : Nat := if tag = 2 then 8 else 4

/-- The fields of a DMA_IN or DMA_OUT (03 Table 8). -/
structure DmaCmd where
  slot : Nat
  mode : Nat
  esize : Nat
  slen : Nat
  mcast : Bool
  spa : Nat
  spitch : Nat
  offset : Int
  rowBytes : Nat
  rows : Nat
  mstride : Int
  deriving DecidableEq, Repr

/-- The fields of a DMA command from its bytes. -/
def DmaCmd.ofBytes (b : List Byte) : DmaCmd :=
  let h := leField b 0 4
  ⟨fieldOf h 17 3, fieldOf h 20 2, fieldOf h 22 2, fieldOf h 24 1, bitAt h 25, leField b 4 2, leField b 6 2,
    toSigned 48 (leField b 8 6), leField b 16 4, leField b 20 4, toSigned 48 (leField b 24 6)⟩

/-- Transpose slice length in elements (03 R95). -/
def DmaCmd.sliceLen (c : DmaCmd) : Nat := if c.slen = 0 then 48 else 24

/-- The fields are legal for DMA_IN or DMA_OUT (03 R94, R95, R97, Table 8). -/
def DmaCmd.ok (c : DmaCmd) (out : Bool) (b : List Byte) : Bool :=
  let tr := !out && c.mode == 1
  let esz := 2 ^ c.esize
  reservedZero b 26 [(4, 4), (8, 6), (16, 4), (20, 4), (24, 6)] && decide (1 ≤ c.rowBytes) && decide (c.rowBytes ≤ 1572864) &&
  decide (1 ≤ c.rows) && decide (c.rows ≤ 1572864) && decide (c.mode ≤ if out then 2 else 1) && (tr || (c.esize == 0 && c.slen == 0)) &&
  (!out || !c.mcast) && (!tr || (decide (c.rows ≤ c.sliceLen) && decide (c.rowBytes % esz = 0))) &&
  (!out || c.mode == 0 || decide (c.rowBytes % (if c.mode = 1 then 4 else 8) = 0))

/-- Scratchpad byte address of row `r` (03 Table 8). -/
def DmaCmd.rowAddr (c : DmaCmd) (r : Nat) : Nat :=
  c.spa * 32 + (if c.spitch = 0 then r * c.rowBytes else r * c.spitch * 32)

/-- Memory address of row `r` from a base (03 R85). -/
def DmaCmd.memAddr (c : DmaCmd) (base r : Nat) : Nat := (((base : Int) + c.offset + r * c.mstride) % (2 ^ 64 : Nat)).toNat

/-- Every scratchpad byte that the command touches lies in enabled banks (03 R84). -/
def DmaCmd.boundsOk (c : DmaCmd) (out : Bool) (mask : Nat) : Bool :=
  if !out && c.mode = 1 then spRangeOk mask (c.spa * 32) (c.rowBytes * c.sliceLen)
  else (List.range c.rows).all (fun r => spRangeOk mask (c.rowAddr r) c.rowBytes)

/-! ### The bytes that a command is to write -/

/-- Scratchpad ranges and memory ranges that a command writes, the tile being as it is at its dispatch (03 R75, R85, R95, R97, 04 R112). -/
def cmdTargets (s : State) (t : Nat) (x : Tile) (b : List Byte) : List (Nat × Nat) × List (Nat × Nat) :=
  let w1 := leField b 4 4
  let w3 := leField b 12 4
  let c := DmaCmd.ofBytes b
  let base := x.bases.getD c.slot 0
  match fieldOf (leField b 0 4) 0 8 with
  | 0x13 =>
    let esz := tagBytes (accOf x (fieldOf (leField b 0 4) 17 2)).tag
    ((List.range (fieldOf w3 0 6)).map (fun i => (spKey t ((fieldOf w1 0 16 + i * fieldOf w1 16 16) * 32), fieldOf w3 8 6 * esz)), [])
  | 0x20 => (vecTargets s t b, [])
  | 0x30 => (if c.mode = 1 then [(spKey t (c.spa * 32), c.rowBytes * c.sliceLen)]
      else (List.range c.rows).map (fun r => (spKey t (c.rowAddr r), c.rowBytes)), [])
  | 0x31 => ([], (List.range c.rows).map (fun r => (c.memAddr base r, c.rowBytes)))
  | _ => ([], [])

/-- The byte ranges of the store behind address ranges of a partition, as far as they translate. -/
def storeRanges (s : State) (p : Nat) (l : List (Nat × Nat)) : List (Nat × Nat) :=
  (l.flatMap (fun x => sectorsOf x.1 x.2)).filterMap (fun x => (xlateMem s p .w x.1).map (fun k => (k, x.2)))

/-- The ranges of the store that a command of partition `p` writes. -/
def cmdRanges (s : State) (p t : Nat) (x : Tile) (b : List Byte) : List (Nat × Nat) :=
  (cmdTargets s t x b).1 ++ storeRanges s p (cmdTargets s t x b).2

/-- What a command changes of the sequencer and of the tags of the sets, for the walk below. -/
def Tile.after (s : State) (d : Desc) (x : Tile) (b : List Byte) : Tile :=
  let h := leField b 0 4
  let k := fieldOf h 17 3
  let retag := fun (o : Option Nat) => match o with
    | some tag => setAcc x (fieldOf h 17 2) { accOf x (fieldOf h 17 2) with tag := tag }
    | none => x
  match fieldOf h 0 8 with
  | 0x02 => x.openLoop (fieldOf h 17 8) (leField b 4 4)
  | 0x03 => ({ x with bases := x.bases.set k (leField b 8 8) } : Tile).onward
  | 0x04 => ({ x with bases := x.bases.set k ((x.bases.getD k 0 + leField b 8 8) % 2 ^ 64) } : Tile).onward
  | 0x05 => (match readVa s d.part (x.bases.getD 7 0) 56 with
    | .ok bs => x.loadBases bs
    | .error _ => x).onward
  | 0x10 => (retag (if bitAt h 19 then pairTag false (fieldOf h 20 3) (fieldOf h 23 3) else none)).onward
  | 0x11 => (retag (if bitAt h 19 then pairTag true (fieldOf h 20 3) (fieldOf h 23 3) else none)).onward
  | 0x12 => (retag (some (fieldOf h 19 2))).onward
  | _ => x.onward

/-- The ranges that the commands which a tile has not dispatched are to write, with the bases, programs and addresses as they stand; the walk
ends at END, at a command that cannot be read and at the end of the stream (03 R91; log entry 40). The bound exceeds the runs of any stream. -/
def streamTargets (s : State) (d : Desc) (t : Nat) : Nat → Tile → List (Nat × Nat) → List (Nat × Nat)
  | 0, _, acc => acc
  | n + 1, x, acc =>
    if tileCmds d ≤ x.pos then acc
    else match readVa s d.part (tileStream d + 32 * x.pos) 32 with
      | .error _ => acc
      | .ok b =>
        if fieldOf (leField b 0 4) 0 8 = 1 || !tileOpcodes.contains (fieldOf (leField b 0 4) 0 8) then acc
        else streamTargets s d t n (x.after s d b) (acc ++ cmdRanges s d.part t x b)

/-- A set whose contents, tag and flags are free values (03 R91). -/
def AccSet.free (c : Nat) : AccSet :=
  let v := fun i => (Config.freeValue (c + i)).toNat
  let tag := v 0 % 3
  { tag := tag
    elts := (List.range (if tag = 2 then 1152 else 2304)).foldl (fun m i => sset (fun _ => 0) m i (v (i + 4) % 2 ^ (8 * tagBytes tag))) []
    inv := bitAt (v 1) 0, ovf := bitAt (v 2) 0, sat := bitAt (v 3) 0 }

/-- Sets of a tile take free values. -/
def freeSets (s : State) (t : Nat) (ks : List Nat) : State :=
  ks.foldl (fun s k => { setTile s t (setAcc (tileOf s t) k (AccSet.free s.freeCount)) with freeCount := s.freeCount + 2308 }) s

end Sys2Proof.Machine
end

