-- ==== Sys2Proof/Machine/Ops.lean ====
section
/-! DEFINITION. The shared operations: interrupts, error records, completion records, waits, obituaries, partition
reset, and the start and end of a descriptor (01 R14 to R25, 10 R313 to R340, 14 R443 to R461). -/

namespace Sys2Proof.Machine

/-- Raise an MSI-X vector, if the partition's link is up and its function is not in D3hot: the message goes out, or the pending bit is set
while the vector, the function or MSI-X as a whole is masked (10 R333; log entry 39). -/
def raiseVector (s : State) (p v : Nat) : State :=
  if !linkUsable s p then s
  else match partSlot s p with
  | none => s
  | some sl =>
    let x := slotOf s sl
    if x.msixOn && !x.fmask && x.clear.contains v then { s with msix := s.msix ++ [(p, v)] }
    else setSlot s sl { x with pend := if x.pend.contains v then x.pend else x.pend ++ [v] }

/-- Raise a ring's vector and disarm the ring; a signal that cannot be raised is dropped (10 R333). -/
def ringRaise (s : State) (r p : Nat) : State :=
  let g := ringOf s r
  if linkUsable s p then
    setRing (raiseVector s p (ofld s (Reg.rngCfg + 64 * r) 16 11)) r { g with unsignalled := 0, armed := false }
  else setRing s r { g with unsignalled := 0 }

/-- Raise when the ring is armed and holds MOD_COUNT unsignalled signalling records (10 R333). -/
def ringPoll (s : State) (r p : Nat) : State :=
  let g := ringOf s r
  if g.armed && decide (0 < g.unsignalled) && decide (ofld s (Reg.rngCfg + 64 * r) 48 8 ≤ max 1 g.unsignalled) then
    ringRaise s r p else s

/-! ### Error records -/

/-- Units of each type on a die, by type (14 Table 2). -/
def perDie (ty : Nat) : Nat := match ty with | 1 => 168 | 5 => 4 | 7 => 32 | 8 => 2 | 9 => 48 | 10 => 8 | _ => 1

/-- The UNIT field of a unit: its die in [15:12] and its logical index within the type (14 Table 4; log entry 26). -/
def unitField (ty ix : Nat) : Nat := ix / perDie ty * 4096 + ix

/-- The UNIT field of a logical tile. -/
def tileUnit (t : Nat) : Nat := unitField 1 t

/-- The physical tile of its die that a logical tile is mapped to (03 R58). -/
def tilePhys (s : State) (t : Nat) : Nat :=
  ofld s (Reg.tilRemap + 0x100 * tileDie t + 8 * (t % 168 / 8)) (8 * (t % 8)) 8

/-- The physical core of its die that a logical core is mapped to (08 R234). -/
def corePhys (s : State) (h : Nat) : Nat := sget (fun k => k % 48) s.coreMap h

/-- PHYS of a record: the physical index within the type; only tiles and cores are ever mapped to spares (14 Table 4; log entry 26). -/
def unitPhys (s : State) (ty ix : Nat) : Nat :=
  if ty = 1 then 176 * tileDie ix + tilePhys s ix else if ty = 9 then 50 * (ix / 48) + corePhys s ix else ix

/-- The 64 bytes of an error record (14 R455). -/
def errBytes (e : ErrEvent) (phys part count time dropped : Nat) (phase : Bool) : List Byte :=
  layoutBytes 64 [(0, 2, e.kind), (2, 1, e.cls), (3, 1, e.unitType), (4, 2, e.unit), (6, 2, phys), (8, 1, part),
    (10, 2, e.ring), (12, 4, e.seq.toNat), (16, 2, e.status.toNat), (18, 2, satNat 16 count), (20, 8, e.addr.toNat),
    (28, 8, time), (36, 24, leNat (e.detail.take 24)), (60, 2, satNat 16 dropped), (63, 1, b2n phase)]

/-- PHYS in the Owner's copy of a record. -/
def recordPhys (s : State) (e : ErrEvent) : Nat := if e.unitType = 0 then e.phys else unitPhys s e.unitType (e.unit % 4096)

/-- Error ring bookkeeping of ring `w`, 8 being the Owner's. -/
def errRingOf (s : State) (w : Nat) : ErrRing := sget (fun _ => ErrRing.mk 0 none) s.errRings w

/-- The state with an error ring's bookkeeping replaced. -/
def setErrRing (s : State) (w : Nat) (v : ErrRing) : State :=
  { s with errRings := sset (fun _ => ErrRing.mk 0 none) s.errRings w v }

/-- A record dropped at an error ring (14 R459). -/
def errDrop (s : State) (w : Nat) : State :=
  let d := rfld s (pkey w Reg.errRingDrop) 0 32
  let s1 := setReg s (pkey w Reg.errRingDrop) (satNat 32 (d + 1) + 2 ^ 32)
  setErrRing s1 w { errRingOf s1 w with since := (errRingOf s1 w).since + 1 }

/-- The error ring's vector: at once for CONTAINED and above, at most once each 1 ms otherwise (14 ERR_RING). -/
def errSignal (s : State) (w cls : Nat) : State :=
  if w < 8 then
    let due := decide (2 ≤ cls) || (match (errRingOf s w).lastIrq with
      | none => true
      | some t => decide (t + 100000 ≤ s.tick))
    if due then
      setErrRing (raiseVector s w (rfld s (pkey w (Reg.errRing + 8)) 16 11)) w { errRingOf s w with lastIrq := some s.tick }
    else s
  else s

/-- The die that writes the records of an error ring (log entry 36). -/
def errDie (s : State) (w : Nat) : Option Nat := some (if w = 8 then 8 else 8 + partPdie s w)

/-- Write one record to error ring `w`: the state, and whether it was written (14 R454, R459). -/
def errWrite (s : State) (w : Nat) (e : ErrEvent) (count time : Nat) : State × Bool :=
  let cfg := reg s (pkey w (Reg.errRing + 8))
  if !bitAt cfg 9 then (s, false)
  else
    let n := 2 ^ fieldOf cfg 0 5
    let tail := rfld s (pkey w Reg.errRingState) 0 32
    let head := rfld s (pkey w Reg.errRingState) 32 32
    if n ≤ (tail + 2 ^ 32 - head) % 2 ^ 32 then (errDrop s w, false)
    else
      let a := rfld s (pkey w Reg.errRing) 6 42 * 64 + 64 * (tail % n)
      let part := if w = 8 then e.part.getD 0xF else w
      let phys := if w = 8 then recordPhys s e else 0xFFFF
      let bytes := errBytes e phys part count time (errRingOf s w).since (tail / n % 2 == 0)
      match writeVia s (if w = 8 then xlateOwner s else xlateMem s w .w) a bytes (errDie s w) with
      | .error _ => (errDrop s w, false)
      | .ok s1 =>
        let s2 := setRfld s1 (pkey w Reg.errRingState) 0 32 (tail + 1)
        (errSignal (setErrRing s2 w { errRingOf s2 w with since := 0 }) w e.cls, true)

/-- Kinds that the flash log keeps whatever their class (14 R461). -/
def loggedKind (k : Nat) : Bool := [0x09, 0x0A, 0x0C, 0x0D, 0x13].contains k

/-- Append an entry to the flash log of 16,384 entries; a full log drops its oldest (14 R461). -/
def logAppend (s : State) (entry : List Byte) : State :=
  let l := s.flashLog ++ [entry]
  { s with flashLog := if 16384 < l.length then l.drop 1 else l }

/-- What a partition's copy of a record says: of a PRECEDENCE record it names no beneficiary (14 R457, 15 R502). -/
def partCopy (e : ErrEvent) : ErrEvent := if e.kind = 0x0F then { e with detail := patchBytes e.detail 3 [0x0F#8] } else e

/-- A record of every record to the Owner ring and, when it concerns a partition, to that partition's ring; the
flag is whether the partition's copy, or for no partition the Owner's, was written (14 R456, R457, R461). -/
def errPost (s : State) (e : ErrEvent) (count time : Nat) : State × Bool :=
  let s0 := if 3 ≤ e.cls || loggedKind e.kind then
    logAppend s (errBytes e (recordPhys s e) (e.part.getD 0xF) count time 0 false) else s
  let (s1, w1) := errWrite s0 8 e count time
  match e.part with
  | some p => if p < 8 then errWrite s1 p (partCopy e) count time else (s1, w1)
  | none => (s1, w1)

/-- CORRECTED and EVENT records merge, but for PORT_EVENT, SPARE_IN, WITHDRAWN, SIGNATURE and HEALTH (14 R458). -/
def merges (e : ErrEvent) : Bool := decide (e.cls ≤ 1) && !([0x07, 0x09, 0x0A, 0x0B, 0x13].contains e.kind)

/-- Report an event: write its record, or add it to the open merge window of its kind and unit (14 R455 to R458). -/
def errEmit (s : State) (e : ErrEvent) : State × Bool :=
  if merges e then
    match s.windows.find? (fun w => w.kind == e.kind && w.utype == e.unitType && w.unit == e.unit) with
    | some _ =>
      ({ s with windows := s.windows.map (fun w =>
          if w.kind == e.kind && w.utype == e.unitType && w.unit == e.unit then
            { w with count := w.count + 1, first := some (w.first.getD (e, stamp s 18)) } else w) }, false)
    | none => errPost { s with windows := s.windows ++ [⟨e.kind, e.unitType, e.unit, 0, none⟩] } e 1 (stamp s 18)
  else errPost s e 1 (stamp s 18)

/-- An error event with no descriptor. -/
def mkErr (kind cls utype unit : Nat) (part : Option Nat) (addr : Nat) (detail : List Byte) : ErrEvent :=
  ⟨kind, cls, utype, unit, 0, part, 0, 0, false, 0, BitVec.ofNat 64 addr, detail, true⟩

/-- Report an event with no descriptor. -/
def report (s : State) (kind cls utype unit : Nat) (part : Option Nat) (addr : Nat) (detail : List Byte) : State :=
  (errEmit s (mkErr kind cls utype unit part addr detail)).1

/-! ### Completion records -/

/-- The 32 bytes of a completion record (10 R331). -/
def cqBytes (r : Nat) (d : Desc) (st : BitVec 16) (detail time : Nat) (phase errec : Bool) : List Byte :=
  layoutBytes 32 [(0, 4, d.seq.toNat), (4, 2, st.toNat), (6, 1, d.engine), (8, 4, d.fld 4 4), (12, 2, r),
    (16, 8, detail), (24, 7, time), (31, 1, b2n phase + 2 * b2n errec)]

/-- A ring without a descriptor: the descriptor has its record, and an unsatisfying status is kept (01 R17). -/
def Ring.retire (g : Ring) (d : Desc) (st : BitVec 16) : Ring :=
  { g with
    descs := g.descs.filter (fun x => x.seq != d.seq)
    bad := if satisfies st || 2 ^ 31 ≤ (d.seq - g.base).toNat then g.bad else g.bad ++ [d.seq] }

/-- A tile that no longer runs a stream; scratchpad, sets and flags stay (03 R83). -/
def Tile.idle (t : Tile) : Tile :=
  { t with
    running := none, burst := (0, []), loops := [], bar := none, qmat := [], qvec := [], qdma := [], cmds := 0
    ended := false, stopped := false, failed := none }

/-- The tiles of a descriptor stop running its stream. -/
def releaseTiles (s : State) (r : Nat) (seq : BitVec 32) : State :=
  { s with
    tiles := s.tiles.foldl (fun m e => sset (fun _ => Tile.init) m e.1
      (if e.2.running = some (r, seq) then e.2.idle else e.2)) s.tiles
    posts := s.posts.filter (fun q => !(q.ring == r && q.seq == seq)) }

/-- A disabling ring becomes disabled once every descriptor before TAIL has its record (10 R324). -/
def disableCheck (s : State) (r : Nat) : State :=
  let g := ringOf s r
  if g.disabling && g.descs.isEmpty && g.fetch == g.tail then
    setRing s r { g with enabled := false, disabling := false, reads := [], abortLeft := 0 } else s

/-- The CQ slot of a ring's next record (10 R321). -/
def cqSlot (s : State) (r : Nat) : Nat :=
  ofld s (Reg.rngCqBase + 64 * r) 12 36 * 4096 + 32 * ((ringOf s r).comp.toNat % ringEntries s r)

/-- The record of a descriptor written to its CQ slot; none when it cannot be written (10 R321, R322, R565). -/
def writeRecord (s : State) (r : Nat) (d : Desc) (st : BitVec 16) (detail : Nat) (errec : Bool) : Option State :=
  let g := ringOf s r
  let n := ringEntries s r
  match writeVa s d.part (cqSlot s r) (cqBytes r d st detail (stamp s (18 + partPdie s d.part)) (g.comp.toNat / n % 2 == 0) errec) with
  | .error _ => none
  | .ok s1 =>
    let s2 := releaseTiles (setRing s1 r { g.retire d st with comp := g.comp + 1 }) r d.seq
    let g2 := ringOf s2 r
    let s3 := if d.irq || bitAt (reg s (okey (Reg.rngCfg + 64 * r))) 10 || !satisfies st then
      ringPoll (setRing s2 r { g2 with unsignalled := g2.unsignalled + 1 }) r d.part else s2
    some (disableCheck s3 r)

/-- The rings that partition `p` holds, with their states. -/
def partRings (s : State) (p : Nat) : List Nat := (s.rings.map (·.1)).filter (fun r => ringPart s r == some p)

/-- A descriptor that gets no record leaves its ring; it has failed, so that waits on it do not hold (10 R336 case 3, R565). -/
def dropDesc (s : State) (r : Nat) (d : Desc) (st : BitVec 16) : State := releaseTiles (setRing s r ((ringOf s r).retire d st)) r d.seq

/-- The records of a partition reset: one for each fetched descriptor whose CQ is reachable (10 R340, R565). The spec gives the records no
order; the model takes the rings in ascending number and each ring in sequence order (log entry 33, DESIGN CHOICE). -/
def resetRecords (r : Nat) (st : BitVec 16) : List Desc → State → State
  | [], s => s
  | d :: ds, s =>
    match writeRecord s r d st 0 d.errec with
    | some s1 => resetRecords r st ds s1
    | none => resetRecords r st ds (dropDesc s r d st)

/-- A ring disabled by a reset: counters stay, nothing is in flight (10 R340). -/
def Ring.off (g : Ring) : Ring :=
  { g with enabled := false, disabling := false, reads := [], descs := [], abortLeft := 0, unsignalled := 0, armed := true }

/-- The indices of the groups a partition holds. -/
def partGroups (s : State) (p : Nat) : List Nat := indicesWhere 168 (fun g => holdsGroup s p g)

/-- A tile group's state. -/
def groupOf (s : State) (g : Nat) : Group := sget (fun _ => Group.init) s.groups g

/-- The state with a tile group replaced. -/
def setGroup (s : State) (g : Nat) (v : Group) : State := { s with groups := sset (fun _ => Group.init) s.groups g v }

/-- Start the zeroing of tile groups (03 R83). -/
def startZeroing (s : State) (gs : List Nat) : State :=
  gs.foldl (fun s g => setGroup s g { groupOf s g with zeroing := true }) s

/-- Key of a partition's slot, and of its open record on die `k` (05 R141). -/
def slotKey (p slot : Nat) : Nat := p * 4096 + slot
def openKey (k p slot : Nat) : Nat := (k * 8 + p) * 4096 + slot

/-- Every SCU slot of a partition and its open step cleared (05 R156). -/
def scuClear (s : State) (p : Nat) : State :=
  let s1 := setReg s (pkey p Reg.scuStep) 0
  { s1 with
    scuSlots := sclear s1.scuSlots (slotKey p 0) (slotKey (p + 1) 0)
    scuOpen := (List.range 8).foldl (fun m k => sclear m (openKey k p 0) (openKey k (p + 1) 0)) s1.scuOpen
    scuClosed := sset (fun _ => []) s1.scuClosed p [] }

/-- Free values put over byte ranges of the store (03 R91; log entry 2). -/
def scramble (s : State) (ranges : List (Nat × Nat)) : State :=
  ranges.foldl (fun s r => { putBytes s r.1 (freeBytes s.freeCount r.2) with freeCount := s.freeCount + r.2 }) s

/-- A write whose failure changes nothing. -/
def tryWrite (s : State) (p a : Nat) (bs : List Byte) : State := match writeVa s p a bs with | .ok t => t | .error _ => s

/-- What a tile-work descriptor that fails or is stopped leaves behind on one of its tiles: the sets that its incomplete matrix commands write
become free values; the ranges that its undispatched commands were to write join the list (03 R91, R92). -/
def tileCut (d : Desc) (x : State × List (Nat × Nat)) (t : Nat) : State × List (Nat × Nat) :=
  let y := tileOf x.1 t
  (freeSets x.1 t ((y.qmat.filter (·.writes)).map (·.set)).eraseDups, x.2 ++ if y.ended then [] else streamTargets x.1 d t (2 ^ 160) y [])

/-- The bytes that a stopped tile-work descriptor has written or was to write hold free values (03 R91, R92). -/
def tileScramble (s : State) (r : Nat) (d : Desc) (wrote : List (Nat × Nat)) : State :=
  let (s1, l) := (tilesOn s r d.seq).foldl (tileCut d) (s, wrote)
  scramble s1 l

/-- A tile after a solve used it: banks 0 to 15 and the accumulator sets hold free values (06 R207). -/
def scrambleTile (s : State) (t : Nat) : State := freeSets (scramble s [(spKey t 0, 0x100000)]) t [0, 1, 2, 3]

/-- The groups of a mask, in ascending order. -/
def maskGroups (m : Nat) : List Nat := indicesWhere 168 (fun g => bitAt m g)

/-- The tiles of a mask in ascending logical ID; a tile's rank is its place in the list (03 R78). -/
def maskTiles (m : Nat) : List Nat := (maskGroups m).flatMap (fun g => (List.range 8).map (fun j => 8 * g + j))

/-- A running descriptor that an abort, a reset or a loss of supply stops: what its tiles' commands wrote and the rows not reported done
are undefined, the dies of a gather that still ran post, and its report is written (03 R91, R92, 06 Table 13, 07 R219, R228). -/
def workStopped (s : State) (r : Nat) (d : Desc) (st : BitVec 16) : State :=
  match d.work with
  | .tile wrote => tileScramble s r d wrote
  | .fxe w =>
    let s1 := scramble s (storeRanges s d.part (fxeTargets s d.part w))
    let s2 := if w.cb 96 8 = 0 then s1 else tryWrite s1 d.part (w.cb 96 8 + 8 * w.parity) (leBytes 8 0)
    let s3 := if w.halted then s2 else { s2 with posts := s2.posts ++ fxePosts r d w w.busyDies }
    tryWrite s3 d.part (w.cb 104 8) (fxeReport { w with fault := none } st false)
  | .opt w => scramble s w.wrote
  | .sie w =>
    let s1 := (maskTiles w.rgroups).foldl scrambleTile (scramble s (storeRanges s d.part (sieOwnWork w.inp true)))
    tryWrite s1 d.part (leField w.inp.ctrl 128 8) (patchBytes w.rep 0 (leBytes 2 st.toNat))
  | _ => s

/-- A partition's SNAP protection. -/
def snapOf (s : State) (p : Nat) : Option Snap := sget (fun _ => none) s.snaps p

/-- The state with a partition's SNAP protection replaced. -/
def setSnap (s : State) (p : Nat) (v : Option Snap) : State := { s with snaps := sset (fun _ => none) s.snaps p v }

/-- A write that stalled is performed; one that fails changes nothing. -/
def resumeWrite (p : Nat) (s : State) (w : Nat × List Byte) : State :=
  match writeVa s p w.1 w.2 with
  | .ok s1 => s1
  | .error _ => s

/-- All protection ends and stalled writes proceed (14 R479). -/
def snapEnd (s : State) (p : Nat) : State :=
  match snapOf s p with
  | none => s
  | some w => w.stalled.foldl (resumeWrite p) (setSnap s p none)

/-- What a partition's engines hold beside its rings is discarded: Vat requests not issued, unacknowledged requests, whose
pairs resynchronise, its Mordant operations, the operations of its QPs, the posts that no SCU has accepted (its slots clear), the descriptor of a launch that it started and a manifest that
the SMC signs for it (11 R376, 10 R340). -/
def purgePart (s : State) (p : Nat) : State :=
  { s with
    vatQueue := s.vatQueue.filter (fun q => q.part != p)
    srcPairs := s.srcPairs.map (fun e => if e.1 / 8192 = p ∧ !e.2.reqs.isEmpty then (e.1, { e.2 with reqs := [], resync := some s.tick, backoff := none }) else e)
    mordantWait := s.mordantWait.filter (fun o => ringPart s o.ring != some p)
    mctxs := s.mctxs.map (fun c => { c with own := c.own.filter (fun o => ringPart s o.ring != some p) })
    launches := s.launches.map (fun l => { l with root := l.root.filter (fun x => ringPart s x.1 != some p) })
    signing := s.signing.filter (fun x => ringPart s x.1 != some p)
    posts := s.posts.filter (fun q => q.part != p)
    qps := s.qps.map (fun e => if e.1 / 2 ^ 17 = p ∧ !(e.2.ops.isEmpty && e.2.recvs.isEmpty) then (e.1, { e.2 with ops := [], recvs := [] }) else e) }

/-- Reset of a partition: READY clears, each fetched descriptor gets its record, the rings are disabled, the tile
groups start zeroing and the SCU slots are cleared (10 R340). -/
def partitionReset (s : State) (p : Nat) : State :=
  let s0 := { setRfld s (pkey p Reg.hifPartStatus) 0 1 0 with
    resetting := if s.resetting.contains p then s.resetting else s.resetting ++ [p] }
  let sw := ((partRings s0 p).flatMap (fun r => (ringOf s0 r).descs.map (fun d => (r, d)))).foldl (fun s x => workStopped s x.1 x.2 St.partReset) s0
  let s1 := (partRings sw p).foldl (fun s r => resetRecords r St.partReset (ringOf s r).descs s) (purgePart (snapEnd sw p) p)
  let s2 := (partRings s1 p).foldl (fun s r => setRing (setRfld s (okey (Reg.rngCfg + 64 * r)) 8 1 0) r (ringOf s r).off) s1
  scuClear (startZeroing s2 (partGroups s2 p)) p

/-! ### Waits -/

/-- The state of a wait. -/
inductive WaitVal where
  | met | open | failed
  deriving DecidableEq, Repr

/-- Judge a wait of a descriptor of partition `p` on descriptor `q` of ring `r` (01 R17 to R21). A descriptor at or above the base has
completed when it has been fetched and is no longer in flight; while FETCH is still below the base, none has. -/
def judgeWait (s : State) (p r : Nat) (q : BitVec 32) : WaitVal :=
  if ringPart s r != some p then .failed
  else
    let g := ringOf s r
    let d := (q - g.base).toNat
    let t := (g.tail - g.base).toNat
    let f := (g.fetch - g.base).toNat
    if 2 ^ 31 ≤ d then .failed
    else if t ≤ d then .open
    else if g.bad.any (fun b => decide ((b - g.base).toNat ≤ d)) then .failed
    else if f < 2 ^ 31 && d < f && g.descs.all (fun x => decide (d < (x.seq - g.base).toNat)) then .met
    else .open

/-- The waits in use of a descriptor, as (ring, sequence number) (10 R327). -/
def Desc.waits (d : Desc) : List (Nat × BitVec 32) :=
  (if bitAt (d.fld 1 1) 1 then [(d.fld 12 2 % 4096, BitVec.ofNat 32 (d.fld 8 4))] else []) ++
  (if bitAt (d.fld 1 1) 2 then [(d.fld 18 2 % 4096, BitVec.ofNat 32 (d.fld 14 4))] else [])

/-- The wait that DETAIL names when a descriptor's waits fail: wait 0 where it has failed, else wait 1. The spec says "the wait that
failed" (10 Table 15) and not which of two (log entry 33, DESIGN CHOICE). -/
def failedWait (s : State) (d : Desc) : Option (Nat × BitVec 32) :=
  d.waits.find? (fun w => judgeWait s d.part w.1 w.2 == .failed)

/-- A wait of the descriptor names a ring that its partition does not hold (01 R21). -/
def waitsForeign (s : State) (d : Desc) : Bool := d.waits.any (fun w => ringPart s w.1 != some d.part)

/-- Every wait of a descriptor is satisfied. -/
def waitsMet (s : State) (d : Desc) : Bool := d.waits.all (fun w => judgeWait s d.part w.1 w.2 == .met)

/-- DETAIL of a failed wait (10 R332). -/
def waitDetail (w : Nat × BitVec 32) (expired : Bool) : Nat := w.2.toNat + w.1 * 2 ^ 32 + b2n expired * 2 ^ 44

/-- The end of a SNAP ends its protection (14 R479). -/
def snapStop (s : State) (r : Nat) (d : Desc) : State :=
  match snapOf s d.part with
  | some w => if w.ring = r && w.seq == d.seq then snapEnd s d.part else s
  | none => s

/-- A descriptor's record, with OK turned into OK_CORRECTED after a correction (14 R445); a record that cannot be
written resets the partition (10 R565). -/
def completeOne (s : State) (r : Nat) (d : Desc) (st : BitVec 16) (detail : Nat) (errec : Bool) : State :=
  let st1 := if st == St.ok && d.corrected then St.okCorrected else st
  let s := snapStop s r d
  match writeRecord s r d st1 detail (errec || d.errec) with
  | some s1 => s1
  | none =>
    let a := cqSlot s r
    let e : ErrEvent := ⟨0x04, 4, 0, 0, 0, some d.part, r, d.seq, false, st1, BitVec.ofNat 64 a, leBytes 8 a, true⟩
    partitionReset (dropDesc (errEmit s e).1 r d St.partReset) d.part

/-- The first waiting descriptor of a ring with a failed wait. -/
def failedIn (s : State) (r : Nat) : Option (Nat × Desc × (Nat × BitVec 32)) :=
  (ringOf s r).descs.findSome? (fun d => if d.phase = .waiting then (failedWait s d).map (fun w => (r, d, w)) else none)

/-- Complete waiting descriptors whose waits have failed, until none is left; a wait that names another partition's ring also leaves an
error record (01 R17, R20, R21). The spec gives the records of one event no order; the model takes the rings in ascending number and each ring in
sequence order (log entry 33, DESIGN CHOICE). -/
def settle : Nat → State → State
  | 0, s => s
  | f + 1, s =>
    match (s.rings.map (·.1)).findSome? (fun r => failedIn s r) with
    | none => s
    | some (r, d, w) =>
      if waitsForeign s d then
        let e : ErrEvent := ⟨0x03, 2, 0, 0, 0, some d.part, r, d.seq, false, St.dependency, 0, [], true⟩
        let (s1, wr) := errEmit s e
        settle f (completeOne s1 r d St.dependency (waitDetail w false) wr)
      else settle f (completeOne s r d St.dependency (waitDetail w false) false)

/-- The descriptors of a ring before one (in submission order) have all started (01 R24). -/
def orderMet (g : Ring) (seq : BitVec 32) : Bool :=
  (g.descs.takeWhile (fun x => x.seq != seq)).all (fun x => x.phase == .running)

/-- A descriptor in flight. -/
def findDesc (s : State) (r : Nat) (seq : BitVec 32) : Option Desc :=
  (ringOf s r).descs.find? (fun d => d.seq == seq)

/-- A descriptor waits for nothing but its engine: its waits hold and the descriptors before it have started (01 R19, R24). -/
def isReady (s : State) (r : Nat) (seq : BitVec 32) : Bool :=
  match findDesc s r seq with
  | some d => d.phase == .waiting && waitsMet s d && orderMet (ringOf s r) seq
  | none => false

/-- The ready descriptors in the order in which they became so, brought up to date; of several that one event makes ready the spec names no first, and
the model takes ascending rings (03 R80, 06 R207, 07 R211; log entry 33, DESIGN CHOICE). -/
def readyRefresh (s : State) : State :=
  let now := s.rings.flatMap (fun e => (e.2.descs.map (fun d => (e.1, d.seq))).filter (fun x => isReady s x.1 x.2))
  { s with readyQ := s.readyQ.filter (fun x => now.contains x) ++ now.filter (fun x => !s.readyQ.contains x) }

/-- No descriptor that became ready earlier waits for the same unit, `same` telling which do (03 R80, 06 R207, 07 R211). -/
def firstReady (s : State) (r : Nat) (seq : BitVec 32) (same : Desc → Bool) : Bool :=
  (s.readyQ.takeWhile (fun x => x != (r, seq))).all (fun x => !isReady s x.1 x.2 || !((findDesc s x.1 x.2).elim false same))

/-- The number of descriptors in flight. -/
def inFlight (s : State) : Nat := s.rings.foldl (fun n e => n + e.2.descs.length) 0

/-- Settle every wait. -/
def settleAll (s : State) : State := readyRefresh (settle (inFlight s) s)

/-- The state with a descriptor in flight replaced. -/
def setDesc (s : State) (r : Nat) (d : Desc) : State :=
  let g := ringOf s r
  setRing s r { g with descs := g.descs.map (fun x => if x.seq == d.seq then d else x) }

/-- A descriptor ends: its error record where its status carries one, its completion record, and every wait
judged again (10 R331, 14 R456). -/
def endWith (s : State) (r : Nat) (d : Desc) (st : BitVec 16) (detail : Nat) (e : ErrEvent) : State :=
  if recordless st then settleAll (completeOne s r d st detail false)
  else
    let (s1, w) := errEmit s { e with part := some d.part, ring := r, seq := d.seq, status := st, struck := true }
    settleAll (completeOne s1 r d st detail w)

/-- The record kind of a failing status (14 Table 5): 4 an address, 2 an uncorrected memory error, 1 parity, 6 the fabric, 3 any other. -/
def statusKind (st : BitVec 16) : Nat :=
  if st == St.remoteDead || st == 0x0F00 then 6 else if [0x0A02, 0x0C08, 0x0D01, 0x0E01, 0x0E02].contains st.toNat then 4 else if st == St.uncorrected then 2 else if st == St.parity then 1 else 3

/-- Source code of a parity error by engine (14 R559). -/
def paritySource (engine : Nat) : Nat :=
  match engine with | 3 => 13 | 4 => 14 | 5 => 15 | 6 => 11 | 0x0B => 11 | 0x0D => 11 | _ => 0

/-- UNIT_TYPE and UNIT of a descriptor's record, where one unit of Table 2 runs it (14 R455). -/
def descUnit (d : Desc) : Nat × Nat :=
  match d.work with
  | .copy w => (5, unitField 5 w.engine)
  | .snap w => (5, unitField 5 w.engine)
  | .sie w => (2, unitField 2 ((indicesWhere 8 (fun k => bitAt (leField w.inp.ctrl 7 1) k)).headD 0))
  | .fxe w => (3, unitField 3 w.unit)
  | _ => (0, 0)

/-- The error record of a descriptor that failed at an address, or on the fabric with its DETAIL (14 R455, 11 R375). -/
def failRecord (d : Desc) (st : BitVec 16) (addr : Nat) : ErrEvent :=
  let k := statusKind st
  mkErr k 2 (descUnit d).1 (descUnit d).2 none (if k = 3 then 0 else if k = 6 then addr / 65536 else addr)
    (if k = 4 || k = 2 then leBytes 8 addr else if k = 1 then [BitVec.ofNat 8 (paritySource d.engine), 3#8]
      else if k = 6 then leBytes 2 (addr % 4096) ++ [BitVec.ofNat 8 (b2n (st == 0x0F00))] else [])

/-- A descriptor ends with a status and its record. The address of an ADDRESS record and the place of an ECC record are free values
where the failing access is not kept (log entry 26). -/
def endDesc (s : State) (r : Nat) (d : Desc) (st : BitVec 16) (detail : Nat) : State :=
  if statusKind st = 3 || recordless st then endWith s r d st detail (failRecord d st 0)
  else if d.engine = 0xFF || statusKind st = 6 then endWith s r d st detail (failRecord d st detail)
  else
    let (x, s1) := fresh s
    endWith s1 r d st detail (failRecord d st x.toNat)

/-- The status of a failed memory access, given the requester's address status; a domain that is off answers as an address that leads nowhere (02
R51; log entry 36). -/
def memStatus (addrSt : BitVec 16) : MemErr → BitVec 16
  | .addr _ => addrSt
  | .off _ _ => addrSt
  | .bad _ _ => St.uncorrected
  | .fenced _ _ => St.unitFenced

/-- DETAIL of an ECC record: the layer, the stack, the pseudo-channel, the bank and the row (14 Table 5, R560). -/
def eccDetail (stack pc byte : Nat) : List Byte :=
  leBytes 1 1 ++ leBytes 1 stack ++ leBytes 1 pc ++ leBytes 1 (byte / 1024 % 32) ++ leBytes 4 (byte / 32768)

/-- The record of an uncorrectable place of the store at address `a`: a sector of an HBM controller, or a word of a tile's scratchpad (09 R293, R294,
14 Table 5). -/
def eccEvent (a key : Nat) : ErrEvent :=
  if isHbm key then mkErr 2 2 8 (unitField 8 (key / 0x600000000)) none a (eccDetail (key / 0x600000000) (key / 0x30000000 % 32) (key % 0x30000000))
  else mkErr 2 2 1 (unitField 1 ((key - 2 ^ 44) / 0x180000)) none a (leBytes 8 3)

/-- The error record of a descriptor whose memory access failed: ADDRESS with the faulting address, ECC of the HBM controller with the place
of the sector, or DESCRIPTOR for a fenced unit (14 R293, Table 5, R456; log entry 26). -/
def memRecord (d : Desc) (addrSt : BitVec 16) : MemErr → ErrEvent
  | .addr a | .off a _ => mkErr (if statusKind addrSt = 4 then 4 else 3) 2 (descUnit d).1 (descUnit d).2 none a (leBytes 8 a)
  | .bad a k => eccEvent a k
  | .fenced _ _ => mkErr 3 2 (descUnit d).1 (descUnit d).2 none 0 []

/-- A descriptor ends because a memory access failed. -/
def endMem (s : State) (r : Nat) (d : Desc) (addrSt : BitVec 16) (e : MemErr) (detail : Nat) : State :=
  endWith s r d (memStatus addrSt e) detail (memRecord d addrSt e)

/-- Why a descriptor fails: its status, or a failed memory access with the requester's address status. -/
inductive Fail where
  | of (st : BitVec 16)
  | mem (addrSt : BitVec 16) (e : MemErr)
  deriving DecidableEq, Repr

/-- The status of a failure. -/
def Fail.st : Fail → BitVec 16
  | .of st => st
  | .mem a e => memStatus a e

/-- The failed access of a failure. -/
def Fail.mem? : Fail → Option MemErr
  | .of _ => none
  | .mem _ e => some e

/-- A failed memory access. -/
def memFail (addrSt : BitVec 16) (e : MemErr) : Fail := .mem addrSt e

/-- A descriptor ends with a failure and its record. -/
def endFail (s : State) (r : Nat) (d : Desc) (f : Fail) (detail : Nat) : State :=
  match f with
  | .of st => endDesc s r d st detail
  | .mem a e => endMem s r d a e detail

/-- A fetched descriptor of this engine and operation that may start now: its waits met, R24 met, and no stop
of the whole package in force (01 R19, R24; 16 R519). -/
def startable (s : State) (r : Nat) (seq : BitVec 32) (eng op : Nat) : Option Desc :=
  match findDesc s r seq with
  | none => none
  | some d =>
    if d.phase = .waiting && d.engine == eng && d.op == op && waitsMet s d && orderMet (ringOf s r) seq && alive s &&
        decide (stage s < 3) then some d else none

/-- A running descriptor of this engine. -/
def runningDesc (s : State) (r : Nat) (seq : BitVec 32) (eng : Nat) : Option Desc :=
  match findDesc s r seq with
  | none => none
  | some d => if d.phase = .running && d.engine == eng then some d else none

/-- The descriptor starts, its engine holding `w` for it. -/
def startWork (s : State) (r : Nat) (d : Desc) (w : Work) : State :=
  readyRefresh (setDesc s r { d with phase := .running, work := w, cf := pfld s d.part Reg.detCtrl 0 1 == 1 })

/-- Every running descriptor, with its ring. -/
def runningAll (s : State) : List (Nat × Desc) :=
  s.rings.flatMap (fun e => (e.2.descs.filter (fun d => d.phase == .running)).map (fun d => (e.1, d)))

/-! ### Obituaries and device-fatal -/

/-- The lowest sequence number without a record (10 R339). -/
def firstOpen (g : Ring) : BitVec 32 := match g.descs with | [] => g.fetch | d :: _ => d.seq

/-- The 32 bytes of an obituary (10 R339). -/
def obitBytes (g : Ring) (r : Nat) (st : BitVec 16) (time cause : Nat) : List Byte :=
  layoutBytes 32 [(0, 4, (firstOpen g).toNat), (4, 4, g.comp.toNat), (8, 4, g.tail.toNat), (12, 2, st.toNat), (14, 2, r),
    (16, 8, time), (24, 1, cause), (31, 1, 1)]

/-- The obituary of one ring; the ring then holds no descriptor and accepts no doorbell (10 R338). -/
def obituary (st : BitVec 16) (cause : Nat) (s : State) (r : Nat) : State :=
  let g := ringOf s r
  if !g.enabled then s
  else
    let a := ofld s (Reg.rngObit + 64 * r) 5 43 * 32
    let dead := { g with descs := [], reads := [], abortLeft := 0 }
    match ringPart s r with
    | none => setRing s r dead
    | some p =>
      if a = 0 then setRing s r dead
      else match writeVa s p a (obitBytes g r st (stamp s 18) cause) with
        | .ok s1 => setRing s1 r { dead with obituary := true }
        | .error _ => setRing s r dead

/-- Each vector that an enabled ring or the enabled error ring of a partition names, once (10 R334). -/
def obitVectors (s : State) (p : Nat) : List Nat :=
  (((partRings s p).filter (fun r => (ringOf s r).enabled)).map (fun r => ofld s (Reg.rngCfg + 64 * r) 16 11) ++
    (if rfld s (pkey p (Reg.errRing + 8)) 9 1 = 1 then [rfld s (pkey p (Reg.errRing + 8)) 16 11] else [])).eraseDups

/-- The obituaries of every enabled ring, then their vectors (10 R334, R338). -/
def obituaries (s : State) (st : BitVec 16) (cause : Nat) : State :=
  let s1 := (s.rings.map (·.1)).foldl (obituary st cause) s
  let s2 := (List.range 8).foldl (fun s p => (obitVectors s1 p).foldl (fun s v => raiseVector s p v) s) s1
  { s2 with tiles := s2.tiles.foldl (fun m e => sset (fun _ => Tile.init) m e.1 e.2.idle) s2.tiles, posts := [] }

end Sys2Proof.Machine
end

