-- ==== Sys2Proof/Machine/RegWrite.lean ====
section
/-! DEFINITION. Writes to the set-up registers through a view (17 R545 to R555). -/

namespace Sys2Proof.Machine

/-- The party may access a view: a host its partition's, a hart of the Owner's cluster view 8, and a hart of a
partition's cluster that partition's view (17 R545). -/
def viewAllowed (s : State) (who : Party) (view : Nat) : Bool :=
  match who with
  | .host p => p == view && decide (p < 8)
  | .hart h => if view = 8 then hartOwner h else hartPart s h == some view

/-- Offset within a partition's own map of an offset in view 8 that is a copy of a DET_ register, with the
partition (17 R557). -/
def detCopy (view off : Nat) : Option (Nat × Nat) :=
  if view = 8 ∧ 0x1008100 ≤ off ∧ off < 0x1008900 then some ((off - 0x1008100) / 0x100, 0x1008000 + off % 0x100) else none

/-- The row and the key of the register word that an offset names in a view; none where the view has no such
register (17 R546, R552, R556, R557, 16 R534). -/
def regAt (s : State) (view off : Nat) : Option (RegRow × Nat) :=
  match detCopy view off with
  | some (p, o) => (regRow o).map (fun r => (r, pkey p o))
  | none =>
    match regRow off with
    | none => none
    | some r =>
      match r.view with
      | .B => some (r, okey off)
      | .O => if view = 8 then some (r, okey off) else none
      | .P => if view < 8 then some (r, pkey view off) else none
      | .D => if view < 8 then some (r, pkey view off) else none
      | .E => if view ≤ 8 then some (r, pkey view off) else none
      | .R => if view = 8 || ringPart s ((off - r.base) / r.stride) == some view then some (r, okey off) else none
      | .T => if view = 8 || ofld s Reg.tmbCtrl 0 4 == view then some (r, okey off) else none

/-- A value limited to a range. -/
def clampNat (lo hi v : Nat) : Nat := max lo (min hi v)

/-- The value that a written register word takes, where its fields are clamped or rounded (17 R551). -/
def taken (s : State) (off key w : Nat) : Nat :=
  if off = Reg.hifWaitLimit then setFieldOf w 0 16 (clampNat 1 60000 (fieldOf w 0 16))
  else if Reg.clkTileTarget ≤ off ∧ off < Reg.clkTileTarget + 64 then
    setFieldOf w 0 12 (clampNat 1200 3300 (fieldOf w 0 12) / 25 * 25)
  else if Reg.clkPcoreTarget ≤ off ∧ off < Reg.clkPcoreTarget + 16 then
    setFieldOf w 0 12 (clampNat 1000 3000 (fieldOf w 0 12) / 100 * 100)
  else if off = Reg.scuSlots then setFieldOf w 0 13 (min (fieldOf w 0 13) (fieldOf w 16 13))
  else if off = Reg.fabDeadTimeout then setFieldOf w 0 14 (clampNat 5 10000 (fieldOf w 0 14))
  else if off = Reg.pwrLimit then
    setFieldOf (setFieldOf w 0 12 (clampNat 1500 3600 (fieldOf w 0 12))) 16 12 (clampNat 1200 3300 (fieldOf w 16 12))
  else if off = Reg.tmbSlew then setFieldOf w 0 32 (ofSigned 32 (clampInt (-500000) 500000 (toSigned 32 (fieldOf w 0 32))))
  else if off = Reg.errSwatchCtrl then setFieldOf w 1 3 (min 5 (fieldOf w 1 3))
  else if off = Reg.errRingState then
    (let old := reg s key
     let n := (fieldOf w 32 32 + 2 ^ 32 - fieldOf old 32 32) % 2 ^ 32
     let m := (fieldOf old 0 32 + 2 ^ 32 - fieldOf old 32 32) % 2 ^ 32
     if n ≤ m then w else old)
  else w

/-- A word with the RW fields of a write stored and its W1C fields cleared where written 1. -/
def mergeWrite (old rw w1c v : Nat) : Nat := ((old &&& (2 ^ 64 - 1 - rw)) ||| (v &&& rw)) &&& (2 ^ 64 - 1 - (v &&& w1c))

/-- The words, with their action bits, that stop writes to a word: its own, and word 0 of PRT_PART_CFG_p and ERR_SWATCH_CTRL for their
other words (17 R549, R551). -/
def actionWords (r : RegRow) (off key : Nat) : List (Nat × Nat) :=
  (key, r.w1s) :: (if Reg.prtPartCfg ≤ off ∧ off < Reg.prtPartCfg + 0x200 then [(okey (off / 0x40 * 0x40), 2)]
    else if off = Reg.errSwatchCtrl + 8 then [(okey Reg.errSwatchCtrl, 2 ^ 48)] else [])

/-- While an action bit of the register reads 1, writes to its RW fields and action bits are ignored (17 R551). -/
def actionBusy (s : State) (r : RegRow) (off key : Nat) : Bool := (actionWords r off key).any (fun x => reg s x.1 &&& x.2 != 0)

/-- Store the RW and W1C fields of a 64-bit write through a view: into the shadow where the register is shadowed,
locked fields excepted (17 R551 to R555). -/
def storeWord (s : State) (view off v : Nat) : State :=
  match regAt s view off with
  | none => s
  | some (r, key) =>
    if actionBusy s r off key then s
    else
      let rw := if s.locked then r.rw &&& (2 ^ 64 - 1 - r.lock) else r.rw
      if r.shadow then setShadow s key (mergeWrite (shadowReg s key) rw 0 v)
      else setReg s key (taken s off key (mergeWrite (reg s key) rw r.w1c v))

/-- A 64-bit write of the Owner's view that reaches an idle action register: the state with its fields stored, or
none where the write has no effect. -/
def actionWrite (s : State) (view off : Nat) (v : Word) : Option State :=
  match regAt s view off with
  | none => none
  | some (r, key) => if actionBusy s r off key then none else some (storeWord s view off v.toNat)

/-- Registers every write of which is another command's. -/
def ownRow (off : Nat) : Bool :=
  let within := fun b n => decide (b ≤ off) && decide (off < b + n)
  [Reg.glbReset, Reg.tmbAdjust, Reg.tmbSet].contains off || within Reg.hifHmw 0x100 || within Reg.fabPortCfg 0x80 || within Reg.clkTileTarget 64 ||
    within Reg.clkPcoreTarget 16

/-- A write that sets an action bit is that action's command. -/
def setsAction (s : State) (view off v : Nat) : Bool := match regAt s view off with | some (r, _) => v &&& r.w1s != 0 | none => false

/-- A ring's set-up words are fixed while the ring is enabled (10 R323). -/
def ringLocked (s : State) (off : Nat) : Bool :=
  decide (Reg.rngSqBase ≤ off) && decide (off < Reg.rngSqBase + 0x40000) && (ringOf s ((off - Reg.rngSqBase) / 64)).enabled &&
    [0x00, 0x08, 0x10, 0x18, 0x30].contains ((off - Reg.rngSqBase) % 64 / 8 * 8)

/-- The word, at its place in the 64-bit word, that a 32-bit or 64-bit access writes. -/
def widenWrite (s : State) (view off size v : Nat) : Nat :=
  if size = 8 then v
  else
    let base := off / 8 * 8
    match regAt s view base with
    | none => 0
    | some (r, key) =>
      let old := if r.shadow then shadowReg s key else reg s key
      setFieldOf (old &&& (2 ^ 64 - 1 - r.w1c)) (8 * (off % 8)) 32 v

/-- The enable bit of an error ring was written (14 ERR_RING): 1 checks LOG2_ENTRIES and clears the counters, 0
disables the ring. -/
def errRingEnable (s : State) (view : Nat) (before : Bool) : State :=
  let k := pkey view (Reg.errRing + 8)
  let w := reg s k
  if bitAt w 8 && !before then
    (if 6 ≤ fieldOf w 0 5 ∧ fieldOf w 0 5 ≤ 16 then
      setErrRing (setReg (setReg (setRfld s k 9 1 1) (pkey view Reg.errRingState) 0) (pkey view Reg.errRingDrop) 0) view ⟨0, none⟩
    else s)
  else if bitAt w 8 then s else setRfld s k 9 1 0

/-- PPS_EN set anew: SEQ counts from 0, and the next edge only starts the interval (16 R535). -/
def ppsEnable (s : State) (before : Bool) : State :=
  if ofld s Reg.tmbCtrl 4 1 = 1 ∧ before = false then setRfld { s with ppsSince := false } (okey Reg.tmbPpsStatus) 0 32 0 else s

/-- The offset is word `w` of a ring's registers. -/
def isRingWord (off w : Nat) : Bool :=
  decide (Reg.rngSqBase ≤ off) && decide (off < Reg.rngSqBase + 0x40000) && (off - Reg.rngSqBase) % 64 == w

/-- A write of RNG_STATE2_r that reaches the register clears DB_ERR where it holds a 1 (10 RNG_STATE2_r). -/
def dbErrClear (s : State) (r : Nat) (reaches : Bool) (v : Nat) : State :=
  if reaches && bitAt v 32 then setRing s r { ringOf s r with dbErr := false } else s

/-- A write to a register with no row of its own, or without the action bit that makes it another command; ENABLE of RNG_CFG_r is
RING_ENABLE's and RING_DISABLE's (17 R547, R550 to R555). -/
def registerWrite (who : Party) (view off size : Nat) (v : Word) (s : State) : State :=
  let base := off / 8 * 8
  if !viewAllowed s who view || !(size = 4 || size = 8) || off % size != 0 || ownRow base || (isRingWord base 0x10 && off % 8 == 0) ||
      ringLocked s off || !alive s || setsAction s view base (widenWrite s view off size v.toNat) then s
  else
    let isErr := base == Reg.errRing + 8
    let before := isErr && bitAt (reg s (pkey view base)) 9
    let s1 := storeWord s view base (widenWrite s view off size v.toNat)
    if isErr && decide (view ≤ 8) then errRingEnable s1 view before
    else if base = Reg.tmbCtrl then ppsEnable s1 (ofld s Reg.tmbCtrl 4 1 == 1)
    else if isRingWord base 0x28 then
      dbErrClear s1 ((base - Reg.rngSqBase) / 64) (regAt s view base).isSome (widenWrite s view off size v.toNat)
    else s1

/-- The value that a read of a 64-bit register word returns in a view: a shadowed register's RW fields come from
the shadow (15 R494, 17 R555); an absent word reads 0. Words whose RO fields are computed have their own functions. -/
def readWord (s : State) (view off : Nat) : Nat :=
  match regAt s view off with
  | none => 0
  | some (r, key) =>
    if off = Reg.glbId then setFieldOf (reg s key) 24 4 view
    else if r.shadow then (shadowReg s key &&& r.rw) ||| (reg s key &&& (2 ^ 64 - 1 - r.rw))
    else if r.view = .R then
      let g := ringOf s ((off - r.base) / r.stride)
      if r.base = Reg.rngState then g.fetch.toNat + g.comp.toNat * 2 ^ 32
      else if r.base = Reg.rngState2 then g.base.toNat + b2n g.dbErr * 2 ^ 32 + b2n g.obituary * 2 ^ 33
      else if r.base = Reg.rngCfg then setFieldOf (reg s key) 9 1 (b2n g.enabled)
      else reg s key
    else reg s key

end Sys2Proof.Machine
end

