-- ==== Sys2Proof/Machine/Units.lean ====
section
/-! DEFINITION. Units that can be fenced, and which units running descriptors occupy (03 R80, 14 R448, R449). -/

namespace Sys2Proof.Machine

/-- Key of a unit: its UNIT_TYPE of Table 2 of chapter 14 and its index. -/
def unitKey (ty ix : Nat) : Nat := ty * 4096 + ix

/-- The error state of a unit. -/
def unitOf (s : State) (ty ix : Nat) : UnitSt := sget (fun _ => UnitSt.init) s.units (unitKey ty ix)

/-- The state with a unit's error state replaced. -/
def setUnit (s : State) (ty ix : Nat) (v : UnitSt) : State :=
  { s with units := sset (fun _ => UnitSt.init) s.units (unitKey ty ix) v }

/-- The unit is fenced (14 R449). -/
def fenced (s : State) (ty ix : Nat) : Bool := (unitOf s ty ix).st == 2

/-- The group mask in a TILE or OPT descriptor (10 Tables 9 and 10), or an SIE solve's RGROUPS while it runs. -/
def descGroups (d : Desc) : Nat :=
  if d.engine = 1 || d.engine = 2 then d.fld 20 21
  else match d.work with
    | .sie w => w.rgroups
    | _ => 0

/-- The groups that running descriptors occupy (03 R80, 15 Table 3 rule 10). -/
def busyGroups (s : State) : Nat := (runningAll s).foldl (fun m x => m ||| descGroups x.2) 0

/-- Every group of a mask is idle: occupied by no descriptor, not being zeroed or spared (03 R80, R83, 14 R464). -/
def groupsIdle (s : State) (m : Nat) : Bool :=
  (busyGroups s &&& m) == 0 &&
    (maskGroups m).all (fun g => !(groupOf s g).zeroing && (groupOf s g).sparing.isNone && (groupOf s g).swatch.isNone)

/-- A group of the mask holds a fenced tile, or is withdrawn (14 Table 2, 03 R60; log entry 30). -/
def groupsFenced (s : State) (m : Nat) : Bool :=
  (maskGroups m).any (fun g => (groupOf s g).withdrawn || (List.range 8).any (fun j => fenced s 1 (8 * g + j)))

/-- The A-dies on which a partition holds a tile group (05 R141). -/
def partDies (s : State) (p : Nat) : List Nat :=
  (List.range 8).filter (fun k => (List.range 21).any (fun g => holdsGroup s p (21 * k + g)))

/-- The condition of a unit-fenced failure: end the descriptor with FAILED_UNIT_FENCED (14 R449). -/
def endFenced (s : State) (r : Nat) (d : Desc) : State := endDesc s r d St.unitFenced 0

/-! ### Spares and health -/

/-- Bits set among the low `n` of a number. -/
def popcount (n w : Nat) : Nat := (indicesWhere n (fun i => bitAt w i)).length

/-- Key of an HBM bank group (log entry 12). -/
def bankGroup (stack pc bank : Nat) : Nat := (stack * 32 + pc) * 8 + bank / 4

/-- Replacement rows that a bank group has left. -/
def rowsLeft (s : State) (k : Nat) : Nat := Config.repairRows k - sget (fun _ => 0) s.repairUsed k

/-- Replacement rows left in the two stacks of an A-die. -/
def dieRowsLeft (s : State) (k : Nat) : Nat := (List.range 512).foldl (fun n i => n + rowsLeft s (512 * k + i)) 0

/-- Spare lanes of an F-die that no port uses (11 R355). -/
def lanesLeft (s : State) (f : Nat) : Nat :=
  2 - ((List.range 8).map (fun i => let x := sget (fun _ => Port.init) s.ports (8 * f + i); x.spares.length + x.worn.length)).sum

/-- A class of Table 6 has at most 1 spare left on some die (14 R467). -/
def sparesLow (s : State) : Bool :=
  (List.range 8).any (fun k => decide (ofld s (Reg.tilDieInfo + 8 * k) 8 8 ≤ 1) ||
      decide (15 ≤ popcount 16 (ofld s (Reg.lakWayStatus + 8 * k) 0 16))) ||
    (List.range 2).any (fun d => decide (ofld s (Reg.glbPdieInfo + 8 * d) 8 2 ≤ 1) || decide (lanesLeft s d ≤ 1)) ||
    (s.repairUsed != [] && (List.range 8).any (fun k => decide (dieRowsLeft s k ≤ 1)))

/-- A tile group, core cluster or Lake way is withdrawn, or a port runs on 4 lanes (14 R467). -/
def derated (s : State) : Bool :=
  (List.range 8).any (fun k => ofld s (Reg.tilDieInfo + 8 * k) 24 1 == 1 || ofld s (Reg.lakWayStatus + 8 * k) 16 8 != 0) ||
    (List.range 2).any (fun d => ofld s (Reg.glbPdieInfo + 8 * d) 24 1 == 1) ||
    (List.range 16).any (fun p => ofld s (Reg.fabPortStatus + 8 * p) 4 4 == 4)

/-- REASONS of ERR_HEALTH (14 Table 7). A Proof blame is the Owner's own record and has no register (14 R471). -/
def healthReasons (s : State) : Nat :=
  b2n (sparesLow s) + 2 * b2n (derated s) + 4 * b2n s.rowFailed + 8 * b2n (s.units.any (fun e => e.2.failed)) +
    16 * b2n (decide (2 ≤ ofld s Reg.errHealth 16 8))

/-- LEVEL of a set of reasons (14 Table 7). -/
def healthLevel (w : Nat) : Nat := if 4 ≤ w then 3 else if 2 ≤ w then 2 else w

/-- LEVEL and REASONS of ERR_HEALTH with no record. -/
def healthQuiet (s : State) : State :=
  setRfld (setRfld s (okey Reg.errHealth) 0 2 (healthLevel (healthReasons s))) (okey Reg.errHealth) 8 8 (healthReasons s)

/-- ERR_HEALTH is brought up to date; a change of level writes a HEALTH record (14 R467). -/
def healthRefresh (s : State) : State :=
  let old := ofld s Reg.errHealth 0 2
  let w := healthReasons s
  if old = healthLevel w then healthQuiet s
  else report (healthQuiet s) 0x13 0 0 0 none 0 (leBytes 1 old ++ leBytes 1 (healthLevel w) ++ leBytes 2 w)

/-- REFCLK periods of 7 days. -/
def fatalWindow : Nat := 60480000000000

/-- FATAL_7D counts the device-fatal errors that the flash log holds of the last 7 days (14 ERR_HEALTH). -/
def fatalCount (s : State) : State := setRfld s (okey Reg.errHealth) 16 8 (satNat 8 s.fatalAt.length)

/-- A device-fatal error that is 7 days old leaves the count (14 ERR_HEALTH). -/
def fatalAge (s : State) : State :=
  if s.fatalAt.any (fun t => decide (t + fatalWindow ≤ s.tick)) then
    let s1 := fatalCount { s with fatalAt := s.fatalAt.filter (fun t => decide (s.tick < t + fatalWindow)) }
    if alive s1 then healthRefresh s1 else healthQuiet s1
  else s

/-- The package becomes device-fatal: a FATAL record unless the error-reporting path failed, the obituaries, and
the end of all work (10 R338, 14 R451). -/
def deviceFatal (s : State) (cause : Nat) : State :=
  if s.fatal.isSome then s
  else
    let count := fun (u : State) => fatalCount { u with fatalAt := u.fatalAt ++ [u.tick] }
    let s1 := if cause = 1 then healthQuiet (count s) else healthRefresh (count (report s 0x11 5 0 0 none 0 [BitVec.ofNat 8 cause]))
    { obituaries s1 St.deviceFatal cause with fatal := some cause }

/-- A SPARE_IN record (14 Table 5), with a copy for the partition that holds the part. -/
def spareRecord (s : State) (cls ix old new left utype unit : Nat) (part : Option Nat) : State :=
  report s 0x09 0 utype unit part 0 (leBytes 1 cls ++ leBytes 2 ix ++ leBytes 2 old ++ leBytes 2 new ++ leBytes 1 left)

/-- A WITHDRAWN record (14 Table 5). -/
def withdrawnRecord (s : State) (cls ix utype unit : Nat) (part : Option Nat) : State :=
  report s 0x0A 0 utype unit part 0 (leBytes 1 cls ++ leBytes 2 ix)

/-- ERR_SPARE_CTRL holds a request for this part (14 R463). -/
def spareAsked (s : State) (cls die ix : Nat) : Bool :=
  ofld s Reg.errSpareCtrl 24 1 == 1 && ofld s Reg.errSpareCtrl 4 3 == cls && ofld s Reg.errSpareCtrl 8 11 == ix &&
    (cls == 1 || cls == 2 || ofld s Reg.errSpareCtrl 20 3 == die)

/-- A spare-in of a part may start: below stage S2, and for a worn part with AUTO or on the Owner's request (14 R463). -/
def spareMay (s : State) (cls die ix : Nat) : Bool :=
  alive s && decide (stage s < 2) && (spareAsked s cls die ix || (ofld s Reg.errSpareCtrl 0 1 == 1 && s.worn.contains (cls, die, ix)))

/-- A worn part may be withdrawn for want of a spare, with AUTO set or clear (03 R60, 08 R234, 09 R278). -/
def withdrawMay (s : State) (cls die ix : Nat) : Bool := spareMay s cls die ix || (alive s && s.worn.contains (cls, die, ix))

/-- The spare-in of a part has ended: it is worn no longer, and a request for it is done. -/
def spareEnd (s : State) (cls die ix : Nat) : State :=
  let s1 := { s with worn := s.worn.filter (fun x => x != (cls, die, ix)) }
  if spareAsked s cls die ix then setRfld (setRfld s1 (okey Reg.errSpareCtrl) 24 1 0) (okey Reg.errSpareCtrl) 25 3 0 else s1

end Sys2Proof.Machine
end

