-- ==== Sys2Proof/Machine/Clock.lean ====
section
/-! DEFINITION. Clock islands and heat: targets, slewing PLLs, thermal and power caps (02 R33 to R42, 16 R528 to R531). -/

namespace Sys2Proof.Machine

/-- A filtered input is recognised as asserted (16 R536). -/
def inputLevel (s : State) (i : Nat) : Bool := ofld s (Reg.pwrInput + 8 * i) 0 1 == 1

/-- Its action is enabled (16 R537). -/
def inputOn (s : State) (i : Nat) : Bool := ofld s (Reg.pwrInput + 8 * i) 1 1 == 1

/-- The state with an input's recognised level replaced. -/
def setLevel (s : State) (i : Nat) (v : Bool) : State := setRfld s (okey (Reg.pwrInput + 8 * i)) 0 1 (b2n v)

/-- THROTTLE_N is recognised and enabled. -/
def throttled (s : State) : Bool := inputLevel s 0 && inputOn s 0

/-- Nominal clock of a die, 0 to 7 A-dies and 8, 9 P-dies, and the lowest cap (02 Table 5, 16 R528). -/
def nominalMhz (die : Nat) : Nat := if die < 8 then 3300 else 3000
def floorMhz (die : Nat) : Nat := if die < 8 then 1200 else 1000

/-- The cap that the junction and stack temperatures of a die give (16 R528, R529). -/
def heatCap (s : State) (die : Nat) : Nat := sget nominalMhz s.tcap die

/-- The state with that cap replaced. -/
def setHeatCap (s : State) (die v : Nat) : State := { s with tcap := sset nominalMhz s.tcap die v }

/-- The thermal cap of R37: the lowest of the caps of R528 to R530. -/
def thermalCap (s : State) (die : Nat) : Nat :=
  if die < 8 then
    min (min (heatCap s die) s.pcap) (if throttled s then ofld s Reg.pwrLimit 16 12 else 3300)
  else min (heatCap s die) (if throttled s then 1500 else 3000)

/-- The Owner's target of a die's tiles or cores. -/
def targetMhz (s : State) (die : Nat) : Nat :=
  if die < 8 then ofld s (Reg.clkTileTarget + 8 * die) 0 12 else ofld s (Reg.clkPcoreTarget + 8 * (die - 8)) 0 12

/-- The frequency that a die's main PLL slews to (02 R37, R38, R40). -/
def goalMhz (s : State) (die : Nat) : Nat := min (targetMhz s die) (thermalCap s die)

/-- The main PLL's frequency. -/
def pllMhz (s : State) (die : Nat) : Nat := sget (fun _ => 0) s.pll die

/-- The state with a main PLL's frequency replaced. -/
def setPll (s : State) (die v : Nat) : State := { s with pll := sset (fun _ => 0) s.pll die v }

/-- Power domain of a die's tiles or cores (02 Table 7). -/
def clockDomain (die : Nat) : Nat := if die < 8 then 22 + die else die - 6

/-- The main PLL slews. -/
def slewingMhz (s : State) (die : Nat) : Bool := domainOn s (clockDomain die) && pllMhz s die != goalMhz s die

/-- The tile island runs from its reserve PLL while S1 or worse applies and its main PLL is above 2.6 GHz (02 R39). The rule's first sentence goes
by the tile clock and its last by the target; while the main PLL still slews down to a target at or below 2.6 GHz they disagree, and the model follows
the first (log entry 32, DESIGN CHOICE). -/
def onReserve (s : State) (die : Nat) : Bool := decide (1 ≤ stage s) && decide (2600 < pllMhz s die)

/-- The tile clock of a die (02 R37, R39). -/
def tileMhz (s : State) (die : Nat) : Nat :=
  if !domainOn s (22 + die) then 0 else if onReserve s die then 2600 else pllMhz s die

/-- One main PLL moves by 1 MHz, which is 100 MHz per µs over one REFCLK period (02 R38, R40). -/
def slewTick (s : State) (die : Nat) : State :=
  if slewingMhz s die then setPll s die (if pllMhz s die < goalMhz s die then pllMhz s die + 1 else pllMhz s die - 1) else s

/-- CLK_TILE_TARGET_WRITE (02 R38). -/
def tileTargetWrite (view k : Nat) (v : Word) (s : State) : State :=
  if alive s then storeWord s view (Reg.clkTileTarget + 8 * k) v.toNat else s

/-- CLK_PCORE_TARGET_WRITE (02 R40). -/
def coreTargetWrite (view k : Nat) (v : Word) (s : State) : State :=
  if alive s then storeWord s view (Reg.clkPcoreTarget + 8 * k) v.toNat else s

/-- The die whose main PLL serves a clock domain of 02 Table 5. -/
def pllDie (domain : Nat) : Option Nat :=
  if domain < 8 then some domain else if domain = 16 ∨ domain = 17 then some (domain - 8) else none

/-- PLL_SLEW_DONE (02 R38). -/
def slewDone (domain : Nat) (s : State) : State :=
  match pllDie domain with
  | some k => if slewingMhz s k then setPll s k (goalMhz s k) else s
  | none => s

/-- A clock domain of 02 Table 5 runs: its power domain is on, and a PCIe link of its P-die is up where it clocks their logic (02 R34). -/
def clockRuns (s : State) (domain : Nat) : Bool :=
  if domain < 8 then domainOn s (22 + domain)
  else if domain < 16 then domainOn s (domain + 6)
  else if domain < 18 then domainOn s (domain - 14)
  else if domain < 20 then domainOn s (domain - 18)
  else if domain < 22 then domainOn s (domain - 16)
  else if domain < 24 then (List.range 4).any (fun i => (slotOf s (4 * (domain - 22) + i)).up)
  else true

/-- CLOCK_LOSS: loss of lock in an island that runs, or of the reference (02 R41). -/
def clockLoss (domain : Nat) (s : State) : State := if alive s && clockRuns s domain then deviceFatal s 2 else s

/-! ### Heat and power -/

/-- The hottest reading of a die: 0 to 7 A-dies, 8 and 9 P-dies, 10 and 11 F-dies. -/
def dieTemp (s : State) (die : Nat) : Nat := sget (fun _ => 0) s.dieTemp die

/-- Temperature of a stack (09 HMC_STACK_STATUS). -/
def stackTemp (s : State) (k : Nat) : Nat := ofld s (Reg.hmcStackStatus + 8 * k) 8 8

/-- A reading is taken; 100 °C or less ends a die's duty, and an F-die at 100 °C or more asserts ALERT_N (16 R528). -/
def takeReading (s : State) (die temp : Nat) : State :=
  let s1 := { s with dieTemp := sset (fun _ => 0) s.dieTemp die (satNat 8 temp) }
  { s1 with
    dutyDie := if temp ≤ 100 then s1.dutyDie.filter (· != die) else s1.dutyDie
    alert := decide (100 ≤ dieTemp s1 10) || decide (100 ≤ dieTemp s1 11) }

/-- The cap of a die falls by 100 MHz (16 R528). -/
def capFall (s : State) (die : Nat) : State := setHeatCap s die (max (floorMhz die) (heatCap s die - 100))

/-- THERMAL_CAP_DOWN: at 100 °C, or with a stack of the die at 95 °C (16 R528, R529). -/
def thermalDown (die temp : Nat) (s : State) : State :=
  if !alive s then s
  else
    let s1 := takeReading s die temp
    if die < 10 && (decide (100 ≤ temp) || (decide (die < 8) && (decide (95 ≤ stackTemp s (2 * die)) || decide (95 ≤ stackTemp s (2 * die + 1))))) then
      capFall s1 die else s1

/-- THERMAL_CAP_UP: at 97 °C or less, with no stack of the die at 95 °C (16 R528, R529). -/
def thermalUp (die temp : Nat) (s : State) : State :=
  if !alive s then s
  else
    let s1 := takeReading s die temp
    if die < 10 && decide (temp ≤ 97) && !(decide (die < 8) && (decide (95 ≤ stackTemp s (2 * die)) || decide (95 ≤ stackTemp s (2 * die + 1)))) then
      setHeatCap s1 die (min (nominalMhz die) (heatCap s1 die + 100)) else s1

/-- THERMAL_DUTY: a die at its lowest cap at 105 °C or more (16 R528). -/
def thermalDuty (die temp : Nat) (s : State) : State :=
  if !alive s then s
  else
    let s1 := takeReading s die temp
    if die < 8 && decide (105 ≤ temp) && heatCap s1 die == floorMhz die && !s1.dutyDie.contains die then
      { s1 with dutyDie := s1.dutyDie ++ [die] } else s1

/-- HBM_TEMP_READ (16 R529). -/
def hbmTempRead (k temp : Nat) (s : State) : State :=
  if !alive s || !domainOn s (14 + k / 2) then s
  else
    let s1 := setRfld s (okey (Reg.hmcStackStatus + 8 * k)) 8 8 (satNat 8 temp)
    let s2 := { s1 with refresh2 := if 85 ≤ temp then (if s1.refresh2.contains k then s1.refresh2 else s1.refresh2 ++ [k]) else s1.refresh2.filter (· != k) }
    if 95 ≤ temp then capFall s2 (k / 2) else s2

/-- The package cap may move again: 100 µs after its last change to fall, 1 ms to rise (16 R528, R530). -/
def pcapDue (s : State) (ticks : Nat) : Bool := match s.pcapAt with | some t => decide (t + ticks ≤ s.tick) | none => true

/-- POWER_LIMIT_CHECK: `watts` is the 10 ms average, `hot` that the power has exceeded 4,200 W for 1 ms (16 R530). -/
def powerCheck (watts : Nat) (hot : Bool) (s : State) : State :=
  if !alive s then s
  else
    let pl1 := ofld s Reg.pwrLimit 0 12
    let s1 := { setRfld s (okey Reg.pwrSagStatus) 48 16 (satNat 16 watts) with
      dutyAll := hot || (s.dutyAll && decide (pl1 ≤ watts)) }
    if pl1 < watts && pcapDue s 10000 then { s1 with pcap := max 1200 (s.pcap - 100), pcapAt := some s.tick }
    else if watts * 100 < pl1 * 97 && decide (s.pcap < 3300) && pcapDue s 100000 then
      { s1 with pcap := min 3300 (s.pcap + 100), pcapAt := some s.tick }
    else s1

/-! ### Meanings -/

/-- CLK_TILE_TARGET_WRITE. -/
def execClkTileTargetWrite (view k : Nat) (v : Word) (s : State) : Host.Outcome State Fault Refusal := onUnit (k < 8) (tileTargetWrite view k v s)
/-- CLK_PCORE_TARGET_WRITE. -/
def execClkPcoreTargetWrite (view k : Nat) (v : Word) (s : State) : Host.Outcome State Fault Refusal := onUnit (k < 2) (coreTargetWrite view k v s)
/-- PLL_SLEW_DONE. -/
def execPllSlewDone (domain : Nat) (s : State) : Host.Outcome State Fault Refusal := onUnit (domain < 25) (slewDone domain s)
/-- CLOCK_LOSS. -/
def execClockLoss (domain : Nat) (s : State) : Host.Outcome State Fault Refusal := onUnit (domain < 25) (clockLoss domain s)
/-- THERMAL_CAP_DOWN. -/
def execThermalCapDown (die temp : Nat) (s : State) : Host.Outcome State Fault Refusal := onUnit (die < 12) (thermalDown die temp s)
/-- THERMAL_CAP_UP. -/
def execThermalCapUp (die temp : Nat) (s : State) : Host.Outcome State Fault Refusal := onUnit (die < 12) (thermalUp die temp s)
/-- THERMAL_DUTY. -/
def execThermalDuty (die temp : Nat) (s : State) : Host.Outcome State Fault Refusal := onUnit (die < 12) (thermalDuty die temp s)
/-- HBM_TEMP_READ. -/
def execHbmTempRead (k temp : Nat) (s : State) : Host.Outcome State Fault Refusal := onUnit (k < 16) (hbmTempRead k temp s)
/-- POWER_LIMIT_CHECK. -/
def execPowerLimitCheck (watts : Nat) (hot : Bool) (s : State) : Host.Outcome State Fault Refusal := .next (powerCheck watts hot s)

end Sys2Proof.Machine
end

