-- ==== Sys2Proof/Machine/Tile.lean ====
section
/-! DEFINITION. Tiles: starting a stream, the 14 tile commands, queues, barriers, multicast, and failing (03). -/

namespace Sys2Proof.Machine

/-- A tile at the start of a stream (03 R82, 04 Table 1). -/
def Tile.start (t : Tile) (r : Nat) (seq : BitVec 32) (rank param : Nat) : Tile :=
  { t.idle with
    running := some (r, seq), rank := rank, bases := List.replicate 7 0 ++ [(param + 64 * rank) % 2 ^ 64], pos := 0
    vstat := 0, barsG := 0, barsD := 0, mcasts := 0 }

/-- The tiles of a mask start a stream. -/
def startTiles (s : State) (r : Nat) (seq : BitVec 32) (param : Nat) : Nat → List Nat → State
  | _, [] => s
  | rank, t :: ts => startTiles (setTile s t ((tileOf s t).start r seq rank param)) r seq param (rank + 1) ts

/-- The status FAILED_STATE_LOST of a lost bank (14 R465). -/
def St.stateLost : BitVec 16 := 0x1203

/-- The status FAILED_COLOURFAST (13 R430). -/
def St.colourfast : BitVec 16 := 0x1100

/-- Start of a tile-work descriptor; of the descriptors that wait for a group the first to become ready starts first (03 R78 to R82, 14 R449, R465). -/
def tileWork (r : Nat) (seq : BitVec 32) (s : State) : State :=
  match startable s r seq 1 0 with
  | none => s
  | some d =>
    let m := d.fld 20 21
    if m &&& groupMask s d.part != m then endDesc s r d St.tileNotOwned 0
    else if groupsFenced s m then endFenced s r d
    else if !(groupsIdle s m && firstReady s r seq (fun e => descGroups e &&& m != 0)) then s
    else if (maskGroups m).any (fun g => !(groupOf s g).lost.isEmpty) then
      endDesc ((maskGroups m).foldl (fun s g => setGroup s g { groupOf s g with lost := [] }) s) r d St.stateLost 0
    else startTiles (startWork s r d (.tile [])) r seq (tileParam d) 0 (maskTiles m)

/-- The byte ranges written by a tile descriptor so far are extended (03 R91). -/
def noteWrites (s : State) (r : Nat) (seq : BitVec 32) (ws : List (Nat × Nat)) : State :=
  match findDesc s r seq with
  | some d =>
    match d.work with
    | .tile l => setDesc s r { d with work := .tile (l ++ ws) }
    | _ => s
  | none => s

/-- Every tile of a descriptor stops dispatching (03 R91). -/
def stopTiles (s : State) (r : Nat) (seq : BitVec 32) : State :=
  (tilesOn s r seq).foldl (fun s t => setTile s t { tileOf s t with stopped := true }) s

/-- The record of a tile's failing command, at position `pos` of its stream: by kind of failure, with the stream offset of the command after what Table 5
of chapter 14 names; of a fabric failure ADDR is the offset and DETAIL the node (03 R91, 11 R375; log entry 26). -/
def tileRecord (pos t p r : Nat) (seq : BitVec 32) (st : BitVec 16) (detail : Nat) (er : Option MemErr) : ErrEvent :=
  let off := leBytes 8 (32 * pos)
  let e := match er with
    | some (.addr a) | some (.off a _) => mkErr 4 2 1 (tileUnit t) (some p) a (leBytes 8 a ++ off)
    | some (.bad a k) => { eccEvent a k with unitType := 1, unit := tileUnit t, part := some p, detail := (eccEvent a k).detail ++ off }
    | _ => if statusKind st = 6 then mkErr 6 2 1 (tileUnit t) (some p) (detail / 65536)
        (leBytes 2 (detail % 4096) ++ [BitVec.ofNat 8 (b2n (st == 0x0F00))] ++ off)
      else mkErr 3 2 1 (tileUnit t) (some p) 0 off
  { e with ring := r, seq := seq, struck := true, status := st }

/-- The command of a tile at position `pos` fails: the one error record of a failing tile, and the descriptor's tiles stop (03 R91); `detail` goes into
the completion record (11 R375), and `er` is the failed access. -/
def tileFailAt (s : State) (t pos : Nat) (st : BitVec 16) (detail : Nat) (er : Option MemErr := none) : State :=
  let x := tileOf s t
  match x.running with
  | none => s
  | some (r, seq) =>
    match findDesc s r seq with
    | none => s
    | some d =>
      if x.failed.isSome then s else
      let (s1, w) := errEmit s (tileRecord pos t d.part r seq st detail er)
      let s2 := setTile s1 t { tileOf s1 t with failed := some (st.toNat, detail) }
      let s3 := match findDesc s2 r seq with
        | some d2 => setDesc s2 r { d2 with errec := d2.errec || w }
        | none => s2
      stopTiles s3 r seq

/-- The command that a tile would dispatch next fails. -/
def tileFailWith (s : State) (t : Nat) (st : BitVec 16) (detail : Nat) (er : Option MemErr := none) : State :=
  tileFailAt s t (tileOf s t).pos st detail er

/-- A command of a tile fails with no DETAIL. -/
def tileFail (s : State) (t : Nat) (st : BitVec 16) : State := tileFailWith s t st 0

/-- A command of a tile fails at a memory access. -/
def tileFailMem (s : State) (t : Nat) (e : MemErr) : State := tileFailWith s t (memStatus St.tileAddress e) 0 (some e)

/-- A tile has finished its stream: END dispatched and its queues empty (03 R90). -/
def Tile.finished (x : Tile) : Bool := x.ended && x.qmat.isEmpty && x.qvec.isEmpty && x.qdma.isEmpty

/-- The descriptor completes when all its tiles have finished (03 R90). -/
def tileFinish (s : State) (r : Nat) (seq : BitVec 32) : State :=
  match findDesc s r seq with
  | none => s
  | some d =>
    let ts := tilesOn s r seq
    if ts.all (fun t => (tileOf s t).finished && !(tileOf s t).stopped) then settleAll (completeOne s r d St.ok 0 false) else s

/-- The tile moves past the command it dispatched; a stream that runs out without END fails (03 R81). -/
def advance (s : State) (t cmds : Nat) : State :=
  let y := (tileOf s t).onward
  if cmds ≤ y.pos then tileFail s t St.cmdInvalid else setTile s t y

/-- A queue's wait field is met (03 R87). -/
def waitOk (field incomplete : Nat) : Bool := field == 7 || decide (incomplete ≤ field)

/-- One command of a burst, as it was read or why it could not be. -/
def burstRead (s : State) (t : Nat) (d : Desc) (i : Nat) : MemErr ⊕ List Byte :=
  match readVa s d.part (tileStream d + 32 * i) 32 (some (tileDie t)) with
  | .ok b => .inr b
  | .error e => .inl e

/-- A short loop body keeps a command that dispatch meets in it (03 R98). -/
def LoopFrame.keep (f : LoopFrame) (pos : Nat) (b : List Byte) : LoopFrame :=
  if f.short && !f.code.any (fun c => c.1 == pos) then { f with code := f.code ++ [(pos, b)] } else f

/-- The next command of a tile and the tile that holds it: from the loop buffer, from the burst fetched last, or from a burst of 128 commands that it fetches
now (03 R98, 10 R342). An error inside a burst counts when its command is reached (log entry 40). -/
def Tile.fetch (s : State) (t : Nat) (d : Desc) (x : Tile) : Tile × (MemErr ⊕ List Byte) :=
  match x.loops.findSome? (fun f => f.code.find? (fun c => c.1 == x.pos)) with
  | some c => (x, .inr c.2)
  | none =>
    let k := x.pos / 128
    let y := if x.burst.1 = k ∧ x.burst.2 ≠ [] then x
      else { x with burst := (k, (List.range (min 128 (tileCmds d - 128 * k))).map (fun i => burstRead s t d (128 * k + i))) }
    match y.burst.2.getD (x.pos % 128) (.inl (.addr (tileStream d + 32 * x.pos))) with
    | .inl e => (y, .inl e)
    | .inr b => ({ y with loops := y.loops.map (fun f => f.keep x.pos b) }, .inr b)

/-- The wait fields of a command header are met by what the queues hold (03 R87). -/
def waitsOk (x : Tile) (b : List Byte) : Bool :=
  let h := leField b 0 4
  waitOk (fieldOf h 8 3) x.qmat.length && waitOk (fieldOf h 11 3) x.qvec.length && waitOk (fieldOf h 14 3) x.qdma.length

/-- The next command of a tile, when it may dispatch and is the one with this opcode: `k` gets the state with the command fetched, the tile's ring and descriptor and
the command's 32 bytes. A fetch that fails, or an undefined opcode once its wait fields are met, fails the tile; a held command leaves the state as it
is (03 R86, R87, R94). -/
def withCommand (s : State) (t op : Nat) (k : State → Nat → Desc → List Byte → State) : State :=
  let x := tileOf s t
  match x.running with
  | none => s
  | some (r, seq) =>
    match findDesc s r seq with
    | none => s
    | some d =>
      if x.ended || x.stopped || x.bar.isSome || d.abort then s
      else match x.fetch s t d with
        | (_, .inl e) => tileFailMem s t e
        | (y, .inr b) =>
          let h := leField b 0 4
          if !waitsOk x b then s
          else if !tileOpcodes.contains (fieldOf h 0 8) then tileFail s t St.cmdInvalid
          else if fieldOf h 0 8 != op then s
          else k (setTile s t y) r d b

/-- A sequencer command: valid, it changes the tile and dispatch goes on; invalid, the tile fails. -/
def seqCommand (s : State) (t : Nat) (d : Desc) (valid : Bool) (f : Tile → Tile) : State :=
  if !valid then tileFail s t St.cmdInvalid
  else advance (setTile s t (f (tileOf s t))) t (tileCmds d)

/-- NOP (03 Table 5). -/
def tileNop (t : Nat) (s : State) : State :=
  withCommand s t 0x00 (fun s _ d b => seqCommand s t d (reservedZero b 17 []) id)

/-- Tiles of a group that wait for a multicast which a finished partner never dispatches fail (03 R96). -/
def mcastOrphans (s : State) (t : Nat) : State :=
  let done := (groupTiles t).filter (fun u => (tileOf s u).ended)
  (groupTiles t).foldl (fun s u =>
    match (tileOf s u).qdma.find? (fun e => e.mcast.any (fun n => done.any (fun v => decide ((tileOf s v).mcasts ≤ n)))) with
    | some e => tileFailAt s u e.pos St.cmdInvalid 0
    | none => s) s

/-- END: the stream ends, also inside a loop body (03 R90, R98). -/
def tileEnd (t : Nat) (s : State) : State :=
  withCommand s t 0x01 (fun s r d b =>
    if !reservedZero b 17 [] then tileFail s t St.cmdInvalid
    else
      let s1 := setTile s t { tileOf s t with ended := true, loops := [] }
      tileFinish (mcastOrphans s1 t) r d.seq)

/-- LOOP (03 R98, Table 9). -/
def tileLoop (t : Nat) (s : State) : State :=
  withCommand s t 0x02 (fun s _ d b =>
    let body := fieldOf (leField b 0 4) 17 8
    let count := leField b 4 4
    let x := tileOf s t
    let last := x.pos + 1 + body
    let inner := match x.loops with
      | [] => decide (last ≤ tileCmds d)
      | f :: _ => decide (last ≤ f.last)
    let valid := reservedZero b 25 [(4, 4)] && decide (1 ≤ body) && decide (1 ≤ count) && decide (x.loops.length < 4) && inner
    if !valid then tileFail s t St.cmdInvalid
    else setTile s t (x.openLoop body count))

/-- SETBASE (03 Table 10). -/
def tileSetbase (t : Nat) (s : State) : State :=
  withCommand s t 0x03 (fun s _ d b => seqCommand s t d (reservedZero b 20 [(8, 8)])
    (fun x => { x with bases := x.bases.set (fieldOf (leField b 0 4) 17 3) (leField b 8 8) }))

/-- ADDBASE (03 Table 10). -/
def tileAddbase (t : Nat) (s : State) : State :=
  withCommand s t 0x04 (fun s _ d b => seqCommand s t d (reservedZero b 20 [(8, 8)])
    (fun x =>
      let k := fieldOf (leField b 0 4) 17 3
      { x with bases := x.bases.set k ((x.bases.getD k 0 + leField b 8 8) % 2 ^ 64) }))

/-- The F-die that serves a tile's Vat requests: F0 for A-dies 0 to 3, F1 for the others. -/
def tileFdie (t : Nat) : Nat := tileDie t / 4

/-- The state with Vat requests appended to the queue. -/
def pushVat (s : State) (q : List VatReq) : State := { s with vatQueue := s.vatQueue ++ q }

/-- LDBASE: BS0 to BS6 from the 56 bytes at the address in BS7 (03 Table 10). A Vat address is read through the
fabric, and the sequencer waits for the answer (11 R360). -/
def tileLdbase (t : Nat) (s : State) : State :=
  withCommand s t 0x05 (fun s _ d b =>
    let a := (tileOf s t).bases.getD 7 0
    if !reservedZero b 17 [] then tileFail s t St.cmdInvalid
    else match xlate s d.part .r a with
      | some (.vat nd o pr) =>
        pushVat (setTile s t { tileOf s t with bar := some 2 }) [⟨d.part, .ldbase t, tileFdie t, nd, o, pr, 0, 56, []⟩]
      | _ => match readVa s d.part a 56 (some (tileDie t)) with
        | .error e => tileFailMem s t e
        | .ok bs => seqCommand s t d true (fun x => x.loadBases bs))

/-- The tiles in the scope of a barrier: 0 the group, 1 the descriptor (03 Table 11). -/
def barTiles (s : State) (t scope : Nat) : List Nat :=
  if scope = 0 then groupTiles t
  else match (tileOf s t).running with
    | some (r, seq) => tilesOn s r seq
    | none => []

/-- Barriers of a scope that a tile has dispatched. -/
def barCount (x : Tile) (scope : Nat) : Nat := if scope = 0 then x.barsG else x.barsD

/-- BAR: the tile waits at the barrier (03 R99). -/
def tileBar (t : Nat) (s : State) : State :=
  withCommand s t 0x06 (fun s _ d b =>
    let scope := fieldOf (leField b 0 4) 17 1
    seqCommand s t d (reservedZero b 18 [])
      (fun x => { x with
        bar := some scope
        barsG := if scope = 0 then x.barsG + 1 else x.barsG
        barsD := if scope = 1 then x.barsD + 1 else x.barsD }))

/-- Release of a tile from its barrier: every tile in scope has dispatched the matching BAR; a tile that finished
without it makes the barrier fail (03 R99). -/
def tileBarRelease (t : Nat) (s : State) : State :=
  let x := tileOf s t
  match x.bar with
  | none => s
  | some scope =>
    let n := barCount x scope
    let others := barTiles s t scope
    if x.stopped || scope = 2 then s
    else if others.any (fun u => (tileOf s u).ended && decide (barCount (tileOf s u) scope < n)) then tileFail s t St.cmdInvalid
    else if others.all (fun u => decide (n ≤ barCount (tileOf s u) scope)) then setTile s t { x with bar := none }
    else s

/-! ### The matrix queue -/

/-- An element of a set. -/
def accGet (a : AccSet) (i j : Nat) : Nat := sget (fun _ => 0) a.elts (i * 48 + j)

/-- A set with an element replaced. -/
def accPut (a : AccSet) (i j v : Nat) : AccSet := { a with elts := sset (fun _ => 0) a.elts (i * 48 + j) v }

/-- One multiply-accumulate step of a plane: floating-point rounded once, INT8 saturating (03 R62 to R65). Yields the new
element and the INV, OVF and SAT flags. -/
def macStep (acc aT bT : Nat) (c a b : Nat) : Nat × Bool × Bool × Bool :=
  if acc = 1 then
    let x := toSigned 32 c + toSigned 8 a * toSigned 8 b
    let y := clampInt (-(2 ^ 31)) (2 ^ 31 - 1) x
    (ofSigned 32 y, false, false, x != y)
  else
    let f := if acc = 0 then Fmt.fp32 else Fmt.fp64
    let x := typeValue aT a
    let y := typeValue bT b
    let z := f.decode c
    let r := f.fmaV x y z
    (r.1, !(x.isNan || y.isNan || z.isNan) && (f.decode r.1).isNan, r.2 / 4 % 2 == 1, false)

/-- The sum over the slices of one element (03 R62). -/
def macLoop (s : State) (t acc aT bT aAddr bAddr aStride bStride : Nat) : Nat → Nat → Nat × Bool × Bool × Bool → Nat × Bool × Bool × Bool
  | 0, _, st => st
  | n + 1, k, (c, inv, ovf, sat) =>
    let a := leNat (getBytes s (spKey t (aAddr + k * aStride)) (typeBytes aT))
    let b := leNat (getBytes s (spKey t (bAddr + k * bStride)) (typeBytes bT))
    let (c1, i1, o1, s1) := macStep acc aT bT c a b
    macLoop s t acc aT bT aAddr bAddr aStride bStride n (k + 1) (c1, inv || i1, ovf || o1, sat || s1)

/-- The block of a matrix command over its rows and columns (03 R62, R67). -/
def macBlock (s : State) (t acc aT bT aSpa bSpa aLen bLen kk : Nat) (cells : List (Nat × Nat)) (set : AccSet) : AccSet :=
  cells.foldl (fun x (c : Nat × Nat) =>
    let (v, inv, ovf, sat) := macLoop s t acc aT bT (aSpa * 32 + c.1 * typeBytes aT) (bSpa * 32 + c.2 * typeBytes bT)
      (aLen * typeBytes aT) (bLen * typeBytes bT) kk 0 (accGet x c.1 c.2, false, false, false)
    { accPut x c.1 c.2 v with inv := x.inv || inv, ovf := x.ovf || ovf, sat := x.sat || sat }) set

/-- The element positions of an M × N block. -/
def blockCells (m n : Nat) : List (Nat × Nat) := (List.range m).flatMap (fun i => (List.range n).map (fun j => (i, j)))

/-- A matrix command enters its queue, with the set that it writes or reads, and takes effect (03 R72, R86, R88). -/
def matDone (s : State) (t cmds set : Nat) (writes : Bool) : State :=
  let x := tileOf s t
  advance (setTile s t { x with qmat := x.qmat ++ [⟨x.cmds, set, writes⟩], cmds := x.cmds + 1 }) t cmds

/-- MMA_H and MMA_D (03 R61 to R74, Table 6). -/
def tileMma (double : Bool) (t : Nat) (s : State) : State :=
  withCommand s t (if double then 0x11 else 0x10) (fun s _ d b =>
    let h := leField b 0 4
    let aT := fieldOf h 20 3
    let bT := fieldOf h 23 3
    let w1 := leField b 4 4
    let kk := leField b 8 2
    let w3 := leField b 12 4
    let m := fieldOf w3 0 6
    let n := fieldOf w3 8 6
    let aLen := if double then 24 else 48
    let x := tileOf s t
    let set := accOf x (fieldOf h 17 2)
    let valid := reservedZero b 26 [(4, 4), (8, 2), (12, 2)] && fieldOf w3 6 2 == 0 && fieldOf w3 14 2 == 0 && decide (1 ≤ kk) &&
      decide (1 ≤ m) && decide (m ≤ aLen) && decide (1 ≤ n) && decide (n ≤ 48)
    if 8 ≤ x.qmat.length then s
    else match (if valid then pairTag double aT bT else none) with
      | none => tileFail s t St.cmdInvalid
      | some tag =>
        if !bitAt h 19 && set.tag != tag then tileFail s t St.cmdInvalid
        else if !(spRangeOk (tileMask d) (fieldOf w1 0 16 * 32) (kk * aLen * typeBytes aT) &&
            spRangeOk (tileMask d) (fieldOf w1 16 16 * 32) (kk * 48 * typeBytes bT)) then tileFail s t St.scratchBounds
        else if (List.range (if s.poison = [] then 0 else kk)).any (fun k =>
            poisoned s (spKey t (fieldOf w1 0 16 * 32 + k * aLen * typeBytes aT)) (m * typeBytes aT) ||
              poisoned s (spKey t (fieldOf w1 16 16 * 32 + k * 48 * typeBytes bT)) (n * typeBytes bT)) then tileFail s t St.uncorrected
        else
          let set0 := if bitAt h 19 then { AccSet.init with tag := tag } else set
          let set1 := macBlock s t tag aT bT (fieldOf w1 0 16) (fieldOf w1 16 16) aLen 48 kk (blockCells m n) set0
          matDone (setTile s t (setAcc x (fieldOf h 17 2) set1)) t (tileCmds d) (fieldOf h 17 2) true)

/-- The checks that ACCLD and ACCST share: ranges, pitch and bounds (03 Table 7, R75, R84). -/
def accCheck (d : Desc) (b : List Byte) (tag : Nat) (hdrFrom : Nat) : Option (BitVec 16) :=
  let w1 := leField b 4 4
  let w3 := leField b 12 4
  let m := fieldOf w3 0 6
  let n := fieldOf w3 8 6
  let pitch := fieldOf w1 16 16
  let rowLen := n * tagBytes tag
  if !(reservedZero b hdrFrom [(4, 4), (12, 2)] && fieldOf w3 6 2 == 0 && fieldOf w3 14 2 == 0 && decide (1 ≤ m) &&
      decide (m ≤ if tag = 2 then 24 else 48) && decide (1 ≤ n) && decide (n ≤ 48) && decide ((rowLen + 31) / 32 ≤ pitch)) then
    some St.cmdInvalid
  else if !(List.range m).all (fun i => spRangeOk (tileMask d) ((fieldOf w1 0 16 + i * pitch) * 32) rowLen) then
    some St.scratchBounds
  else none

/-- A row of the block of an ACCLD or ACCST in the scratchpad cannot be read (09 R294). -/
def blockPoisoned (s : State) (t : Nat) (b : List Byte) (esz : Nat) : Bool :=
  let w1 := leField b 4 4
  let w3 := leField b 12 4
  (List.range (fieldOf w3 0 6)).any (fun i => poisoned s (spKey t ((fieldOf w1 0 16 + i * fieldOf w1 16 16) * 32)) (fieldOf w3 8 6 * esz))

/-- ACCLD (03 R75). -/
def tileAccld (t : Nat) (s : State) : State :=
  withCommand s t 0x12 (fun s _ d b =>
    let h := leField b 0 4
    let tag := fieldOf h 19 2
    let w1 := leField b 4 4
    let w3 := leField b 12 4
    let x := tileOf s t
    if 8 ≤ x.qmat.length then s
    else if tag = 3 then tileFail s t St.cmdInvalid
    else match accCheck d b tag 21 with
      | some e => tileFail s t e
      | none =>
        if blockPoisoned s t b (tagBytes tag) then tileFail s t St.uncorrected else
        let set := (blockCells (fieldOf w3 0 6) (fieldOf w3 8 6)).foldl (fun (a : AccSet) c =>
          accPut a c.1 c.2 (leNat (getBytes s (spKey t ((fieldOf w1 0 16 + c.1 * fieldOf w1 16 16) * 32 + c.2 * tagBytes tag)) (tagBytes tag))))
          { AccSet.init with tag := tag }
        matDone (setTile s t (setAcc x (fieldOf h 17 2) set)) t (tileCmds d) (fieldOf h 17 2) true)

/-- The element that ACCST stores: the set's, or with ADD the scratchpad's plus the set's (03 R76). -/
def accAdd (tag old c : Nat) : Nat :=
  match tag with
  | 1 => ofSigned 32 (clampInt (-(2 ^ 31)) (2 ^ 31 - 1) (toSigned 32 old + toSigned 32 c))
  | 2 => (Fmt.fp64.add old c).1
  | _ => (Fmt.fp32.add old c).1

/-- ACCST (03 R75, R76). -/
def tileAccst (t : Nat) (s : State) : State :=
  withCommand s t 0x13 (fun s r d b =>
    let h := leField b 0 4
    let w1 := leField b 4 4
    let w3 := leField b 12 4
    let x := tileOf s t
    let set := accOf x (fieldOf h 17 2)
    if 8 ≤ x.qmat.length then s
    else match (if fieldOf h 19 2 = 0 then accCheck d b set.tag 22 else some St.cmdInvalid) with
      | some e => tileFail s t e
      | none =>
        let esz := tagBytes set.tag
        if bitAt h 21 && blockPoisoned s t b esz then tileFail s t St.uncorrected else
        let addr := fun (c : Nat × Nat) => spKey t ((fieldOf w1 0 16 + c.1 * fieldOf w1 16 16) * 32 + c.2 * esz)
        let s1 := (blockCells (fieldOf w3 0 6) (fieldOf w3 8 6)).foldl (fun s c =>
          let v := accGet set c.1 c.2
          putBytes s (addr c) (leBytes esz (if bitAt h 21 then accAdd set.tag (leNat (getBytes s (addr c) esz)) v else v))) s
        matDone (noteWrites s1 r d.seq (cmdTargets s t x b).1) t (tileCmds d) (fieldOf h 17 2) false)

/-! ### The vector queue -/

/-- VEC: the program runs, its posts wait for the SCU (04 R104 to R128). -/
def tileVec (t : Nat) (s : State) : State :=
  withCommand s t 0x20 (fun s r d b =>
    let x := tileOf s t
    if 8 ≤ x.qvec.length then s
    else match runVec s t (tileMask d) (pfld s d.part Reg.scuSlots 0 13) x.vstat x.accs b with
      | .error e => tileFail s t e
      | .ok v =>
        let ovf := v.fl &&& 0x1E5 != 0
        let post := fun slot a => (Post.mk (tileDie t) d.part r d.seq (some t) slot a ovf)
        let ps := (if bitAt v.ctrl 0 then [post v.slots.1 v.a0] else []) ++ (if bitAt v.ctrl 1 then [post v.slots.2 v.a1] else [])
        let s1 := noteWrites { v.s with posts := v.s.posts ++ ps } r d.seq v.wrote
        advance (setTile s1 t { tileOf s1 t with
          vstat := v.vstat, qvec := (tileOf s1 t).qvec ++ [⟨x.cmds, v.sets, ps.length⟩], cmds := x.cmds + 1 }) t (tileCmds d))

/-! ### The DMA queue -/

/-- A burst of a DMA command: bytes `off` to `off + len - 1` of a row, within 4 KiB of memory and, of a transpose or an atomic add, within one
element (10 R342). -/
structure DmaMove where
  row : Nat
  off : Nat
  len : Nat
  deriving DecidableEq, Repr

/-- An address range cut at multiples of 4 KiB, as (offset, length) pieces. -/
def burstPieces : Nat → Nat → Nat → Nat → List (Nat × Nat)
  | 0, _, _, _ => []
  | f + 1, a, off, n =>
    if n = 0 then [] else
      let m := min n (4096 - a % 4096)
      (off, m) :: burstPieces f (a + m) (off + m) (n - m)

/-- The parts of a row whose elements have `esz` bytes, or of a row moved whole. -/
def DmaCmd.rowMoves (c : DmaCmd) (base esz r : Nat) : List DmaMove :=
  (List.range (c.rowBytes / esz)).flatMap (fun j =>
    (burstPieces (esz / 4096 + 2) (c.memAddr base r + j * esz) (j * esz) esz).map (fun x => ⟨r, x.1, x.2⟩))

/-- The unit in which a command moves its rows: an element of a transpose or of an atomic add, or a whole row. -/
def DmaCmd.unit (c : DmaCmd) (out : Bool) : Nat :=
  if c.mode = 0 then c.rowBytes else if !out then 2 ^ c.esize else if c.mode = 1 then 4 else 8

/-- The parts of the rows of a command. -/
def DmaCmd.moves (c : DmaCmd) (out : Bool) (base : Nat) (rows : List Nat) : List DmaMove := rows.flatMap (c.rowMoves base (c.unit out))

/-- Scratchpad address of a part: in its row, or in the slices of a transpose (03 R95). -/
def DmaCmd.spAddr (c : DmaCmd) (out : Bool) (m : DmaMove) : Nat :=
  if !out && c.mode = 1 then
    let esz := 2 ^ c.esize
    c.spa * 32 + (m.off / esz * c.sliceLen + m.row) * esz + m.off % esz
  else c.rowAddr m.row + m.off

/-- The elements of the slices of a transpose that no row fills become 0 (03 R95). -/
def DmaCmd.zeroFill (c : DmaCmd) (t : Nat) (s : State) : State :=
  if c.mode = 1 then
    let esz := 2 ^ c.esize
    (List.range (c.rowBytes / esz)).foldl (fun s j =>
      putBytes s (spKey t (c.spa * 32 + (j * c.sliceLen + c.rows) * esz)) (List.replicate ((c.sliceLen - c.rows) * esz) 0#8)) s
  else s

/-- The tile's DMA entry with a number, and the tile with its entries replaced. -/
def Tile.entry (x : Tile) (n : Nat) : Option DmaEntry := x.qdma.find? (fun e => e.no == n)
def Tile.mapDma (x : Tile) (f : DmaEntry → DmaEntry) : Tile := { x with qdma := x.qdma.map f }

/-- A part of a read: from this package's memory into the places `keys`, or asked of the fabric; the state with the request queued, and whether one
was (03 R85, 11 R360). -/
def moveIn (s : State) (t p a len : Nat) (keys : List Nat) (src : VatFrom) : Except MemErr (State × Nat) :=
  match xlate s p .r a with
  | some (.vat nd o pr) => .ok (pushVat s [⟨p, src, tileFdie t, nd, o, pr, 0, len, []⟩], 1)
  | _ => match readVa s p a len (some (tileDie t)) with
    | .error e => .error e
    | .ok bs => .ok (keys.foldl (fun s k => putBytes s k bs) s, 0)

/-- The Lake's FP32 or FP64 addition (09 R280). -/
def lakeFadd (bytes old v : Nat) : Nat := if bytes = 4 then (Fmt.fp32.add old v).1 else (Fmt.fp64.add old v).1

/-- One Lake atomic addition at a partition address (03 R97, 09 R279, R281). -/
def atomicAdd (p t esz a v : Nat) (s : State) : Except MemErr State :=
  if a % esz != 0 then .error (.addr a)
  else match xlateMem s p .a a with
    | none => .error (.addr a)
    | some k =>
      if !isHbm k then .error (.addr a)
      else if wayOff s (some (tileDie t)) k then .error (.off a k)
      else if memFenced s k then .error (.fenced a k)
      else if isBad s k esz then .error (.bad a k)
      else .ok (putAtomic s k (leBytes esz (lakeFadd esz (leNat (getBytes s k esz)) v)))

/-- A part of a DMA_OUT: a write, or one atomic add, of this package's memory or of the fabric's (03 R85, R97, 11 R360). -/
def moveOut (s : State) (t p mode a : Nat) (bs : List Byte) (src : VatFrom) : Except MemErr (State × Nat) :=
  match xlate s p (if mode = 0 then .w else .a) a with
  | some (.vat nd o pr) =>
    if mode != 0 && a % bs.length != 0 then .error (.addr a)
    else .ok (pushVat s [⟨p, src, tileFdie t, nd, o, pr, (if mode = 0 then 1 else 3), bs.length, bs⟩], 1)
  | _ => match (if mode = 0 then writeVa s p a bs (some (tileDie t)) else atomicAdd p t bs.length a (leNat bs) s) with
    | .error e => .error e
    | .ok s1 => .ok (s1, 0)

/-- The parts of a command in order, each by `f`: the state and the number of parts left to the fabric, or the state at the first that fails. -/
def runMoves (f : State → DmaMove → Except MemErr (State × Nat)) : List DmaMove → State × Nat → Except (State × MemErr) (State × Nat)
  | [], x => .ok x
  | m :: ms, (s, n) =>
    match f s m with
    | .error e => .error (s, e)
    | .ok (s1, k) => runMoves f ms (s1, n + k)

/-- A DMA command of a tile ran its parts: it waits for those that the fabric owes, or fails where one failed. -/
def movesEnd (t : Nat) (e : DmaEntry) : Except (State × MemErr) (State × Nat) → State
  | .error (s, er) => tileFailAt s t e.pos (memStatus St.tileAddress er) 0 (some er)
  | .ok (s, n) => setTile s t ((tileOf s t).mapDma (fun y => if y.no = e.no then { y with parts := n } else y))

/-- The tiles of a group whose multicast `n` has begun, each with its entry (03 R96). -/
def mcastBegun (s : State) (t n : Nat) : List (Nat × DmaEntry) :=
  (groupTiles t).filterMap (fun u => ((tileOf s u).qdma.find? (fun e => e.mcast == some n && e.begun)).map (fun e => (u, e)))

/-- The share of one tile in a multicast: the rows r with r mod 8 = i of its own command, each into every tile of the group at the place that
the tile's own matching command gives (03 R96). Every tile waits for the parts that the fabric owes. -/
def mcastShare (n : Nat) (es : List (Nat × DmaEntry)) (s : State) (x : Nat × DmaEntry) : State :=
  let c := DmaCmd.ofBytes x.2.cmd
  let keys := fun m => es.map (fun y => spKey y.1 ((DmaCmd.ofBytes y.2.cmd).spAddr false m))
  let p := match (tileOf s x.1).running.bind (fun q => findDesc s q.1 q.2) with | some d => d.part | none => 0
  match runMoves (fun s m => moveIn s x.1 p (c.memAddr x.2.base m.row + m.off) m.len (keys m) (.mcast x.1 n (keys m)))
      (c.moves false x.2.base ((List.range c.rows).filter (fun r => r % 8 == x.1 % 8))) (s, 0) with
  | .error (s1, er) => tileFailAt s1 x.1 x.2.pos (memStatus St.tileAddress er) 0 (some er)
  | .ok (s1, k) => es.foldl (fun s y =>
      setTile s y.1 ((tileOf s y.1).mapDma (fun e => if e.no = y.2.no then { e with parts := e.parts + k } else e))) s1

/-- A multicast runs once all 8 tiles of its group have begun it (03 R96). -/
def mcastRun (s : State) (t n : Nat) : State :=
  let es := mcastBegun s t n
  if es.length < 8 then s
  else
    let s1 := es.foldl (fun s y => setTile ((DmaCmd.ofBytes y.2.cmd).zeroFill y.1 s) y.1
      ((tileOf s y.1).mapDma (fun e => if e.no = y.2.no then { e with parts := 0 } else e))) s
    es.foldl (mcastShare n es) s1

/-- A DMA command begins (03 R86): a multicast waits for its group, any other moves its rows. -/
def dmaBegin (s : State) (t : Nat) (e : DmaEntry) : State :=
  let c := DmaCmd.ofBytes e.cmd
  let out := fieldOf (leField e.cmd 0 4) 0 8 == 0x31
  let s1 := setTile s t ((tileOf s t).mapDma (fun y => if y.no = e.no then { y with begun := true, parts := b2n e.mcast.isSome } else y))
  match e.mcast, (tileOf s t).running.bind (fun q => findDesc s q.1 q.2) with
  | some n, _ => mcastRun s1 t n
  | none, none => s1
  | none, some d =>
    let ms := c.moves out e.base (List.range c.rows)
    let at_ := fun (m : DmaMove) => c.memAddr e.base m.row + m.off
    let key := fun m => spKey t (c.spAddr out m)
    movesEnd t e (if out then
        runMoves (fun s m => if poisoned s (key m) m.len then .error (.bad (at_ m) (key m))
          else moveOut s t d.part c.mode (at_ m) (getBytes s (key m) m.len) (.tile t e.no 0)) ms (s1, 0)
      else runMoves (fun s m => moveIn s t d.part (at_ m) m.len [key m] (.tile t e.no (key m))) ms (c.zeroFill t s1, 0))

/-- The next DMA command of a tile, when every earlier one has landed and the tile has not stopped (03 R86, R91). -/
def dmaNext (x : Tile) : Option DmaEntry :=
  if x.stopped then none
  else match x.qdma.find? (fun e => !(e.begun && e.parts == 0)) with
    | some e => if e.begun then none else some e
    | none => none

/-- The DMA queues of a tile's group go on as far as they can; each round begins one command. -/
def dmaPump (t : Nat) : Nat → State → State
  | 0, s => s
  | n + 1, s =>
    match (groupTiles t).findSome? (fun u => (dmaNext (tileOf s u)).map (fun e => (u, e))) with
    | none => s
    | some (u, e) => dmaPump t n (dmaBegin s u e)

/-- The DMA queues of a tile's group go on: at most 16 commands in each of 8 queues. -/
def dmaRun (s : State) (t : Nat) : State := dmaPump t 128 s

/-- A DMA command enters the queue, which goes on with it when every earlier one has landed (03 R86). -/
def dmaQueue (s : State) (t r : Nat) (d : Desc) (b : List Byte) : State :=
  let x := tileOf s t
  let c := DmaCmd.ofBytes b
  let e : DmaEntry := ⟨x.cmds, x.pos, b, x.bases.getD c.slot 0, if c.mcast then some x.mcasts else none, false, 0⟩
  let y := { x with qdma := x.qdma ++ [e], cmds := x.cmds + 1, mcasts := if c.mcast then x.mcasts + 1 else x.mcasts }
  let s1 := advance (setTile (noteWrites s r d.seq (cmdRanges s d.part t x b)) t y) t (tileCmds d)
  dmaRun (if c.mcast then mcastOrphans s1 t else s1) t

/-- The DMA entries that a Vat request belongs to, as (tile, test of an entry): one tile's, or the multicast's in every tile of the group. -/
def dmaOwners : VatFrom → List Nat × (DmaEntry → Bool)
  | .tile t n _ => ([t], fun e => e.no == n)
  | .mcast t n _ => (groupTiles t, fun e => e.mcast == some n)
  | _ => ([], fun _ => false)

/-- The parts that the entries of a Vat request wait for change. -/
def dmaParts (s : State) (src : VatFrom) (f : Nat → Nat) : State :=
  let o := dmaOwners src
  o.1.foldl (fun s t => setTile s t ((tileOf s t).mapDma (fun e => if o.2 e then { e with parts := f e.parts } else e))) s

/-- A part of a DMA command has landed through the fabric: the data in its places, one part fewer, and the queues go on (03 R86, 11 R360). -/
def dmaLanded (s : State) (t : Nat) (src : VatFrom) (keys : List Nat) (bs : List Byte) : State :=
  dmaRun (dmaParts (keys.foldl (fun s k => putBytes s k bs) s) src (· - 1)) t

/-- The fabric failed a request of a tile's DMA command: the command fails at its own place in the stream (03 R91, 11 R375). -/
def dmaFail (s : State) (t : Nat) (src : VatFrom) (st : BitVec 16) (detail : Nat) : State :=
  tileFailAt s t (((tileOf s t).qdma.find? (dmaOwners src).2).elim (tileOf s t).pos (·.pos)) st detail

/-- DMA_IN (03 R84 to R89, R95, R96). -/
def tileDmaIn (t : Nat) (s : State) : State :=
  withCommand s t 0x30 (fun s r d b =>
    let c := DmaCmd.ofBytes b
    if 16 ≤ (tileOf s t).qdma.length then s
    else if !c.ok false b then tileFail s t St.cmdInvalid
    else if !c.boundsOk false (tileMask d) then tileFail s t St.scratchBounds
    else dmaQueue s t r d b)

/-- DMA_OUT (03 R85, R88, R97, 13 R430). -/
def tileDmaOut (t : Nat) (s : State) : State :=
  withCommand s t 0x31 (fun s r d b =>
    let c := DmaCmd.ofBytes b
    if 16 ≤ (tileOf s t).qdma.length then s
    else if !c.ok true b then tileFail s t St.cmdInvalid
    else if d.cf && c.mode != 0 then tileFail s t St.colourfast
    else if !c.boundsOk true (tileMask d) then tileFail s t St.scratchBounds
    else dmaQueue s t r d b)

/-! ### Completion and failure -/

/-- The queue of a tile without the command at its head, when that may complete (03 R72, R86, R88): a writer of a set once no earlier VEC reads it, a
VEC once its posts are accepted and no earlier command writes a set it reads, a DMA command once it has landed. -/
def Tile.complete (x : Tile) : QueueId → Option Tile
  | .mat => match x.qmat with
    | c :: rest =>
      if c.writes && x.qvec.any (fun v => decide (v.no < c.no) && v.sets.contains c.set) then none else some { x with qmat := rest }
    | [] => none
  | .vec => match x.qvec with
    | v :: rest =>
      if v.posts != 0 || x.qmat.any (fun c => c.writes && decide (c.no < v.no) && v.sets.contains c.set) then none
      else some { x with qvec := rest }
    | [] => none
  | .dma => match x.qdma with
    | e :: rest => if e.begun && e.parts == 0 then some { x with qdma := rest } else none
    | [] => none

/-- The command at the head of a queue completes (03 R86, R88). -/
def tileQueueComplete (t : Nat) (q : QueueId) (s : State) : State :=
  let x := tileOf s t
  match x.running, x.complete q with
  | some (r, seq), some y => tileFinish (setTile s t y) r seq
  | _, _ => s

/-- A Vat request of a tile is unanswered. -/
def vatBusy (s : State) (t : Nat) : Bool :=
  let mine := fun (f : VatFrom) => match f with
    | .tile u _ _ => u == t
    | .mcast u _ _ => u == t
    | .ldbase u => u == t
    | _ => false
  s.vatQueue.any (fun q => mine q.src) || s.srcPairs.any (fun e => e.2.reqs.any (fun q => mine q.src))

/-- The tiles of a failing or aborted descriptor are quiet: it completes with the status of the failing tile of lowest
logical ID, and the bytes that the descriptor wrote or was to write hold free values (03 R91, R92). -/
def tileQuiesce (r : Nat) (seq : BitVec 32) (s : State) : State :=
  match runningDesc s r seq 1 with
  | none => s
  | some d =>
    let ts := tilesOn s r seq
    if ts.any (fun t => vatBusy s t) then s else
    let firstFail := (ts.filterMap (fun t => (tileOf s t).failed)).head?
    let wrote := match d.work with | .tile l => l | _ => []
    match firstFail, d.struck, d.abort with
    | some (st, detail), _, _ => settleAll (completeOne (tileScramble s r d wrote) r d (BitVec.ofNat 16 st) detail false)
    | none, some st, _ => settleAll (completeOne (tileScramble s r d wrote) r d st 0 false)
    | none, none, true => settleAll (completeOne (tileScramble s r d wrote) r d St.aborted 0 false)
    | none, none, false => s

/-- The zeroing of a tile group is done: scratchpads and sets are 0 and tagged FP32 (03 R83). -/
def tileGroupZeroed (g : Nat) (s : State) : State :=
  if (groupOf s g).zeroing && !(match s.commit with | some w => !w.drained && w.groups.contains g | none => false) then
    let s1 := (List.range 8).foldl (fun s j =>
      let t := 8 * g + j
      setTile (zeroRange s (spKey t 0) (spKey (t + 1) 0)) t { tileOf s t with accs := List.replicate 4 AccSet.init }) s
    setGroup s1 g { groupOf s1 g with zeroing := false }
  else s

/-! ### Meanings -/

/-- Device tile IDs are 0 to 1,343 (03 R57). -/
def isTile (t : Nat) : Bool := decide (t < 1344)

/-- TILE_WORK. -/
def execTileWork (r : Nat) (seq : BitVec 32) (s : State) : Host.Outcome State Fault Refusal := onUnit (r < 4096) (tileWork r seq s)
/-- NOP. -/
def execNop (t : Nat) (s : State) : Host.Outcome State Fault Refusal := onUnit (isTile t) (tileNop t s)
/-- END. -/
def execEnd (t : Nat) (s : State) : Host.Outcome State Fault Refusal := onUnit (isTile t) (tileEnd t s)
/-- LOOP. -/
def execLoop (t : Nat) (s : State) : Host.Outcome State Fault Refusal := onUnit (isTile t) (tileLoop t s)
/-- SETBASE. -/
def execSetbase (t : Nat) (s : State) : Host.Outcome State Fault Refusal := onUnit (isTile t) (tileSetbase t s)
/-- ADDBASE. -/
def execAddbase (t : Nat) (s : State) : Host.Outcome State Fault Refusal := onUnit (isTile t) (tileAddbase t s)
/-- LDBASE. -/
def execLdbase (t : Nat) (s : State) : Host.Outcome State Fault Refusal := onUnit (isTile t) (tileLdbase t s)
/-- BAR. -/
def execBar (t : Nat) (s : State) : Host.Outcome State Fault Refusal := onUnit (isTile t) (tileBar t s)
/-- BAR_RELEASE. -/
def execBarRelease (t : Nat) (s : State) : Host.Outcome State Fault Refusal := onUnit (isTile t) (tileBarRelease t s)
/-- MMA_H. -/
def execMmaH (t : Nat) (s : State) : Host.Outcome State Fault Refusal := onUnit (isTile t) (tileMma false t s)
/-- MMA_D. -/
def execMmaD (t : Nat) (s : State) : Host.Outcome State Fault Refusal := onUnit (isTile t) (tileMma true t s)
/-- ACCLD. -/
def execAccld (t : Nat) (s : State) : Host.Outcome State Fault Refusal := onUnit (isTile t) (tileAccld t s)
/-- ACCST. -/
def execAccst (t : Nat) (s : State) : Host.Outcome State Fault Refusal := onUnit (isTile t) (tileAccst t s)
/-- VEC. -/
def execVec (t : Nat) (s : State) : Host.Outcome State Fault Refusal := onUnit (isTile t) (tileVec t s)
/-- DMA_IN. -/
def execDmaIn (t : Nat) (s : State) : Host.Outcome State Fault Refusal := onUnit (isTile t) (tileDmaIn t s)
/-- DMA_OUT. -/
def execDmaOut (t : Nat) (s : State) : Host.Outcome State Fault Refusal := onUnit (isTile t) (tileDmaOut t s)
/-- TILE_QUEUE_CMD_COMPLETE. -/
def execTileQueueCmdComplete (t : Nat) (q : QueueId) (s : State) : Host.Outcome State Fault Refusal :=
  onUnit (isTile t) (tileQueueComplete t q s)
/-- TILE_FAIL_QUIESCE. -/
def execTileFailQuiesce (r : Nat) (seq : BitVec 32) (s : State) : Host.Outcome State Fault Refusal := onUnit (r < 4096) (tileQuiesce r seq s)
/-- TILE_GROUP_ZEROED. -/
def execTileGroupZeroed (g : Nat) (s : State) : Host.Outcome State Fault Refusal := onUnit (g < 168) (tileGroupZeroed g s)

end Sys2Proof.Machine
end

