-- ==== Sys2Proof/Machine/Copy.lean ====
section
/-! DEFINITION. Copy engines: COPY, FILL and SEPIA in bursts of up to 4 KiB, and the Sepia generator (10 R330, 13 R439 to
R441). SNAPSHOT work moves in Snap.lean. -/

namespace Sys2Proof.Machine

/-- The P-die that holds the partition's slot, or P0 (10 R330). -/
def copyDie (s : State) (p : Nat) : Nat :=
  match partSlot s p with
  | some sl => sl / 4
  | none => 0

/-- The copy work of a descriptor. -/
def copyOf (d : Desc) : Option CopyWork := match d.work with | .copy w => some w | _ => none

/-- The copy engine that a descriptor runs on. -/
def engineOf (d : Desc) : Option Nat := match d.work with | .copy w => some w.engine | .snap w => some w.engine | _ => none

/-- Descriptors assigned to a copy engine. -/
def copyLoad (s : State) (e : Nat) : Nat := ((runningAll s).filter (fun x => engineOf x.2 == some e)).length

/-- The unfenced engine of the P-die with the fewest descriptors, the lowest-numbered on a tie (10 R330). -/
def copyPlace (s : State) (p : Nat) : Option Nat :=
  let es := ((List.range 4).map (· + 4 * copyDie s p)).filter (fun e => !fenced s 5 e)
  es.foldl (fun best e => match best with
    | none => some e
    | some b => if copyLoad s e < copyLoad s b then some e else some b) none

/-- Start of a descriptor on a copy engine; every engine of the P-die fenced fails it (10 R330, 14 Table 2). -/
def copyStart (s : State) (r : Nat) (d : Desc) (total : Nat) (key : Word) : State :=
  match copyPlace s d.part with
  | none => endFenced s r d
  | some e => startWork s r d (.copy ⟨e, total, 0, [], none, key⟩)

/-- COPY (10 R330). -/
def copyCopy (r : Nat) (seq : BitVec 32) (s : State) : State :=
  match startable s r seq 6 0 with
  | none => s
  | some d => copyStart s r d (d.fld 36 4 + 1) 0

/-- FILL (10 R330). -/
def copyFill (r : Nat) (seq : BitVec 32) (s : State) : State :=
  match startable s r seq 6 1 with
  | none => s
  | some d => copyStart s r d (d.fld 36 4 + 1) 0

/-! ### Sepia -/

/-- Rotation of a 64-bit value to the left. -/
def rotl64 (v n : Nat) : Nat := ((v * 2 ^ n) % 2 ^ 64) + v / 2 ^ (64 - n)

/-- The rounds of the Sepia generator (13 R439). -/
def sepiaRounds : Nat → Nat → Nat → Nat → Nat × Nat
  | 0, x0, x1, _ => (x0, x1)
  | n + 1, x0, x1, k =>
    let p := x0 * 0xA3C59AC2F1E4D78B
    sepiaRounds n ((p / 2 ^ 64) ^^^ x1 ^^^ k) (rotl64 (p % 2 ^ 64) 23) ((k + 0x8F3B6C1E5A7D9421) % 2 ^ 64)

/-- The 128-bit output of the Sepia generator, x0 in its low half (13 R439). -/
def sepia (k c : Nat) : Nat :=
  let (a, b) := sepiaRounds 12 (c % 2 ^ 64) (c / 2 ^ 64 % 2 ^ 64) k
  a + b * 2 ^ 64

/-- The 16 bytes of one index in an output form (13 Table 5). -/
def sepiaForm (form out : Nat) : List Byte :=
  match form with
  | 1 => (List.range 4).flatMap (fun j => leBytes 4 (Fmt.fp32.round false (fieldOf out (32 * j + 8) 24) (-24) false).1)
  | 2 => (List.range 2).flatMap (fun j => leBytes 8 (Fmt.fp64.round false (fieldOf out (64 * j + 11) 53) (-53) false).1)
  | _ => leBytes 16 out

/-- Bytes `off` to `off + n - 1` of a SEPIA descriptor's output; `n` and `off` are multiples of 16 (13 R440, R441). -/
def sepiaBytes (d : Desc) (key : Word) (off n : Nat) : List Byte :=
  (List.range (n / 16)).flatMap (fun i =>
    let ix := (d.fld 36 8 + off / 16 + i) % 2 ^ 64
    sepiaForm (fieldOf (d.fld 48 1) 2 2) (sepia key.toNat (ix + d.fld 32 4 * 2 ^ 64 + d.fld 28 4 * 2 ^ 96)))

/-- SEPIA: the key comes from the step and the seed sampled at the start (13 R440, R441). -/
def sepiaStart (r : Nat) (seq : BitVec 32) (s : State) : State :=
  match startable s r seq 0x0D 0 with
  | none => s
  | some d =>
    let fl := d.fld 48 1
    let step := if bitAt fl 4 then d.fld 20 8 else pfld s d.part Reg.detStep 0 64
    let seed := pfld s d.part (Reg.detSeed + 8 * (fl % 4)) 0 64
    copyStart s r d (16 * d.fld 44 4) (BitVec.ofNat 64 (seed ^^^ rotl64 step 17))

/-! ### Bursts -/

/-- Destination address of a copy, fill or Sepia descriptor. -/
def copyDst (d : Desc) : Nat := if d.engine = 0x0D then d.fld 50 6 else d.fld 28 8

/-- The pieces of the store that a descriptor writes from an offset on, as far as they translate. -/
def copyTail (s : State) (d : Desc) (off total : Nat) : List (Nat × Nat) :=
  (sectorsOf (copyDst d + off) (total - off)).filterMap (fun x => (xlateMem s d.part .w x.1).map (fun k => (k, x.2)))

/-- A copy engine's descriptor whose last burst has finished ends with its failure, its abort or OK (10 R330). -/
def copySettle (s : State) (r : Nat) (d : Desc) (w : CopyWork) : State :=
  if !w.flying.isEmpty then setDesc s r { d with work := .copy w }
  else match w.fail with
  | some (off, st, detail, er) =>
    let s1 := scramble s (copyTail s d (off / 4096 * 4096) w.total)
    match er with
    | some e => endMem s1 r d St.dmaAddress e detail
    | none => endDesc s1 r d st detail
  | none =>
    if d.abort then endDesc s r d St.aborted (w.next / 4096 * 4096)
    else if w.total ≤ w.next then settleAll (completeOne s r d St.ok 0 false)
    else setDesc s r { d with work := .copy w }

/-- A burst of a copy that fails, with its DETAIL and the failed access. -/
def CopyWork.failWith (w : CopyWork) (off : Nat) (st : BitVec 16) (detail : Nat) (er : Option MemErr) : CopyWork :=
  { w with
    fail := match w.fail with
      | some (o, t) => if off < o then some (off, st, detail, er) else some (o, t)
      | none => some (off, st, detail, er)
    flying := w.flying.filter (· != off) }

/-- A burst of a copy that fails; DETAIL is its offset rounded down to 4 KiB (10 R330). -/
def CopyWork.failAt (w : CopyWork) (off : Nat) (e : MemErr) : CopyWork := w.failWith off (memStatus St.dmaAddress e) (off / 4096 * 4096) (some e)

/-- The data of a burst written at its destination: this package's memory, or a Vat window (11 R360). -/
def copyPut (s : State) (r : Nat) (d : Desc) (w : CopyWork) (off : Nat) (bs : List Byte) : State :=
  match xlate s d.part .w (copyDst d + off) with
  | some (.vat nd o pr) =>
    setDesc { s with vatQueue := s.vatQueue ++ [⟨d.part, .dma r d.seq off bs.length, w.engine / 4, nd, o, pr, 1, bs.length, bs⟩] } r
      { d with work := .copy { w with flying := (w.flying.filter (· != off)) ++ [off] } }
  | _ =>
    match writeVa s d.part (copyDst d + off) bs with
    | .error e => copySettle s r d (w.failAt off e)
    | .ok s1 => copySettle s1 r d { w with flying := w.flying.filter (· != off) }

/-- The next burst of a descriptor: addresses are translated when it is issued (10 R330, R311). -/
def copyBurst (s : State) (r : Nat) (d : Desc) (w : CopyWork) (check : PathCheck) : State :=
  let off := w.next
  let n := min 4096 (w.total - off)
  let w1 := { w with next := off + n }
  if check = .persistent then
    copySettle s r d (w1.failWith off St.parity (off / 4096 * 4096) none)
  else
    let s1 := if check = .replayed then report s 0x01 1 5 (unitField 5 w.engine) (some d.part) (copyDst d + off) [11#8, 1#8] else s
    let d1 := if check = .replayed then { d with corrected := true } else d
    if d.engine = 0x0D then copyPut s1 r d1 w1 off (sepiaBytes d w.key off n)
    else if d.op = 1 then copyPut s1 r d1 w1 off ((List.range n).map (fun i => BitVec.ofNat 8 (leField d.bytes (40 + (off + i) % 8) 1)))
    else match xlate s d.part .r (d.fld 20 8 + off) with
      | some (.vat nd o pr) =>
        setDesc { s1 with vatQueue := s1.vatQueue ++ [⟨d.part, .dma r d.seq off n, w.engine / 4, nd, o, pr, 0, n, []⟩] } r
          { d1 with work := .copy { w1 with flying := w1.flying ++ [off] } }
      | _ =>
        match readVa s1 d.part (d.fld 20 8 + off) n with
        | .error e => copySettle s1 r d1 (w1.failAt off e)
        | .ok bs => copyPut s1 r d1 w1 off bs

/-- COPY. -/
def execCopy (r : Nat) (seq : BitVec 32) (s : State) : Host.Outcome State Fault Refusal := onUnit (r < 4096) (copyCopy r seq s)
/-- FILL. -/
def execFill (r : Nat) (seq : BitVec 32) (s : State) : Host.Outcome State Fault Refusal := onUnit (r < 4096) (copyFill r seq s)
/-- SEPIA. -/
def execSepia (r : Nat) (seq : BitVec 32) (s : State) : Host.Outcome State Fault Refusal := onUnit (r < 4096) (sepiaStart r seq s)

end Sys2Proof.Machine
end

