-- ==== Sys2Proof/Machine/Csr.lean ====
section
/-! DEFINITION. Control and status registers, traps and returns of the harts, as the RISC-V Privileged Architecture with the H extension
defines them (08 R232, R236, R242, R250; log entry 8). -/

namespace Sys2Proof.Machine

/-! ### Registers -/

def Csr.sstatus : Nat := 0x100
def Csr.stvec : Nat := 0x105
def Csr.sepc : Nat := 0x141
def Csr.scause : Nat := 0x142
def Csr.stval : Nat := 0x143
def Csr.satp : Nat := 0x180
def Csr.vsstatus : Nat := 0x200
def Csr.vstvec : Nat := 0x205
def Csr.vsepc : Nat := 0x241
def Csr.vscause : Nat := 0x242
def Csr.vstval : Nat := 0x243
def Csr.vsatp : Nat := 0x280
def Csr.mstatus : Nat := 0x300
def Csr.misa : Nat := 0x301
def Csr.medeleg : Nat := 0x302
def Csr.mtvec : Nat := 0x305
def Csr.mepc : Nat := 0x341
def Csr.mcause : Nat := 0x342
def Csr.mtval : Nat := 0x343
def Csr.mtval2 : Nat := 0x34B
def Csr.hstatus : Nat := 0x600
def Csr.hedeleg : Nat := 0x602
def Csr.htval : Nat := 0x643
def Csr.hgatp : Nat := 0x680
def Csr.qstat : Nat := 0x800
def Csr.qinfo : Nat := 0xCC0
def Csr.mhartid : Nat := 0xF14

/-- A hart. -/
def hartOf (s : State) (h : Nat) : Hart := sget (fun _ => Hart.init) s.harts h

/-- The state with a hart replaced. -/
def setHart (s : State) (h : Nat) (v : Hart) : State := { s with harts := sset (fun _ => Hart.init) s.harts h v }

/-- The stored value of a register. -/
def Hart.csrw (x : Hart) (n : Nat) : Nat := (sget (fun _ => 0) x.csr n).toNat

/-- A field of a register. -/
def Hart.cfld (x : Hart) (n lo len : Nat) : Nat := fieldOf (x.csrw n) lo len

/-- The hart with a register replaced. -/
def Hart.setCsr (x : Hart) (n v : Nat) : Hart := { x with csr := sset (fun _ => 0) x.csr n (BitVec.ofNat 64 v) }

/-- The hart with fields of a register replaced, each given as (lowest bit, width, value). -/
def Hart.setFlds (x : Hart) (n : Nat) (l : List (Nat × Nat × Nat)) : Hart :=
  x.setCsr n (l.foldl (fun w f => setFieldOf w f.1 f.2.1 f.2.2) (x.csrw n))

/-- The hart runs as a guest. -/
def Hart.guest (x : Hart) : Bool := x.mode == .vs || x.mode == .vu

/-- XS of mstatus: 0 Off, 1 Initial, 2 Clean, 3 Dirty (08 R242). -/
def Hart.xs (x : Hart) : Nat := x.cfld Csr.mstatus 15 2

/-- XS of vsstatus. -/
def Hart.vsxs (x : Hart) : Nat := x.cfld Csr.vsstatus 15 2

/-- The extension is switched on for the hart's mode (08 R242). -/
def xsOn (x : Hart) : Bool := x.xs != 0 && (!x.guest || x.vsxs != 0)

/-- XS becomes Dirty, in mstatus and for a guest in vsstatus too (08 R242). -/
def Hart.dirty (x : Hart) : Hart :=
  let y := x.setFlds Csr.mstatus [(15, 2, 3)]
  if x.guest then y.setFlds Csr.vsstatus [(15, 2, 3)] else y

/-- The hart ID that a core reads from mhartid: 48 d + its logical ID on P-die d (08 R232). -/
def mhartid (d l : Nat) : Nat := 48 * d + l

/-! ### General registers -/

/-- An integer register; x0 reads 0. -/
def xReg (x : Hart) (r : Nat) : Word := if r = 0 then 0 else sget (fun _ => 0) x.x r

/-- The hart after a write of an integer register; a write to x0 is discarded. -/
def setX (x : Hart) (r : Nat) (v : Word) : Hart := if r = 0 then x else { x with x := sset (fun _ => 0) x.x r v }

/-- fflags joined with the flags of a result, which number IV, DZ, OF, UF and NX from bit 0 up (08 R238, Table 2). -/
def accrue (x : Hart) (fl : Nat) : Hart :=
  let b := fun i j => b2n (bitAt fl i) * 2 ^ j
  { x with fcsr := x.fcsr ||| (b 0 4 + b 1 3 + b 2 2 + b 3 1 + b 4 0) }

/-- The hart past an instruction of `len` bytes. -/
def Hart.skip (x : Hart) (len : Nat) : Hart := { x with pc := x.pc + BitVec.ofNat 64 len }

/-- The floating-point state is switched on for the hart's mode. -/
def fsOn (x : Hart) : Bool := x.cfld Csr.mstatus 13 2 != 0 && (!x.guest || x.cfld Csr.vsstatus 13 2 != 0)

/-- FS becomes Dirty, in mstatus and for a guest in vsstatus too. -/
def Hart.dirtyFs (x : Hart) : Hart :=
  let y := x.setFlds Csr.mstatus [(13, 2, 3)]
  if x.guest then y.setFlds Csr.vsstatus [(13, 2, 3)] else y

/-- The bits of a floating-point register. -/
def fReg (x : Hart) (r : Nat) : Nat := (sget (fun _ => 0) x.f r).toNat

/-- The hart after a write of a value of `n` bytes to a floating-point register: a narrower one is boxed by ones above. -/
def setF (x : Hart) (r n v : Nat) : Hart :=
  { x.dirtyFs with f := sset (fun _ => 0) x.f r (BitVec.ofNat 64 (if n = 4 then 0xFFFFFFFF00000000 + v % 2 ^ 32 else v)) }

/-- The hart after a write of a short-vector register: XS becomes Dirty (08 R242). -/
def setQ (x : Hart) (r v : Nat) : Hart := { x.dirty with q := sset (fun _ => 0) x.q r (BitVec.ofNat 128 v) }

/-- The next instruction. -/
def Hart.next (x : Hart) : Hart := { x with pc := x.pc + 4 }

/-- Bytes of the instruction whose value goes to a destination; a memory command names none. -/
def HartDest.len : HartDest → Nat
  | .value => 0
  | .q _ => 4
  | .x _ _ _ len | .f _ _ len => len

/-- The hart with a value in its destination, extended from its bytes. -/
def Hart.put (x : Hart) : HartDest → Nat → Hart
  | .value, v => { x with reply := BitVec.ofNat 128 v }
  | .q r, v => setQ x r v
  | .x r n signed _, v => setX x r (if signed then BitVec.ofInt 64 (toSigned (8 * n) (v % 2 ^ (8 * n))) else BitVec.ofNat 64 v)
  | .f r n _, v => setF x r n v

/-! ### Traps -/

/-- The mode that takes an exception: M, unless medeleg delegates it and it did not happen in M, and then HS, or VS where a guest's exception
is delegated by hedeleg too. -/
def Hart.trapMode (x : Hart) (cause : Nat) : Priv :=
  if x.mode = .m || !bitAt (x.csrw Csr.medeleg) cause then .m
  else if x.guest && bitAt (x.csrw Csr.hedeleg) cause then .vs
  else .hs

/-- The nominal privilege of a mode, as the previous-privilege fields hold it. -/
def Priv.level : Priv → Nat
  | .m => 3
  | .hs | .vs => 1
  | .u | .vu => 0

/-- The address in a trap vector register, its mode bits cleared. -/
def Hart.vector (x : Hart) (n : Nat) : Word := BitVec.ofNat 64 (x.csrw n / 4 * 4)

/-- The hart after an exception: the pc, the cause, the value and the previous mode saved in the registers of the mode that takes it, its
interrupts off, and the pc at its vector. `gpa` is the guest physical address of a guest page fault, else 0. -/
def Hart.trapped (x : Hart) (cause : Nat) (tval : Word) (gpa : Nat) : Hart :=
  let gva := b2n (x.guest && !([2, 8, 9, 10, 22].contains cause))
  let prev := x.mode.level
  match x.trapMode cause with
  | .hs =>
    let y := (((x.setCsr Csr.sepc x.pc.toNat).setCsr Csr.scause cause).setCsr Csr.stval tval.toNat).setCsr Csr.htval (gpa / 4)
    let z := y.setFlds Csr.mstatus [(5, 1, x.cfld Csr.mstatus 1 1), (1, 1, 0), (8, 1, prev)]
    { z.setFlds Csr.hstatus ([(6, 1, gva), (7, 1, b2n x.guest)] ++ if x.guest then [(8, 1, prev)] else []) with
      mode := .hs, pc := x.vector Csr.stvec }
  | .vs =>
    let y := ((x.setCsr Csr.vsepc x.pc.toNat).setCsr Csr.vscause cause).setCsr Csr.vstval tval.toNat
    { y.setFlds Csr.vsstatus [(5, 1, x.cfld Csr.vsstatus 1 1), (1, 1, 0), (8, 1, prev)] with mode := .vs, pc := x.vector Csr.vstvec }
  | _ =>
    let y := (((x.setCsr Csr.mepc x.pc.toNat).setCsr Csr.mcause cause).setCsr Csr.mtval tval.toNat).setCsr Csr.mtval2 (gpa / 4)
    { y.setFlds Csr.mstatus [(7, 1, x.cfld Csr.mstatus 3 1), (3, 1, 0), (11, 2, prev), (38, 1, gva), (39, 1, b2n x.guest)] with
      mode := .m, pc := x.vector Csr.mtvec }

/-- The hart takes an exception. -/
def trap (s : State) (h cause : Nat) (tval : Word) : State := setHart s h ((hartOf s h).trapped cause tval 0)

/-- An exception whose value register is open: RISC-V lets it be 0 or the instruction, so it is a free value (log entry 8). -/
def trapOpen (s : State) (h cause : Nat) : State :=
  let (v, s1) := fresh s
  trap s1 h cause v

/-- An illegal-instruction exception. -/
def illegal (s : State) (h : Nat) : State := trapOpen s h 2

/-- A mode from the previous-privilege and virtualization fields. -/
def privOf (level : Nat) (v : Bool) : Priv :=
  if level = 3 then .m else if level = 1 then (if v then .vs else .hs) else if v then .vu else .u

/-- MRET. -/
def Hart.mret (x : Hart) : Hart :=
  let st := Csr.mstatus
  let l := x.cfld st 11 2
  { x.setFlds st ([(3, 1, x.cfld st 7 1), (7, 1, 1), (11, 2, 0), (39, 1, 0)] ++ if l = 3 then [] else [(17, 1, 0)]) with
    mode := privOf l (x.cfld st 39 1 == 1), pc := BitVec.ofNat 64 (x.csrw Csr.mepc) }

/-- SRET, in HS or M mode from sstatus and hstatus, in VS mode from vsstatus. -/
def Hart.sret (x : Hart) : Hart :=
  if x.mode = .vs then
    let st := Csr.vsstatus
    { x.setFlds st [(1, 1, x.cfld st 5 1), (5, 1, 1), (8, 1, 0)] with
      mode := privOf (x.cfld st 8 1) true, pc := BitVec.ofNat 64 (x.csrw Csr.vsepc) }
  else
    let st := Csr.mstatus
    let y := x.setFlds st [(1, 1, x.cfld st 5 1), (5, 1, 1), (8, 1, 0), (17, 1, 0)]
    { y.setFlds Csr.hstatus [(7, 1, 0)] with
      mode := privOf (x.cfld st 8 1) (x.cfld Csr.hstatus 7 1 == 1), pc := BitVec.ofNat 64 (x.csrw Csr.sepc) }

/-! ### Accesses to registers -/

/-- The registers of the H extension and the machine level that hold what is written to them. -/
def csrPlain : List Nat :=
  [0x104, 0x106, 0x10A, 0x140, 0x144, 0x142, 0x143, 0x204, 0x240, 0x242, 0x243, 0x244, 0x302, 0x303, 0x304, 0x306, 0x30A, 0x320, 0x340, 0x342,
    0x343, 0x344, 0x34A, 0x34B, 0x602, 0x603, 0x604, 0x606, 0x60A, 0x643, 0x644, 0x645, 0x64A, 0xB00, 0xB02]

/-- Every register that an access may name, with the fcsr views, the extension's two and the counters and identity words. -/
def csrAll : List Nat :=
  csrPlain ++ [1, 2, 3, Csr.qstat, Csr.qinfo, Csr.sstatus, Csr.stvec, Csr.sepc, Csr.satp, Csr.vsstatus, Csr.vstvec, Csr.vsepc, Csr.vsatp,
    Csr.mstatus, Csr.misa, Csr.mtvec, Csr.mepc, Csr.hstatus, Csr.hgatp, Csr.mhartid, 0xC00, 0xC01, 0xC02, 0xF11, 0xF12, 0xF13, 0xF15]

/-- The register that a number names in a mode: in VS mode a supervisor register is its virtual one. -/
def Hart.csrNo (x : Hart) (n : Nat) : Nat :=
  if x.mode = .vs && [0x100, 0x104, 0x105, 0x140, 0x141, 0x142, 0x143, 0x144, 0x180].contains n then n + 0x100 else n

/-- The exception of an access to a register by a mode: 2 illegal instruction, 22 virtual instruction, none when it is allowed. QSTAT needs
XS (08 R242) and fcsr FS; TVM and VTVM guard the translation registers. -/
def Hart.csrRefused (x : Hart) (n : Nat) (write : Bool) : Option Nat :=
  let lvl := fieldOf n 8 2
  if !csrAll.contains n || (write && fieldOf n 10 2 == 3) || (n == Csr.qstat && !xsOn x) ||
    ([1, 2, 3].contains n && !fsOn x) then some 2
  else match x.mode with
  | .m => none
  | .hs => if 2 < lvl || ([Csr.satp, Csr.hgatp].contains n && x.cfld Csr.mstatus 20 1 == 1) then some 2 else none
  | .u => if lvl = 0 then none else some 2
  | .vs => if n = Csr.satp ∧ x.cfld Csr.hstatus 20 1 = 1 then some 22 else if lvl ≤ 1 then none else if lvl = 2 then some 22 else some 2
  | .vu => if lvl = 0 then none else if lvl ≤ 2 then some 22 else some 2

/-- Writable fields of mstatus, of its view sstatus, of vsstatus and of hstatus. -/
def mstatusMask : Nat := 0xC0007FF9AA
def sstatusMask : Nat := 0xDE122
def hstatusMask : Nat := 0x7003C0

/-- SD and the fixed width fields that a status register reads with. -/
def statusRead (w fixed : Nat) : Nat := w ||| fixed ||| (if fieldOf w 13 2 = 3 ∨ fieldOf w 15 2 = 3 then 2 ^ 63 else 0)

/-- QINFO (08): version 1, 128-bit registers, 16 elements at most, SAD and PAIR present. -/
def qinfoValue : Nat := 1 + 128 * 2 ^ 8 + 16 * 2 ^ 16 + 2 ^ 21 + 2 ^ 22

/-- misa: RV64 with A, C, D, F, H, I, M, S, U and non-standard extensions. -/
def misaValue : Nat := 2 ^ 63 + [0, 2, 3, 5, 7, 8, 12, 18, 20, 23].foldl (fun m b => m + 2 ^ b) 0

/-- The value of a register; none for a counter or an identity word of the implementation, whose value is open. -/
def Hart.csrRead (x : Hart) (h n : Nat) : Option Nat :=
  if n = 1 then some (x.fcsr % 32) else if n = 2 then some (x.fcsr / 32 % 8) else if n = 3 then some (x.fcsr % 256)
  else if n = Csr.qstat then some x.qstat.toNat else if n = Csr.qinfo then some qinfoValue
  else if n = Csr.mhartid then some (mhartid (h / 48) (h % 48)) else if n = Csr.misa then some misaValue
  else if n = Csr.mstatus then some (statusRead (x.csrw n) 0xA00000000)
  else if n = Csr.sstatus then some (statusRead (x.csrw Csr.mstatus &&& sstatusMask) 0x200000000)
  else if n = Csr.vsstatus then some (statusRead (x.csrw n) 0x200000000)
  else if n = Csr.hstatus then some (x.csrw n ||| 0x200000000)
  else if [0xB00, 0xB02, 0xC00, 0xC01, 0xC02, 0xF11, 0xF12, 0xF13, 0xF15].contains n then none
  else some (x.csrw n)

/-- A word with the fields of `mask` taken from a value. -/
def maskWrite (old mask v : Nat) : Nat := (old &&& (2 ^ 64 - 1 - mask)) ||| (v &&& mask)

/-- The hart after a write of a register. -/
def Hart.csrWrite (x : Hart) (n v : Nat) : Hart :=
  if n = 1 then { x.dirtyFs with fcsr := setFieldOf x.fcsr 0 5 v } else if n = 2 then { x.dirtyFs with fcsr := setFieldOf x.fcsr 5 3 v }
  else if n = 3 then { x.dirtyFs with fcsr := v % 256 }
  else if n = Csr.qstat then { x with qstat := BitVec.ofNat 64 (v % 2) }
  else if n = Csr.misa then x
  else if n = Csr.mstatus then
    x.setCsr n (maskWrite (x.csrw n) (if fieldOf v 11 2 = 2 then mstatusMask &&& (2 ^ 64 - 1 - 0x1800) else mstatusMask) v)
  else if n = Csr.sstatus then x.setCsr Csr.mstatus (maskWrite (x.csrw Csr.mstatus) sstatusMask v)
  else if n = Csr.vsstatus then x.setCsr n (maskWrite (x.csrw n) sstatusMask v)
  else if n = Csr.hstatus then x.setCsr n (maskWrite (x.csrw n) hstatusMask v)
  else if [Csr.satp, Csr.vsatp, Csr.hgatp].contains n then (if [0, 9].contains (fieldOf v 60 4) then x.setCsr n v else x)
  else if [Csr.mepc, Csr.sepc, Csr.vsepc].contains n then x.setCsr n (v / 2 * 2)
  else if [Csr.mtvec, Csr.stvec, Csr.vstvec].contains n then x.setCsr n (setFieldOf v 1 1 0)
  else if n = Csr.medeleg then x.setCsr n (setFieldOf v 11 1 0)
  else if n = Csr.hedeleg then x.setCsr n (setFieldOf (setFieldOf v 9 3 0) 20 4 0)
  else x.setCsr n v

/-- The value that a CSR instruction writes. -/
def csrValue (old v : Nat) : Sys2Proof.CsrHow → Nat
  | .read => old
  | .write => v
  | .set => old ||| v
  | .clear => old &&& (2 ^ 64 - 1 - v)

/-- A CSR instruction: the register's old value is returned, and an access that its mode may not make traps. -/
def hartCsr (s : State) (h num : Nat) (how : CsrHow) (v : Nat) : State :=
  let x := hartOf s h
  let n := x.csrNo num
  match x.csrRefused num (how != .read) with
  | some cause => trapOpen s h cause
  | none =>
    let r := match x.csrRead h n with
      | some o => (o, s)
      | none => ((fresh s).1.toNat, (fresh s).2)
    setHart r.2 h { (if how = .read then x else x.csrWrite n (csrValue r.1 v how)) with reply := BitVec.ofNat 128 r.1 }

/-- MRET, SRET and HFENCE.GVMA, with the exception of a mode that may not run them. No translation is cached, so the fence leaves everything
as it is. -/
def hartSystem (s : State) (h : Nat) (op : Sys2Proof.HartOp) : State :=
  let x := hartOf s h
  match op with
  | .mret => if x.mode = .m then setHart s h x.mret else illegal s h
  | .sret =>
    if x.mode = .vu || (x.mode == .vs && x.cfld Csr.hstatus 22 1 == 1) then trapOpen s h 22
    else if x.mode = .u || (x.mode == .hs && x.cfld Csr.mstatus 22 1 == 1) then illegal s h
    else setHart s h x.sret
  | .hfence =>
    if x.guest then trapOpen s h 22 else if x.mode = .u || (x.mode == .hs && x.cfld Csr.mstatus 20 1 == 1) then illegal s h else s
  | _ => s

end Sys2Proof.Machine
end

