-- ==== Sys2Proof/Machine/Ports.lean ====
section
/-! DEFINITION. Fabric ports: bring-up, discovery, flits, drains and spare lanes (11 R344 to R357). -/

namespace Sys2Proof.Machine

/-! ### Port state -/

/-- A port beside its registers. -/
def portOf (s : State) (p : Nat) : Port := sget (fun _ => Port.init) s.ports p

/-- The state with a port replaced. -/
def setPort (s : State) (p : Nat) (v : Port) : State := { s with ports := sset (fun _ => Port.init) s.ports p v }

/-- STATE of a port (11 Table 4). -/
def portState (s : State) (p : Nat) : Nat := ofld s (Reg.fabPortStatus + 8 * p) 0 3

/-- Role, direction and index that a port runs with: those of its last bring-up, or those that its next one will take (11 R345). -/
def portCfg (s : State) (p : Nat) : Nat := if portState s p = 0 then ofld s (Reg.fabPortCfg + 8 * p) 0 7 else (portOf s p).cfg

/-- ROLE of a port (11 Table 1). -/
def portRole (s : State) (p : Nat) : Nat := fieldOf (portCfg s p) 0 3

/-- ADMIN_UP of a port. -/
def portAdmin (s : State) (p : Nat) : Bool := ofld s (Reg.fabPortCfg + 8 * p) 8 1 == 1

/-- The port runs Jarip link. -/
def isJarip (s : State) (p : Nat) : Bool := portRole s p == 1 || portRole s p == 2

/-- The route epoch (11 R379). -/
def routeEpoch (s : State) : Nat := ofld s Reg.fabRouteStatus 0 16

/-- Something goes out on a port or to the management bus. -/
def emit (s : State) (w : Wire) : State := { s with wire := s.wire ++ [w] }

/-- One more route epoch (11 R379). -/
def bumpEpoch (s : State) : State := setRfld s (okey Reg.fabRouteStatus) 0 16 (routeEpoch s + 1)

/-- The three effects of a change of a port's state or of its partner: a PORT_EVENT record, CHANGED, and the route
epoch; PORTS_UP follows the states (11 R352). -/
def portEvent (s : State) (p old new : Nat) : State :=
  let st := okey (Reg.fabPortStatus + 8 * p)
  let s1 := bumpEpoch (setRfld s st 9 1 1)
  let s2 := setRfld s1 (okey Reg.fabRouteStatus) (16 + p) 1 (b2n (new == 4 || new == 7))
  report s2 0x07 0 10 (unitField 10 p) none 0
    (leBytes 1 p ++ leBytes 1 old ++ leBytes 1 new ++ leBytes 1 (rfld s2 st 4 4) ++ leBytes 2 (rfld s2 st 16 12) ++ leBytes 2 0 ++
      leBytes 4 (rfld s2 st 32 18) ++ leBytes 2 (routeEpoch s2))

/-- The port enters a state (11 R352); a port that is DOWN has no active lane. -/
def setPortState (s : State) (p new : Nat) : State :=
  let k := okey (Reg.fabPortStatus + 8 * p)
  let old := portState s p
  if old = new then s
  else
    let s1 := setRfld s k 0 3 new
    portEvent (if new = 0 then setRfld s1 k 4 4 0 else s1) p old new

/-- The link of a port is gone: flits, lane maps and credits start again (11 R348, R350). -/
def linkDrop (s : State) (p : Nat) : State :=
  setPortState (setPort s p { Port.init with bad := (portOf s p).bad, spares := (portOf s p).spares, worn := (portOf s p).worn }) p 0

/-- A port may train: administratively up, a role of Table 1, its F-die on, block 1 of the configuration valid and no test
instruction selected (11 R348, 15 R513, 16 R541). -/
def mayTrain (s : State) (p : Nat) : Bool :=
  portAdmin s p && decide (1 ≤ portRole s p) && decide (portRole s p ≤ 4) && domainOpen s (4 + p / 8) &&
    ofld s Reg.cfgStatus 9 1 == 0 && !s.tapHeld && s.warm == 0 && alive s && decide (stage s < 4) && !fenced s 10 p

/-- Training begins; the role, direction and index of FAB_PORT_CFG take effect (11 R345, R348). -/
def startTrain (s : State) (p : Nat) : State :=
  if mayTrain s p then setPortState (setPort s p { portOf s p with cfg := ofld s (Reg.fabPortCfg + 8 * p) 0 7 }) p 1 else s

/-- The lanes a port can run: 8, 4 on a half without a failed lane that no spare carries, or 0 (11 R357). -/
def usableLanes (x : Port) : Nat :=
  let bad := x.bad.filter (fun l => !x.spares.any (fun e => e.1 == l))
  if bad.isEmpty then 8 else if bad.all (fun l => decide (4 ≤ l)) || bad.all (fun l => decide (l < 4)) then 4 else 0

/-! ### Flits and packets -/

/-- A flit (11 Table 5). -/
def flitBytes (fseq fack ftype : Nat) (payload : List Byte) : List Byte :=
  let b := leBytes 4 (fseq % 4096 + fack % 4096 * 4096 + ftype * 2 ^ 24) ++ (payload ++ List.replicate (248 - payload.length) 0#8)
  b ++ leBytes 4 (crc32c b)

/-- Bytes go out in flits, packed back to back; the last 1,024 flits are kept for replay, and the rest of the last payload is 0 (11 R349; log
entry 15). -/
def sendFlits (p : Nat) : Nat → List Byte → State → State
  | 0, _, s => s
  | n + 1, bs, s =>
    if bs.isEmpty then s
    else
      let x := portOf s p
      let f := flitBytes x.txSeq x.rxLast 0 (bs.take 248)
      let kept := x.sent ++ [f]
      sendFlits p n (bs.drop 248) (setPort (emit s (.flit p f)) p { x with txSeq := (x.txSeq + 1) % 4096, sent := kept.drop (kept.length - 1024) })

/-- Bytes leave through a port. -/
def sendBytes (s : State) (p : Nat) (bs : List Byte) : State := sendFlits p (bs.length / 248 + 1) bs s

/-- The bytes of a packet (11 Table 7). -/
def packetBytes (k : Packet) : List Byte :=
  layoutBytes 32 [(0, 1, k.ptype.toNat), (1, 1, k.vl.toNat + 4 * b2n k.vc + 8 * b2n k.aged + 16 * b2n k.detour), (2, 2, k.age.toNat),
    (4, 2, k.dest.toNat), (6, 2, k.src.toNat + 4096 * k.spart.toNat + 32768 * b2n k.sfdie), (8, 2, k.seq.toNat), (10, 2, k.epoch.toNat),
    (12, 2, k.job.toNat), (14, 2, k.len.toNat), (16, 4, k.key.toNat), (20, 6, k.offset.toNat), (26, 1, k.aop.toNat), (27, 1, k.hops.toNat)]
    ++ k.data

/-- The bytes that follow a header of the given TYPE, LEN and AOP: the data of a WRITE or READ_RESP, an atomic's operand and compare value, the
control and payload of a Mordant packet, a discovery record (11 R365). -/
def bytesAfter (ptype len aop : Nat) : Nat :=
  if ptype = 2 then 2 ^ fieldOf aop 4 3 * (if aop % 16 = 11 then 2 else 1)
  else if ptype = 1 || ptype = 3 || ptype = 8 || ptype = 10 then len + 1 else 0

/-- The packet that starts a byte string, and the rest of the string; none where its end has not arrived (11 Table 7). -/
def packetAt (bs : List Byte) : Option (Packet × List Byte) :=
  let f := leField bs
  let n := 32 + bytesAfter (f 0 1) (f 14 2 % 4096) (f 26 1)
  if bs.length < 32 || bs.length < n then none
  else some (⟨BitVec.ofNat 8 (f 0 1), BitVec.ofNat 2 (f 1 1), bitAt (f 1 1) 2, bitAt (f 1 1) 3, bitAt (f 1 1) 4, BitVec.ofNat 16 (f 2 2), BitVec.ofNat 12 (f 4 2),
    BitVec.ofNat 12 (f 6 2), BitVec.ofNat 3 (fieldOf (f 6 2) 12 3), bitAt (f 6 2) 15, BitVec.ofNat 16 (f 8 2), BitVec.ofNat 16 (f 10 2), BitVec.ofNat 16 (f 12 2),
    BitVec.ofNat 12 (f 14 2), BitVec.ofNat 32 (f 16 4), BitVec.ofNat 48 (f 20 6), BitVec.ofNat 8 (f 26 1), BitVec.ofNat 8 (f 27 1), (bs.drop 32).take (n - 32)⟩,
    bs.drop n)

/-- No packet starts with these bytes: a TYPE that Table 7 does not list, or a READ in virtual lane 0, which carries none; they fill a payload that the
last packet left open (11 Tables 3 and 7; log entry 15). -/
def fillAt (bs : List Byte) : Bool := decide (10 < leField bs 0 1) || (leField bs 0 1 == 0 && leField bs 1 1 % 4 == 0)

/-- The whole packets of a byte string, and the start of one whose end has not arrived (11 R349). -/
def unpackPackets : Nat → List Byte → List Packet × List Byte
  | 0, bs => ([], bs)
  | n + 1, bs =>
    if bs.isEmpty || fillAt bs then ([], [])
    else match packetAt bs with
      | none => ([], bs)
      | some (k, rest) => (k :: (unpackPackets n rest).1, (unpackPackets n rest).2)

/-- Credits that the partner has left on a virtual lane. -/
def Port.credit (x : Port) (vl : Nat) : Nat := (x.credits.getD vl 0).toNat

/-- The packet that leaves next among those that wait at a port: of the lanes with a credit, VL0 first, then VL1, then the oldest of VL2 and VL3 (11 Table
3); a packet waits for its own lane alone (11 R347). -/
def Port.nextHeld (x : Port) : Option Packet :=
  let at_ := fun l => x.held.find? (fun k => k.vl.toNat == l && decide (0 < x.credit l))
  match at_ 0 with
  | some k => some k
  | none => match at_ 1 with
    | some k => some k
    | none => x.held.find? (fun k => decide (0 < x.credit k.vl.toNat))

/-- Packets that have a credit each spend one and leave (11 R347; log entry 15). -/
def takeHeld : Nat → Port → List Packet × Port
  | 0, x => ([], x)
  | n + 1, x => match x.nextHeld with
    | none => ([], x)
    | some k =>
      let r := takeHeld n { x with held := x.held.erase k, credits := x.credits.modify k.vl.toNat (· - 1) }
      (k :: r.1, r.2)

/-- The packets at a port that have credits leave, back to back. -/
def pumpPort (s : State) (p : Nat) : State :=
  let r := takeHeld (portOf s p).held.length (portOf s p)
  let s1 := r.1.foldl (fun s k => emit s (.packet (some p) k)) (setPort s p r.2)
  sendBytes s1 p (r.1.flatMap packetBytes)

/-- A packet goes to a port, and leaves once its virtual lane has a credit (11 R347). -/
def portSend (s : State) (p : Nat) (k : Packet) : State := pumpPort (setPort s p { portOf s p with held := (portOf s p).held ++ [k] }) p

/-- A DRAIN or DISCOVERY packet, which concerns the link alone, leaves with no credit (log entry 15). -/
def linkSend (s : State) (p : Nat) (k : Packet) : State := sendBytes (emit s (.packet (some p) k)) p (packetBytes k)

/-- A port that enters UP has the credits that its partner grants at first, which the spec does not give: free values (log entry 15). -/
def grantCredits (s : State) (p : Nat) : State :=
  let s1 := setPort s p { portOf s p with credits := (List.range 4).map (fun i => Config.freeValue (s.freeCount + i)) }
  { s1 with freeCount := s1.freeCount + 4 }

/-! ### Administration -/

/-- A write to FAB_PORT_CFG_p through view 8 with ADMIN_UP as wanted: a role changes only while the port is
administratively down (11 R345). -/
def portWrite (view p : Nat) (v : Word) (s : State) : State :=
  let off := Reg.fabPortCfg + 8 * p
  let keep := if portAdmin s p then setFieldOf v.toNat 0 7 (ofld s off 0 7) else v.toNat
  storeWord s view off keep

/-- PORT_ADMIN_UP (11 R348). -/
def portAdminUp (view p : Nat) (v : Word) (s : State) : State :=
  if view ≠ 8 || !bitAt v.toNat 8 || !alive s then s
  else
    let was := portAdmin s p
    let s1 := portWrite view p v s
    if was then s1 else startTrain s1 p

/-- Take a port down without loss: an UP port sends DRAIN and drains; any other goes DOWN at once (11 R353). -/
def drainPort (s : State) (p : Nat) : State :=
  if portState s p = 4 then
    let d : Packet := ⟨9, 0, false, false, false, 0, BitVec.ofNat 12 (ofld s (Reg.fabPortStatus + 8 * p) 16 12), BitVec.ofNat 12 (nodeId s), 0, false, 0,
      BitVec.ofNat 16 (routeEpoch s), 0, 0, 0, 0, 0, 0, []⟩
    setPortState (linkSend s p d) p 6
  else if portState s p = 6 then s else linkDrop s p

/-- PORT_ADMIN_DOWN (11 R353). -/
def portAdminDown (view p : Nat) (v : Word) (s : State) : State :=
  if view ≠ 8 || bitAt v.toNat 8 || !alive s then s
  else
    let was := portAdmin s p
    let s1 := portWrite view p v s
    if was then drainPort s1 p else s1

/-! ### Bring-up -/

/-- PORT_TRAINED: a Jarip port aligns, an Ethernet port enters ETH_UP (11 R348). -/
def portTrained (p : Nat) (s : State) : State :=
  if portState s p ≠ 1 then s
  else
    let n := usableLanes (portOf s p)
    if n = 0 then linkDrop s p
    else setPortState (setRfld s (okey (Reg.fabPortStatus + 8 * p)) 4 4 n) p (if isJarip s p then 2 else 7)

/-- PORT_TRAIN_TIMEOUT: training took 500 ms (11 Table 4). -/
def portTrainTimeout (p : Nat) (s : State) : State := if portState s p = 1 then linkDrop s p else s

/-- PORT_TRAIN_RETRY (11 Table 4). -/
def portTrainRetry (p : Nat) (s : State) : State := if portState s p = 0 then startTrain s p else s

/-- The port code of Table 6: direction and index. -/
def portSel (s : State) (p : Nat) : Nat := fieldOf (portCfg s p) 3 4

/-- The package's discovery record on a port (11 Table 6). -/
def discoveryRecord (s : State) (p : Nat) : List Byte :=
  let dim := fun i => ofld s Reg.fabVatCfg (4 * i) 4 + 1
  let wired := (List.range 2).any (fun i => sget (fun _ => 0) s.spareBind (p / 8 * 2 + i) == p + 1)
  let caps := 3 + 4 * b2n wired + 8 * ofld s Reg.fabVatCfg 12 1
  let body := layoutBytes 60 [(0, 1, 1), (1, 1, portRole s p), (2, 1, p), (3, 1, portSel s p), (4, 4, ofld s Reg.fabId 0 18),
    (8, 2, ofld s Reg.fabId 48 16), (10, 2, nodeId s), (12, 1, dim 0), (13, 1, dim 1), (14, 1, dim 2), (15, 1, caps)]
  let s2 := patchBytes body 16 (freeBytes s.freeCount 2)
  s2 ++ leBytes 4 (crc32c s2)

/-- The record goes out; PROTO, the firmware's protocol version, is a free value (log entry 14). -/
def sendRecord (s : State) (p : Nat) : State :=
  let d : Packet := ⟨10, 0, false, false, false, 0, 0xFFF, BitVec.ofNat 12 (nodeId s), 0, false, 0, BitVec.ofNat 16 (routeEpoch s), 0, 63, 0, 0, 0, 0,
    discoveryRecord s p⟩
  linkSend { s with freeCount := s.freeCount + 2 } p d

/-- PORT_ALIGN_DONE (11 R348, R351). -/
def portAlignDone (p : Nat) (s : State) : State :=
  if portState s p = 2 then sendRecord (setPortState s p 3) p else s

/-- The neighbour of a node one step along a direction (11 R351, R358). -/
def neighbour (s : State) (node dir : Nat) : Nat :=
  let i := dir / 2
  let d := ofld s Reg.fabVatCfg (4 * i) 4 + 1
  let c := fieldOf node (4 * i) 4
  setFieldOf node (4 * i) 4 (if dir % 2 = 0 then (c + 1) % d else (c + d - 1) % d)

/-- Every check of R351 holds for a received record. -/
def recordOk (s : State) (p : Nat) (r : List Byte) : Bool :=
  let dim := fun i => ofld s Reg.fabVatCfg (4 * i) 4 + 1
  r.length == 64 && leField r 0 1 == 1 && leField r 60 4 == crc32c (r.take 60) &&
    leField r 8 2 == ofld s Reg.fabId 48 16 && leField r 12 1 == dim 0 && leField r 13 1 == dim 1 && leField r 14 1 == dim 2 &&
    fieldOf (leField r 4 4) 0 18 != ofld s Reg.fabId 0 18 &&
    (if portRole s p = 1 then
      fieldOf (leField r 10 2) 0 12 == neighbour s (nodeId s) (portSel s p % 8) && leField r 3 1 == (portSel s p ^^^ 1)
     else leField r 1 1 == 2 && fieldOf (leField r 10 2) 0 12 == 0xFFF)

/-- A record that can be read: VERSION 1 and its CRC correct (11 R351). -/
def recordHeard (r : List Byte) : Bool := r.length == 64 && leField r 0 1 == 1 && leField r 60 4 == crc32c (r.take 60)

/-- DISCOVERY: a record arrives at a port that discovers, or that exchanges records again. The partner's NODE and GLOBAL_ID are kept from every record
that can be read, and a change of them alone has the effects of R352 too (11 R351, R352; log entry 14). -/
def discovery (p : Nat) (r : List Byte) (s : State) : State :=
  let old := portState s p
  if old = 3 || old = 5 then
    let k := okey (Reg.fabPortStatus + 8 * p)
    let node := fieldOf (leField r 10 2) 0 12
    let gid := fieldOf (leField r 4 4) 0 18
    let other := recordHeard r && (rfld s k 16 12 != node || rfld s k 32 18 != gid)
    let s1 := if recordHeard r then setRfld (setRfld s k 16 12 node) k 32 18 gid else s
    if recordOk s p r then setPortState (grantCredits (setPort s1 p { portOf s1 p with nbrCaps := leField r 15 1 }) p) p 4
    else if old = 5 && other then portEvent s1 p 5 5
    else setPortState s1 p 5
  else s

/-- MISWIRED_RETRY: the records are exchanged again (11 Table 4). -/
def miswiredRetry (p : Nat) (s : State) : State := if portState s p = 5 then sendRecord s p else s

/-- LINK_LOSS: a port that has FEC lock, Jarip or Ethernet, enters DOWN and trains again (11 R350). -/
def linkLossPort (p : Nat) (s : State) : State :=
  if 2 ≤ portState s p then startTrain (linkDrop s p) p else s

/-- DRAIN: the partner's notice stops routing to the port (11 R353). -/
def drainNotice (p : Nat) (s : State) : State := if portState s p = 4 then setPortState s p 6 else s

/-- PORT_DRAIN_DONE: the link drops once the partner has acknowledged every flit, unless a lane is being moved to a spare (11 R353,
R356). -/
def portDrainDone (p : Nat) (s : State) : State :=
  let x := portOf s p
  if portState s p = 6 && x.sparing.isNone && x.sent.isEmpty && x.held.isEmpty then linkDrop s p else s

/-! ### Flits received -/

/-- FACK frees the flits it acknowledges. -/
def flitAck (x : Port) (fack : Nat) : Port :=
  { x with sent := x.sent.filter (fun f => let n := (fieldOf (leField f 0 4) 0 12 + 4096 - fack) % 4096; n != 0 && decide (n ≤ 2048)) }

/-- A flit that passes its CRC. -/
def flitGood (f : List Byte) : Bool := f.length == 256 && leField f 252 4 == crc32c (f.take 252)

/-- A flit fails its check: replay is requested, and the sixteenth failure in a row takes the link down (11 R349, R350). -/
def flitBad (s : State) (p : Nat) : State :=
  let x := portOf s p
  if 15 ≤ x.fails then linkLossPort p s
  else setPort (emit s (.flit p (flitBytes x.txSeq x.rxLast 2 []))) p { x with fails := x.fails + 1 }

/-- The port exchanges flits. -/
def flitPort (s : State) (p : Nat) : Bool := isJarip s p && decide (2 ≤ portState s p) && portState s p != 7

/-- A received data flit: the next one in sequence is acknowledged by the next FACK sent, and the packets that its payload completes arrive (11
R349; log entry 15). -/
def flitData (p : Nat) (f : List Byte) (s : State) : State × List Packet :=
  if !flitPort s p then (s, [])
  else if !flitGood f then (flitBad s p, [])
  else
    let h := leField f 0 4
    let x := flitAck { portOf s p with fails := 0 } (fieldOf h 12 12)
    if fieldOf h 24 4 = 0 && fieldOf h 0 12 = (x.rxLast + 1) % 4096 then
      let got := unpackPackets 9 (x.rxBytes ++ (f.drop 4).take 248)
      (setPort s p { x with rxLast := fieldOf h 0 12, rxBytes := got.2 }, got.1)
    else (setPort s p x, [])

/-- FLIT_REPLAY_REQUEST: the flits from FACK + 1 go out again (11 R349). -/
def flitReplay (p : Nat) (f : List Byte) (s : State) : State :=
  if !flitPort s p then s
  else if !flitGood f then flitBad s p
  else if fieldOf (leField f 0 4) 24 4 ≠ 2 then s
  else
    let x := flitAck { portOf s p with fails := 0 } (fieldOf (leField f 0 4) 12 12)
    x.sent.foldl (fun s g => emit s (.flit p g)) (setPort s p x)

/-- FLIT_CREDIT_UPDATE: the credits of each virtual lane change, and packets that waited for one leave; the payload's layout is not given, so the new
credits are free values (11 R347, R349; log entry 15). -/
def flitCredit (p : Nat) (f : List Byte) (s : State) : State :=
  if !flitPort s p then s
  else if !flitGood f then flitBad s p
  else if fieldOf (leField f 0 4) 24 4 ≠ 3 then s
  else pumpPort (grantCredits (setPort s p (flitAck { portOf s p with fails := 0 } (fieldOf (leField f 0 4) 12 12))) p) p

/-! ### Spare lanes -/

/-- The spares that the configuration block binds to a port and that carry none of its lanes and have not worn (11 R355). -/
def boundSpares (s : State) (p : Nat) : List Nat :=
  (List.range 2).filter (fun i => sget (fun _ => 0) s.spareBind (p / 8 * 2 + i) == p + 1 && !(portOf s p).spares.any (fun e => e.2 == i) && !(portOf s p).worn.contains i)

/-- A free spare lane of a port that its partner can use too (11 R355, R356). -/
def freeSpare (s : State) (p : Nat) : Option Nat := if bitAt (portOf s p).nbrCaps 2 then (boundSpares s p).head? else none

/-- LANES and SPARE_IN_USE follow the lanes of a port; it goes DOWN with a failed lane in each half (11 R357). -/
def portWidth (s : State) (p : Nat) : State :=
  let x := portOf s p
  let k := okey (Reg.fabPortStatus + 8 * p)
  let s1 := setRfld s k 8 1 (b2n (!x.spares.isEmpty))
  if portState s p = 0 then s1
  else if usableLanes x = 0 then linkDrop s1 p
  else setRfld s1 k 4 4 (usableLanes x)

/-- The port after a lane of it wears: the lane has failed, and a spare that carried it has worn. -/
def Port.wear (x : Port) (lane : Nat) : Port :=
  { x with
    bad := if x.bad.contains lane then x.bad else x.bad ++ [lane]
    worn := x.worn ++ (x.spares.filter (fun e => e.1 == lane)).map (·.2)
    spares := x.spares.filter (fun e => e.1 != lane) }

/-- LANE_WEAR: below stage S2 an UP port drains, to steer the worn lane onto a free spare, and a port that its partner drains for the exchange remaps the lane
too; otherwise the port runs on a half or goes DOWN (11 R353, R356, R357; log entry 14). -/
def laneWear (p lane : Nat) (s : State) : State :=
  if portRole s p = 0 || decide (4 < portRole s p) then s
  else
    let s1 := setPort s p ((portOf s p).wear lane)
    let steer := setPort s1 p { portOf s1 p with sparing := some lane }
    if (freeSpare s1 p).isSome && decide (stage s < 2) && portState s p == 4 then drainPort steer p
    else if (freeSpare s1 p).isSome && (portOf s p).sparing.isNone && portState s p == 6 && portAdmin s p then steer
    else portWidth s1 p

/-- LANE_SPARE_DONE: the spare has trained; the port passes through ALIGN and DISCOVER back into UP, with a SPARE_IN record and one more route epoch
(11 R356, R379, 14 R461). -/
def laneSpareDone (p : Nat) (s : State) : State :=
  let x := portOf s p
  match x.sparing, freeSpare s p with
  | some lane, some i =>
    if portState s p ≠ 6 then s
    else
      let s1 := setPort s p { x with sparing := none, spares := x.spares ++ [(lane, i)] }
      let s2 := bumpEpoch (portWidth s1 p)
      let s3 := report s2 0x09 0 10 (unitField 10 p) none 0
        (leBytes 1 3 ++ leBytes 2 (8 * p + lane) ++ leBytes 2 (8 * (p % 8) + lane) ++ leBytes 2 (64 + i) ++ leBytes 1 (lanesLeft s1 (p / 8)))
      setPortState s3 p 2
  | _, _ => s

/-! ### Meanings -/

/-- The package has this port. -/
def isPort (p : Nat) : Bool := decide (p < 16)

/-- PORT_ADMIN_UP. -/
def execPortAdminUp (view p : Nat) (v : Word) (s : State) : Host.Outcome State Fault Refusal := onUnit (isPort p) (portAdminUp view p v s)
/-- PORT_TRAIN_TIMEOUT. -/
def execPortTrainTimeout (p : Nat) (s : State) : Host.Outcome State Fault Refusal := onUnit (isPort p) (portTrainTimeout p s)
/-- PORT_TRAIN_RETRY. -/
def execPortTrainRetry (p : Nat) (s : State) : Host.Outcome State Fault Refusal := onUnit (isPort p) (portTrainRetry p s)
/-- PORT_ALIGN_DONE. -/
def execPortAlignDone (p : Nat) (s : State) : Host.Outcome State Fault Refusal := onUnit (isPort p) (portAlignDone p s)
/-- DISCOVERY. -/
def execDiscovery (p : Nat) (r : List Byte) (s : State) : Host.Outcome State Fault Refusal := onUnit (isPort p) (discovery p r s)
/-- MISWIRED_RETRY. -/
def execMiswiredRetry (p : Nat) (s : State) : Host.Outcome State Fault Refusal := onUnit (isPort p) (miswiredRetry p s)
/-- DRAIN. -/
def execDrain (p : Nat) (s : State) : Host.Outcome State Fault Refusal := onUnit (isPort p) (drainNotice p s)

end Sys2Proof.Machine
end

