-- ==== Sys2Proof/Machine/Groups.lean ====
section
/-! DEFINITION. Collective groups and their trees, lane operations, and the steps of a bulk all-reduce (12 R394 to R402, R408). -/

namespace Sys2Proof.Machine

/-- The shape of a group (12 R400): origin node, extents, strides and holes. -/
structure Tree where
  origin : Nat
  ext    : List Nat
  stride : List Nat
  holes  : List Nat
  deriving DecidableEq, Repr

/-- A member's place in its group. -/
abbrev Place3 := Nat × Nat × Nat

/-- Dimension `a` of the Vat. -/
def vatDim (s : State) (a : Nat) : Nat := ofld s Reg.fabVatCfg (4 * a) 4 + 1

/-- A switch stage carries z (11 R358). -/
def zSwitch (s : State) : Bool := ofld s Reg.fabVatCfg 12 1 == 1

/-- A coordinate of a place. -/
def Place3.at (p : Place3) (a : Nat) : Nat := if a = 0 then p.1 else if a = 1 then p.2.1 else p.2.2

/-- A place with a coordinate replaced. -/
def Place3.put (p : Place3) (a v : Nat) : Place3 := if a = 0 then (v, p.2.1, p.2.2) else if a = 1 then (p.1, v, p.2.2) else (p.1, p.2.1, v)

/-- An extent of a tree. -/
def Tree.e (t : Tree) (a : Nat) : Nat := t.ext.getD a 1

/-- The node of a place (12 R400). -/
def Tree.node (s : State) (t : Tree) (p : Place3) : Nat :=
  (List.range 3).foldl (fun n a => n + (fieldOf t.origin (4 * a) 4 + p.at a * t.stride.getD a 1) % vatDim s a * 16 ^ a) 0

/-- The place of a rank (12 R400). -/
def Tree.place (t : Tree) (r : Nat) : Place3 := (r % t.e 0, r / t.e 0 % t.e 1, r / (t.e 0 * t.e 1))

/-- The number of places. -/
def Tree.size (t : Tree) : Nat := t.e 0 * t.e 1 * t.e 2

/-- The rank of a node, if it is a member. -/
def Tree.rank (s : State) (t : Tree) (n : Nat) : Option Nat := (List.range t.size).find? (fun r => t.node s (t.place r) == n && !t.holes.contains n)

/-- The root's place (12 R402). -/
def Tree.root (t : Tree) : Place3 := (t.e 0 / 2, t.e 1 / 2, t.e 2 / 2)

/-- The axis on which a place steps toward the root. -/
def Tree.axis (t : Tree) (p : Place3) : Option Nat := [2, 1, 0].find? (fun a => p.at a != t.root.at a)

/-- A place lies on the root's positive side of an axis (12 R402). -/
def Tree.positive (s : State) (t : Tree) (p : Place3) (a : Nat) : Bool :=
  if t.e a * t.stride.getD a 1 = vatDim s a then decide (2 * ((p.at a + t.e a - t.root.at a) % t.e a) ≤ t.e a) else decide (t.root.at a < p.at a)

/-- The parent of a place, holes not considered (12 R402). -/
def Tree.step (s : State) (t : Tree) (p : Place3) : Option Place3 :=
  match t.axis p with
  | none => none
  | some a =>
    if a = 2 && zSwitch s then some (p.put 2 (t.root.at 2))
    else some (p.put a ((p.at a + (if t.positive s p a then t.e a - 1 else 1)) % t.e a))

/-- The first place that is no hole on the way to the root. -/
def Tree.climb (s : State) (t : Tree) : Nat → Place3 → Option Place3
  | 0, _ => none
  | f + 1, p => match t.step s p with
    | none => none
    | some q => if t.holes.contains (t.node s q) then t.climb s f q else some q

/-- The parent's node of a node (12 R402). -/
def Tree.parent (s : State) (t : Tree) (n : Nat) : Option Nat :=
  (t.rank s n).bind (fun r => (t.climb s 64 (t.place r)).map (t.node s))

/-- The children of a place in the order −x, +x, −y, +y, −z, +z, holes not considered (12 R398). -/
def Tree.rawKids (s : State) (t : Tree) (p : Place3) : List Place3 :=
  let all := ((List.range t.size).map t.place).filter (fun q => t.step s q == some p)
  (List.range 6).flatMap (fun i => all.filter (fun q => t.axis q == some (i / 2) && t.positive s q (i / 2) == (i % 2 == 1)))

/-- The children of a place; a hole's children take its place (12 R402). -/
def Tree.kidsOf (s : State) (t : Tree) : Nat → Place3 → List Place3
  | 0, _ => []
  | f + 1, p => (t.rawKids s p).flatMap (fun q => if t.holes.contains (t.node s q) then t.kidsOf s f q else [q])

/-- The children's nodes of a node. -/
def Tree.kids (s : State) (t : Tree) (n : Nat) : List Nat :=
  match (List.range t.size).find? (fun r => t.node s (t.place r) == n) with
  | some r => (t.kidsOf s 64 (t.place r)).map (t.node s)
  | none => []

/-- The node of the root. -/
def Tree.rootNode (s : State) (t : Tree) : Nat := t.node s t.root

/-- A tree keeps within the Vat: strides at least 1 and E × S within the dimension (12 R400, R401). -/
def Tree.fits (s : State) (t : Tree) : Bool :=
  (List.range 3).all (fun a => decide (1 ≤ t.stride.getD a 0) && decide (t.stride.getD a 0 ≤ 15) && decide (t.e a * t.stride.getD a 1 ≤ vatDim s a))

/-- The shapes that TENSOR allows (12 R401). -/
def Tree.tensorOk (t : Tree) : Bool :=
  t.stride == [1, 1, 1] && [[2, 1, 1], [4, 1, 1], [8, 1, 1], [2, 2, 1], [2, 4, 1], [2, 2, 2]].any (fun e => e.isPerm t.ext)

/-- The nodes in a word of up to four 12-bit fields. -/
def holeList (w n : Nat) : List Nat := (List.range (min n 4)).map (fun i => fieldOf w (12 * i) 12)

/-- The tree of a committed group entry, from its first two words. -/
def treeOfWords (w0 w1 : Nat) : Tree :=
  ⟨fieldOf w0 16 12, (List.range 3).map (fun a => fieldOf w0 (32 + 4 * a) 4 + 1), (List.range 3).map (fun a => fieldOf w0 (44 + 4 * a) 4),
    holeList w1 (fieldOf w1 48 3)⟩

/-- A group entry's first word. -/
def groupWord (s : State) (g : Nat) : Nat := reg s (okey (Reg.morGroup + 32 * g))

/-- The tree of group `g`. -/
def groupTree (s : State) (g : Nat) : Tree := treeOfWords (groupWord s g) (reg s (okey (Reg.morGroup + 32 * g + 8)))

/-- TAG of a group entry: CRC-32C over its first 16 bytes (12 MOR_GROUP_n). -/
def tagOf (w0 w1 : Nat) : Nat := crc32c (leBytes 8 w0 ++ leBytes 8 w1)

/-- The group may be used by partition `p`: valid, of the job that the partition is bound to, with this package a member (12 R407). -/
def groupUsable (s : State) (p g : Nat) : Bool :=
  let w := groupWord s g
  decide (g < 256) && bitAt w 0 && boundJob s p == some (fieldOf w 8 6) && ((groupTree s g).rank s (nodeId s)).isSome

/-! ### Lanes -/

/-- Bits of an element of a lane type (12 Table 1). -/
def laneBits (ty : Nat) : Nat := if ty = 4 then 128 else if ty = 2 ∨ ty = 3 ∨ ty = 6 then 64 else 32

/-- A format byte is valid (12 R394). -/
def laneFmtOk (f : Nat) : Bool :=
  let ty := f % 8
  let op := f / 8 % 8
  decide (f < 64) && ty != 7 && decide (op ≤ 4) && (decide (op ≤ 2) || decide (ty ≤ 4))

/-- Two elements combined (12 R395). -/
def laneElem (ty op a b : Nat) : Nat :=
  let n := laneBits ty
  let f : Fmt := if ty = 5 then Fmt.fp32 else Fmt.fp64
  let sgn := ty == 0 || ty == 2 || ty == 4
  let less := fun x y => if sgn then decide (toSigned n x < toSigned n y) else decide (x < y)
  match op with
  | 0 => if 5 ≤ ty then (f.add a b).1 else (a + b) % 2 ^ n
  | 1 => if 5 ≤ ty then (f.minMax false a b).1 else if less b a then b else a
  | 2 => if 5 ≤ ty then (f.minMax true a b).1 else if less a b then b else a
  | 3 => a &&& b
  | _ => a ||| b

/-- Two lanes combined by a format byte. -/
def laneCombine (f a b : Nat) : Nat :=
  let n := laneBits (f % 8)
  (List.range (128 / n)).foldl (fun x i => x + laneElem (f % 8) (f / 8 % 8) (fieldOf a (n * i) n) (fieldOf b (n * i) n) * 2 ^ (n * i)) 0

/-- Two values combined lane by lane. -/
def lanesCombine (fmts a b : List Nat) : List Nat := (List.range fmts.length).map (fun i => laneCombine (fmts.getD i 0) (a.getD i 0) (b.getD i 0))

/-! ### Bulk all-reduce -/

/-- Bytes of an element of a bulk TYPE: 0 FP32, 1 FP64, 2 INT32, 3 INT64 (12 R408). -/
def bulkBytes (ty : Nat) : Nat := if ty % 2 = 0 then 4 else 8

/-- Segment `i` of `e` of the elements from `lo` to `hi - 1` (log entry 27). -/
def segment (lo hi e i : Nat) : Nat × Nat := (lo + i * (hi - lo) / e, lo + (i + 1) * (hi - lo) / e)

/-- The reduce-scatter steps along the axes in turn, with the range left at the end and the axes' ranges (12 R408). -/
def scatterSteps (t : Tree) (me : Place3) : List Nat → Nat → Nat → List BulkStep × List (Nat × Nat × Nat)
  | [], _, _ => ([], [])
  | a :: rest, lo, hi =>
    let e := t.e a
    let m := me.at a
    let seg := fun i => segment lo hi e (i % e)
    let own := seg m
    let st := (List.range (e - 1)).map (fun k => BulkStep.mk a false (seg (m + 2 * e - 1 - k)).1 (seg (m + 2 * e - 1 - k)).2
      (seg (m + 2 * e - 2 - k)).1 (seg (m + 2 * e - 2 - k)).2)
    let r := scatterSteps t me rest own.1 own.2
    (st ++ r.1, (a, lo, hi) :: r.2)

/-- The all-gather steps along an axis whose range was `lo` to `hi - 1`. -/
def gatherSteps (t : Tree) (me : Place3) (x : Nat × Nat × Nat) : List BulkStep :=
  let e := t.e x.1
  let m := me.at x.1
  let seg := fun i => segment x.2.1 x.2.2 e (i % e)
  (List.range (e - 1)).map (fun k => BulkStep.mk x.1 true (seg (m + e - k)).1 (seg (m + e - k)).2 (seg (m + 2 * e - 1 - k)).1 (seg (m + 2 * e - 1 - k)).2)

/-- Every step of a member over `n` elements: reduce-scatter along x, y, z, then all-gather along z, y, x (12 R408). -/
def bulkSteps (t : Tree) (me : Place3) (n : Nat) : List BulkStep :=
  let r := scatterSteps t me [0, 1, 2] 0 n
  r.1 ++ r.2.reverse.flatMap (gatherSteps t me)

/-- The next step of an axis whose segment has not arrived; empty segments need none. -/
def bulkNext (w : BulkWork) (axis : Nat) : Option (Nat × BulkStep) :=
  (w.steps.zipIdx.find? (fun x => x.1.axis == axis && decide (x.1.recvLo < x.1.recvHi) && !w.inbox.any (fun y => y.1 == x.2) && decide (w.done ≤ x.2))).map
    (fun x => (x.2, x.1))

/-- The start of the exported window of a partition's job. -/
def exportVa (s : State) (p : Nat) : Nat :=
  match boundJob s p with
  | some j => ofld s (Reg.fabJob + 32 * j + 8) 21 27 * 0x200000
  | none => 0

/-- A bulk all-reduce that fails leaves BUF undefined (12 R408). -/
def bulkLost (s : State) (d : Desc) : State :=
  scramble s (storeRanges s d.part [(d.fld 32 6, d.fld 24 4 * bulkBytes (d.fld 21 1))])

/-- A write of node `src` to a partition's memory has landed: a bulk all-reduce whose next segment from that neighbour it ends takes the
segment (12 R408; log entry 27). -/
def bulkLanded (s : State) (p src va n : Nat) : State :=
  (runningAll s).foldl (fun s x =>
    match x.2.work with
    | .bulk w =>
      if x.2.part ≠ p then s
      else
        let es := bulkBytes (x.2.fld 21 1)
        let base := exportVa s p + x.2.fld 38 6
        match (List.range 3).findSome? (fun a => if w.before.getD a 4096 = src then bulkNext w a else none) with
        | none => s
        | some (i, st) =>
          let last := base + st.recvHi * es
          if va < last ∧ last ≤ va + n then
            match readVa s p (base + st.recvLo * es) ((st.recvHi - st.recvLo) * es) with
            | .ok bs => setDesc s x.1 { x.2 with work := .bulk { w with inbox := w.inbox ++ [(i, bs)] } }
            | .error _ => s
          else s
    | _ => s) s

end Sys2Proof.Machine
end

