-- ==== Sys2Proof/Machine/SieIn.lean ====
section
/-! DEFINITION. What a solve reads and checks before it starts: control block, headers, records, certificate, factors and
halo plan (06 R168 to R179, R187 to R191, R199 to R204). -/

namespace Sys2Proof.Machine

/-- Statuses of chapter 06. -/
def St.sieInvalid : BitVec 16 := 0x0C00
def St.sieCert : BitVec 16 := 0x0C01
def St.sieNotConverged : BitVec 16 := 0x0C02
def St.sieBreakdown : BitVec 16 := 0x0C03
def St.siePivot : BitVec 16 := 0x0C04
def St.sieMismatch : BitVec 16 := 0x0C05
def St.sieStale : BitVec 16 := 0x0C06
def St.sieNotOwned : BitVec 16 := 0x0C07
def St.sieAddress : BitVec 16 := 0x0C08
def St.rangeBreach : BitVec 16 := 0x0700

/-- A field of the control block (06 Table 11). -/
def SieIn.cb (w : SieIn) (off len : Nat) : Nat := leField w.ctrl off len

/-- Local rows n. -/
def SieIn.n (w : SieIn) : Nat := w.nbrows * w.b

/-- MULTI. -/
def SieIn.multi (w : SieIn) : Bool := leField w.ctrl 153 1 == 1

/-- The dies of a mask in ascending order. -/
def maskDies (m : Nat) : List Nat := indicesWhere 8 (fun k => bitAt m k)

/-- The window of a role, or the frame of a dot product in its first half. -/
def SieIn.window (w : SieIn) (c : Nat) : Int × Int := w.win.getD c (0, 0)

/-- A read for a solve, with the status it fails with (06 R202, R205). -/
def sieRead (s : State) (p a n : Nat) : Except Fail (List Byte) :=
  match readVa s p a n with
  | .ok bs => .ok bs
  | .error e => .error (memFail St.sieAddress e)

/-- The results of a list of readings, or the first failure. -/
def exceptAll {α β : Type} (f : α → Except Fail β) : List α → Except Fail (List β)
  | [] => .ok []
  | a :: l => match f a with
    | .error e => .error e
    | .ok b => match exceptAll f l with
      | .error e => .error e
      | .ok bs => .ok (b :: bs)

/-- `count` numbers of `n` bytes from an address. -/
def sieNats (s : State) (p a count n : Nat) : Except Fail (List Nat) :=
  match sieRead s p a (count * n) with
  | .error e => .error e
  | .ok bs => .ok ((List.range count).map (fun i => leField bs (n * i) n))

/-- Every page of a range translates for a write (06 R202). -/
def pagesOk (tr : Nat → Option Nat) (a n : Nat) : Bool :=
  decide (n = 0) || (List.range ((a % 0x10000 + n + 0xFFFF) / 0x10000)).all (fun i =>
    (tr (if i = 0 then a else a / 0x10000 * 0x10000 + 0x10000 * i)).isSome)

/-- Ceiling of the base-2 logarithm. -/
def clog2 (k : Nat) : Nat := if k ≤ 1 then 0 else Nat.log2 (k - 1) + 1

/-- An FP64 pattern lies above 0 (or is 0 where allowed) and below, or at most, 1. -/
def fpIn (bits : Nat) (zeroOk : Bool) (least : Nat) (oneOk : Bool) : Bool :=
  (zeroOk && bits == 0) || (decide (0 < bits) && decide (least ≤ bits) && (decide (bits < 0x3FF0000000000000) || (oneOk && bits == 0x3FF0000000000000)))

/-- The control block is in range (06 Table 11). -/
def sieCtrlOk (c : List Byte) : Bool :=
  let f := leField c
  let m := f 0 1
  let pc := f 2 1
  decide (m ≤ 2) && (if m = 2 then decide (1 ≤ f 1 1) && decide (f 1 1 ≤ 32) else f 1 1 == 0) && decide (pc ≤ 3) &&
    (if pc = 2 then decide (4 ≤ f 3 1) && decide (f 3 1 ≤ 32) else f 3 1 == 0) && decide (f 4 2 < 16) &&
    decide (1 ≤ f 6 1) && decide (f 6 1 ≤ 64) && f 7 1 != 0 && decide (1 ≤ f 8 4) && decide (f 8 4 ≤ 65535) &&
    fpIn (f 16 8) true 0x3C30000000000000 false && fpIn (f 24 8) false 1 false && fpIn (f 32 8) true 1 true &&
    (pc != 0 || f 104 8 == 0) && f 112 8 % 4096 == 0 && decide (f 153 1 ≤ 1) && f 154 2 == 0 &&
    (f 156 4 == 0 || (decide (1000 ≤ f 156 4) && decide (f 156 4 ≤ 10000000))) &&
    f 213 43 == 0 && (f 153 1 == 1 || f 120 8 == 0)

/-- The solve's τ (06 Table 11). -/
def sieTau (c : List Byte) : Nat := if leField c 32 8 = 0 then 0x3EB0000000000000 else leField c 32 8

/-- First local block row of each named die, with the end of the last (06 DIESPLIT). -/
def sieSplit (c : List Byte) (nbrows : Nat) : List Nat :=
  (List.range (maskDies (leField c 7 1)).length).map (fun i => leField c (160 + 4 * i) 4) ++ [nbrows]

/-- The split is ascending from 0 and every boundary a multiple of 64 elements (06 R203). -/
def sieSplitOk (c : List Byte) (b nbrows : Nat) : Bool :=
  let l := sieSplit c nbrows
  l.getD 0 1 == 0 && l.all (fun x => x * b % 64 == 0) && (l.zip (l.drop 1)).all (fun x => decide (x.1 ≤ x.2))

/-- The die that holds a local element. -/
def sieDieOf (w : SieIn) (el : Nat) : Nat :=
  let l := sieSplit w.ctrl w.nbrows
  let i := ((l.drop 1).takeWhile (fun x => decide (x * w.b ≤ el))).length
  (maskDies (w.cb 7 1)).getD (min i ((maskDies (w.cb 7 1)).length - 1)) 0

/-- A block record, or none for padding (06 R173). -/
def sieRecord (s : State) (p base b ix limit : Nat) : Except Fail (Option SieRec) :=
  let len := 8 + 4 * b * b
  match sieRead s p (base + ix * len) len with
  | .error e => .error e
  | .ok bs =>
    let colw := leField bs 0 4
    if colw = 0xFFFFFFFF then .ok none
    else if 2 ^ 28 ≤ colw ∨ limit ≤ colw * b ∨ leField bs 6 2 ≠ 0 then .error (.of St.sieInvalid)
    else .ok (some ⟨ix, colw, toSigned 16 (leField bs 4 2), (List.range (b * b)).map (fun i => toSigned 32 (leField bs (8 + 4 * i) 4))⟩)

/-- Numbers rise strictly. -/
def rising : List Nat → Bool
  | a :: b :: l => decide (a < b) && rising (b :: l)
  | _ => true

/-- The real records of a block row that owns the records `lo` to `hi - 1` (06 R174). -/
def sieRow (s : State) (p base b limit lo hi : Nat) (uniform : Bool) : Except Fail (List SieRec) :=
  match exceptAll (fun i => sieRecord s p base b (lo + i) limit) (List.range (hi - lo)) with
  | .error e => .error e
  | .ok rs =>
    let real := rs.filterMap id
    if !rising (real.map (·.col)) || (uniform && (rs.take real.length).any (·.isNone)) then .error (.of St.sieInvalid) else .ok real

/-- Pairs of neighbours of a list. -/
def neighbours {α : Type} (l : List α) : List (α × α) := l.zip (l.drop 1)

/-- The matrix (06 R174, R176). -/
def sieMatrix (s : State) (p : Nat) (h : List Byte) : Except Fail (List (List SieRec)) :=
  let f := leField h
  let b := f 1 1
  let limit := f 4 4 * b + 64 * f 8 4
  if f 0 1 = 1 then
    exceptAll (fun i => sieRow s p (f 32 8) b limit (i * f 2 2) ((i + 1) * f 2 2) true) (List.range (f 4 4))
  else match sieNats s p (f 40 8) (f 4 4 + 1) 4 with
    | .error e => .error e
    | .ok ptr => exceptAll (fun (x : Nat × Nat) => if x.2 < x.1 then .error (.of St.sieInvalid) else sieRow s p (f 32 8) b limit x.1 x.2 false) (neighbours ptr)

/-- The matrix header is in range (06 Table 5). -/
def sieHeaderOk (h : List Byte) : Bool :=
  let f := leField h
  decide (f 0 1 ≤ 1) && (f 1 1 == 4 || f 1 1 == 8) && (if f 0 1 = 1 then decide (1 ≤ f 2 2) && decide (f 2 2 ≤ 64) && f 40 8 == 0 else f 2 2 == 0) &&
    decide (1 ≤ f 4 4) && f 4 4 * f 1 1 % 64 == 0 && decide (1 ≤ f 12 2) && decide (f 12 2 ≤ 512) && f 16 8 != 0 && f 24 8 % 64 == 0 &&
    (f 14 2 != 0 || f 48 8 == 0) && f 56 8 == 0 && f 32 8 % 8 == 0

/-- A row of the FP64 copy: its (column, value) entries (06 R177). -/
def sieRow64 (s : State) (p cols vals limit lo hi : Nat) (uniform : Bool) : Except Fail (List (Nat × Nat)) :=
  match sieNats s p (cols + 4 * lo) (hi - lo) 4, sieNats s p (vals + 8 * lo) (hi - lo) 8 with
  | .ok cs, .ok vs =>
    let es := (cs.zip vs).filter (fun e => !(uniform && e.1 == 0xFFFFFFFF))
    if rising (es.map (·.1)) && es.all (fun e => decide (e.1 < limit)) then .ok es else .error (.of St.sieInvalid)
  | .error e, _ => .error e
  | _, .error e => .error e

/-- The FP64 copy (06 Table 6). -/
def sieCopy (s : State) (p n limit : Nat) (h : List Byte) : Except Fail (List (List (Nat × Nat))) :=
  let f := leField h
  if f 0 4 ≠ n ∨ (f 4 4 ≠ 0 ∧ f 8 8 ≠ 0) then .error (.of St.sieInvalid)
  else if f 4 4 ≠ 0 then
    exceptAll (fun i => sieRow64 s p (f 16 8) (f 24 8) limit (i * f 4 4) ((i + 1) * f 4 4) true) (List.range n)
  else match sieNats s p (f 8 8) (n + 1) 4 with
    | .error e => .error e
    | .ok ptr => exceptAll (fun (x : Nat × Nat) => if x.2 < x.1 then .error (.of St.sieInvalid) else sieRow64 s p (f 16 8) (f 24 8) limit x.1 x.2 false) (neighbours ptr)

/-- The products that the budget rule checks, as (matrix entry, input entry) pairs: of A, then of M (06 Table 9). -/
def budgetPairs (method : Nat) : List Nat × List Nat :=
  if method = 0 then ([4], [2]) else if method = 1 then ([3], [4, 6]) else ([3, 7], [4])

/-- The certificate fits the solve and the matrix (06 R179). -/
def sieCertOk (c h cert : List Byte) : Bool :=
  let f := leField cert
  let win := fun e => (toSigned 16 (f (32 + 8 * e) 2), toSigned 16 (f (34 + 8 * e) 2))
  let width := fun e => (win e).2 - (win e).1
  let pc := leField c 2 1
  let fits := fun (m k e : Nat) => decide (62 + width m + width e + (clog2 k : Nat) ≤ 94)
  let pairs := budgetPairs (leField c 0 1)
  let km := if pc = 1 then 1 else if pc = 2 then leField c 3 1 else leField h 12 2
  f 0 2 == 1 && f 16 4 == crc32c (patchBytes cert 16 (List.replicate 4 0#8)) && f 2 1 == leField c 0 1 && f 3 1 == pc &&
    f 4 1 == leField h 1 1 && f 5 1 == leField c 3 1 && f 6 2 == leField h 12 2 && f 8 8 == leField h 16 8 &&
    decide (leField c 8 4 ≤ f 20 4) && (Fmt.fp64.cmp 3 (f 24 8) (sieTau c)).1 &&
    (List.range 8).all (fun e => decide ((win e).1 ≤ (win e).2) && decide (width e ≤ 32)) &&
    pairs.1.all (fun e => fits 0 (leField h 12 2) e) && (pc == 0 || pairs.2.all (fun e => fits 1 km e))

/-- A halo plan: NRECV and its segments, as (first element, count, node, destination element) (06 Table 12). -/
def sieHalo (s : State) (p a n : Nat) : Except Fail (Nat × List (Nat × Nat × Nat × Nat)) :=
  match sieRead s p a 16 with
  | .error e => .error e
  | .ok h =>
    if leField h 8 8 ≠ 0 then .error (.of St.sieInvalid)
    else match exceptAll (fun i => match sieRead s p (a + 16 + 16 * i) 16 with
      | .error e => .error e
      | .ok b =>
        let src := leField b 0 4
        let cnt := leField b 4 1
        let dst := leField b 12 4
        if cnt = 0 ∨ 64 < src % 64 + cnt ∨ n < src + cnt ∨ dst % 64 ≠ src % 64 ∨ leField b 5 3 ≠ 0 ∨ 4096 ≤ leField b 8 2 ∨ leField b 10 2 ≠ 0 then .error (.of St.sieInvalid)
        else .ok (src, cnt, leField b 8 2, dst)) (List.range (leField h 0 4)) with
      | .error e => .error e
      | .ok l => .ok (leField h 4 4, l)

/-- One ILU(0) domain: its first block row and its block rows by level (06 R191). -/
def sieDomain (s : State) (p nbrows : Nat) (e : List Byte) : Except Fail (Nat × List (List Nat)) :=
  let first := leField e 0 4
  let cnt := leField e 4 4
  let a := leField e 8 8
  match sieNats s p a 1 4 with
  | .error x => .error x
  | .ok nl => match sieNats s p (a + 4) (nl.getD 0 0 + 1) 4 with
    | .error x => .error x
    | .ok offs => match sieNats s p (a + 8 + 4 * nl.getD 0 0) cnt 4 with
      | .error x => .error x
      | .ok rows =>
        if nbrows < first + cnt ∨ offs.getD 0 1 ≠ 0 ∨ offs.getLastD 0 ≠ cnt ∨ !((neighbours offs).all (fun x => decide (x.1 ≤ x.2))) then .error (.of St.sieInvalid)
        else .ok (first, (neighbours offs).map (fun x => (rows.drop x.1).take (x.2 - x.1)))

/-- The domain that holds a block row. -/
def domainOf (doms : List (Nat × List (List Nat))) (row : Nat) : Option (Nat × List (List Nat)) :=
  doms.find? (fun d => decide (d.1 ≤ row) && decide (row < d.1 + d.2.flatten.length))

/-- A block column lies in a domain. -/
def inDomain (d : Nat × List (List Nat)) (col : Nat) : Bool := decide (d.1 ≤ col) && decide (col < d.1 + d.2.flatten.length)

/-- The level lists are valid: each block row of a domain once, every lower block of a row in an earlier level, and every row in
a domain (06 R191; log entry 25). -/
def levelsOk (recs : List (List SieRec)) (doms : List (Nat × List (List Nat))) : Bool :=
  doms.all (fun d =>
    let rows := d.2.flatten
    (List.range rows.length).all (fun i => rows.contains (d.1 + i)) &&
    (List.range d.2.length).all (fun l => (d.2.getD l []).all (fun row =>
      (recs.getD row []).all (fun r => !(decide (r.col < row) && inDomain d r.col) || ((d.2.take l).any (fun lv => lv.contains r.col)))))) &&
  (List.range recs.length).all (fun row => (domainOf doms row).isSome)

/-- The initial guess of R199: its address or none for zero, and the report flags. -/
def sieGuess (s : State) (p : Nat) (c : List Byte) (fp : Nat) : Except Fail (Option Nat × Nat) :=
  let f := leField c
  let word : Except Fail Nat := if f 48 8 = 0 then .ok (f 40 8) else match sieNats s p (f 48 8) 1 8 with
    | .error e => .error e
    | .ok l => .ok (l.getD 0 0)
  match word with
  | .error e => .error e
  | .ok 0 => .ok (none, 0)
  | .ok x =>
    if x = fp then .ok (some (f 96 8), 0)
    else if bitAt (f 4 2) 1 then match sieNats s p (f 144 8) 1 8 with
      | .error e => .error e
      | .ok l => if l.getD 0 0 = fp then .ok (some (f 88 8), 2 + 8) else .ok (none, 2)
    else .ok (none, 2)

/-- Members of a collective group: ranks, less its holes (12 R400). -/
def groupCount (s : State) (g : Nat) : Nat :=
  let e := fun i => ofld s (Reg.morGroup + 32 * g) (32 + 4 * i) 4 + 1
  e 0 * e 1 * e 2 - ofld s (Reg.morGroup + 32 * g + 8) 48 3

/-- Addresses that the solve will write, with their lengths (06 R202). -/
def sieWrites (c h : List Byte) : List (Nat × Nat) :=
  let f := leField c
  let n := leField h 4 4 * leField h 1 1
  [(f 112 8, sieWorkSize c (n + 64 * leField h 8 4)), (f 128 8, 128), (f 88 8, 8 * n), (f 144 8, 8)]

/-- The solve's inputs, read and checked; factors are read later (06 R176 to R179, R199 to R204). A WORK whose first byte translates and whose last
does not is too small (Table 14; log entry 25, DEDUCED). -/
def sieInputs (s : State) (p addr : Nat) : Except Fail SieIn := do
  let c ← sieRead s p addr 256
  let f := leField c
  if !sieCtrlOk c then .error (.of St.sieInvalid)
  else if (maskDies (f 7 1)).any (fun k => !(partDies s p).contains k) then .error (.of St.sieNotOwned)
  else if (maskGroups (f 192 21)).any (fun g => !holdsGroup s p g) then .error (.of St.sieInvalid)
  else if (maskDies (f 7 1)).any (fun k => fenced s 2 k) || groupsFenced s (f 192 21) then .error (.of St.unitFenced)
  else
    let h ← sieRead s p (f 56 8) 64
    if !sieHeaderOk h || !sieSplitOk c (leField h 1 1) (leField h 4 4) || (f 2 1 == 2 && f 3 1 % leField h 1 1 != 0) ||
        (f 2 1 == 2 && leField h 4 4 * leField h 1 1 % f 3 1 != 0) then .error (.of St.sieInvalid)
    else
      let n := leField h 4 4 * leField h 1 1
      let cert ← sieRead s p (f 72 8) 144
      if !sieCertOk c h cert then .error (.of St.sieCert)
      else if !pagesOk (xlateMem s p .w) (f 112 8) 1 || ((sieWrites c h).drop 1).any (fun x => !pagesOk (xlateMem s p .w) x.1 x.2) then
        .error (.of St.sieAddress)
      else if (sieWrites c h).any (fun x => !pagesOk (xlateMem s p .w) x.1 x.2) then .error (.of St.sieInvalid)
      else
        let recs ← sieMatrix s p h
        let total ← if leField h 0 1 = 1 then .ok (leField h 4 4 * leField h 2 2)
          else (match sieNats s p (leField h 40 8 + 4 * leField h 4 4) 1 4 with
            | .error e => .error e
            | .ok l => .ok (l.getD 0 0))
        let h64 ← sieRead s p (f 64 8) 32
        let a64 ← sieCopy s p n (n + 64 * leField h 8 4) h64
        let rhs ← sieNats s p (f 80 8) n 8
        let (nrecv, segs) ← if f 120 8 = 0 then .ok (0, []) else sieHalo s p (f 120 8) n
        let doms ← if f 2 1 = 3 then
            (match sieRead s p (leField h 48 8) (16 * leField h 14 2) with
            | .error e => .error e
            | .ok bs => exceptAll (fun i => sieDomain s p (leField h 4 4) ((bs.drop (16 * i)).take 16)) (List.range (leField h 14 2)))
          else .ok []
        let (ga, fl) ← sieGuess s p c (leField h 16 8)
        let guess ← match ga with
          | some a => sieNats s p a n 8
          | none => .ok (List.replicate n 0)
        .ok { ctrl := c, b := leField h 1 1, nbrows := leField h 4 4, nmirror := leField h 8 4, nrow := leField h 12 2, fp := leField h 16 8,
              certCrc := leField cert 16 4, total := total, recs := recs, a64 := a64,
              win := (List.range 14).map (fun e => (toSigned 16 (leField cert (32 + 8 * e) 2), toSigned 16 (leField cert (34 + 8 * e) 2))),
              rhs := rhs, guess := guess, zero := ga.isNone, wsFlags := fl, nrecv := nrecv, segs := segs, groups := [], ilu := [], doms := doms }

end Sys2Proof.Machine
end

