-- ==== Sys2Proof/Machine/SieFactor.lean ====
section
/-! DEFINITION. Block fixed-point numbers, and the factorisation, storage and reading of preconditioners (06 R168 to R172, R187 to
R191). -/

namespace Sys2Proof.Machine

/-! ### BFX32 -/

/-- An exact value num / den × 2^e. -/
structure Qv where
  num : Int
  den : Nat
  e   : Int
  deriving DecidableEq, Repr

/-- Quotient of an integer by a positive number, rounded to nearest with ties to even. -/
def divEven (a : Int) (b : Nat) : Int :=
  let q := a / (b : Int)
  let r := a - q * b
  if 2 * r < b then q else if (b : Int) < 2 * r then q + 1 else if q % 2 = 0 then q else q + 1

/-- round_even(v × 2^-e). -/
def Qv.roundAt (v : Qv) (e : Int) : Int :=
  let k := v.e - e
  if 0 ≤ k then divEven (v.num * 2 ^ k.toNat) v.den else divEven v.num (v.den * 2 ^ (-k).toNat)

/-- The value at exponent `e` fits `n` bits. -/
def Qv.fits (v : Qv) (n : Nat) (e : Int) : Bool := decide (-(2 ^ (n - 1)) ≤ v.roundAt e) && decide (v.roundAt e < 2 ^ (n - 1))

/-- The smallest exponent from `e` at which every value fits `n` bits. -/
def fitExp (vs : List Qv) (n : Nat) : Nat → Int → Int
  | 0, e => e
  | f + 1, e => if vs.all (fun v => v.fits n e) then e else fitExp vs n f (e + 1)

/-- Exponents that any value of a solve may need above a window's lower end. -/
def expFuel : Nat := 70000

/-- An exact sum; sums have denominator 1. -/
def Qv.add (a b : Qv) : Qv :=
  let e := min a.e b.e
  ⟨a.num * 2 ^ (a.e - e).toNat + b.num * 2 ^ (b.e - e).toNat, 1, e⟩

/-- An exact product. -/
def Qv.mul (a b : Qv) : Qv := ⟨a.num * b.num, a.den * b.den, a.e + b.e⟩

/-- The negated value. -/
def Qv.neg (a : Qv) : Qv := { a with num := -a.num }

/-- Zero. -/
def Qv.zero : Qv := ⟨0, 1, 0⟩

/-- The exact value of an FP64 pattern; none for a NaN or an infinity. -/
def qvOf (bits : Nat) : Option Qv :=
  match Fmt.fp64.decode bits with
  | .num neg m e => some ⟨sgn neg m, 1, e⟩
  | _ => none

/-- A group of values in a role with window [L, U]: exponent and mantissas by R170. -/
def bfxGroup (lo : Int) (vs : List Qv) : Int × List Int :=
  let e := fitExp vs 32 expFuel lo
  (e, vs.map (fun v => v.roundAt e))

/-! ### Factorisation -/

/-- A magnitude as an ordered number. -/
def fpMag (bits : Nat) : Nat := bits % 2 ^ 63

/-- The entry of a row at a column, or 0. -/
def rowAt (row : List (Nat × Nat)) (c : Nat) : Nat := match row.find? (fun e => e.1 == c) with | some e => e.2 | none => 0

/-- A factored row: its pattern with the values of L and U, and the reciprocal of its pivot. -/
abbrev FRow := List (Nat × Nat) × Nat

/-- One elimination step of row `w` by row `k` (06 R188): the row and the FMAs. -/
def elimStep (rows : Array FRow) (st : List (Nat × Nat) × Nat) (k : Nat) : List (Nat × Nat) × Nat :=
  let rk := rows.getD k ([], 0)
  let wk := (Fmt.fp64.mul (rowAt st.1 k) rk.2).1
  let hit := fun (c : Nat) => decide (k < c) && rk.1.any (fun e => e.1 == c)
  (st.1.map (fun e => if e.1 = k then (k, wk) else if hit e.1 then (e.1, (Fmt.fp64.fma (wk ^^^ 2 ^ 63) (rowAt rk.1 e.1) e.2).1) else e),
    st.2 + (st.1.filter (fun e => hit e.1)).length)

/-- The pivot rule of R189: the pivot and whether it was replaced; `mx` is the largest magnitude of the row. -/
def pivotRule (tau p mx : Nat) : Nat × Bool :=
  if mx = 0 then (0x3FF0000000000000, true)
  else
    let t := (Fmt.fp64.mul tau mx).1
    if (Fmt.fp64.cmp 2 (fpMag p) t).1 then ((if bitAt p 63 && fpMag p != 0 then t + 2 ^ 63 else t), true) else (p, false)

/-- The factorisation so far: the rows, the rows whose pivots were replaced, the FMAs and the first row whose pivot is a NaN or an
infinity. -/
structure FState where
  rows : Array FRow
  repl : List Nat
  fmas : Nat
  bad  : Option Nat

/-- Factorisation of row `r` with its pattern, in ascending columns (06 R188, R189). -/
def factorRow (a64 : List (List (Nat × Nat))) (tau : Nat) (pattern : Nat → List Nat) (st : FState) (r : Nat) : FState :=
  let src := a64.getD r []
  let w0 := (pattern r).map (fun c => (c, rowAt src c))
  let mx := w0.foldl (fun m e => max m (fpMag e.2)) 0
  let (w, fm) := ((pattern r).filter (fun k => decide (k < r))).foldl (elimStep st.rows) (w0, st.fmas)
  let (p, rep) := pivotRule tau (rowAt w r) mx
  { rows := st.rows.setIfInBounds r (w, (Fmt.fp64.div 0x3FF0000000000000 p).1)
    repl := if rep then st.repl ++ [r] else st.repl
    fmas := fm
    bad := if st.bad.isNone && (qvOf p).isNone then some r else st.bad }

/-- Scalar rows of a block row. -/
def blockRows (b row : Nat) : List Nat := (List.range b).map (fun i => row * b + i)

/-- Block columns of a block row within its ILU(0) domain. -/
def iluCols (w : SieIn) (row : Nat) : List Nat :=
  match domainOf w.doms row with
  | some d => ((w.recs.getD row []).map (·.col)).filter (inDomain d)
  | none => []

/-- The order of the scalar rows, and the pattern of each: the entries that the factor's block stores (06 R188; log entry 25). -/
def factorPlan (w : SieIn) : List Nat × (Nat → List Nat) :=
  match w.cb 2 1 with
  | 2 =>
    let bj := w.cb 3 1
    (List.range w.n, fun r => (List.range bj).map (fun i => r / bj * bj + i))
  | 3 => (w.doms.flatMap (fun d => d.2.flatten.flatMap (blockRows w.b)), fun r => (iluCols w (r / w.b)).flatMap (blockRows w.b))
  | _ => ([], fun _ => [])

/-- The whole factorisation; Jacobi takes the diagonal, and its row's stored entries for the pivot rule (log entry 25). -/
def factorise (w : SieIn) : FState :=
  let start : FState := ⟨Array.replicate w.n ([], 0), [], 0, none⟩
  let tau := sieTau w.ctrl
  if w.cb 2 1 = 1 then
    (List.range w.n).foldl (fun st r =>
      let src := w.a64.getD r []
      let (p, rep) := pivotRule tau (rowAt src r) (src.foldl (fun m e => max m (fpMag e.2)) 0)
      { st with
        rows := st.rows.setIfInBounds r ([], (Fmt.fp64.div 0x3FF0000000000000 p).1)
        repl := if rep then st.repl ++ [r] else st.repl
        bad := if st.bad.isNone && (qvOf p).isNone then some r else st.bad }) start
  else
    let (order, pat) := factorPlan w
    order.foldl (factorRow w.a64 tau pat) start

/-- The stored entry of a factor at (r, c): L below, U above, the reciprocal pivot on the diagonal. -/
def factorEntry (rows : Array FRow) (r c : Nat) : Nat :=
  let x := rows.getD r ([], 0)
  if r = c then x.2 else rowAt x.1 c

/-- FP64 values normalised into role M; a NaN, an infinity or an exponent above U is a breach, given with the exponent needed. -/
def factorGroup (win : Int × Int) (vals : List Nat) : (Int × List Int) × Option Int :=
  let qs := vals.map qvOf
  if qs.any (·.isNone) then ((win.1, vals.map (fun _ => 0)), some 32767)
  else
    let g := bfxGroup win.1 (qs.map (·.getD Qv.zero))
    (g, if win.2 < g.1 then some g.1 else none)

/-- The values of each factor group, in storage order: 64 reciprocals for Jacobi, a block for block-Jacobi (06 Table 10). -/
def factorGroups (w : SieIn) (rows : Array FRow) : List (List Nat) :=
  if w.cb 2 1 = 1 then (List.range (w.n / 64)).map (fun g => (List.range 64).map (fun i => factorEntry rows (64 * g + i) (64 * g + i)))
  else if w.cb 2 1 = 2 then
    let bj := w.cb 3 1
    (List.range (w.n / bj)).map (fun k => (List.range (bj * bj)).map (fun i => factorEntry rows (k * bj + i / bj) (k * bj + i % bj)))
  else []

/-- The values of the factor record for a record of A (06 Table 10). -/
def iluValues (b : Nat) (rows : Array FRow) (row col : Nat) : List Nat :=
  (List.range (b * b)).map (fun i => factorEntry rows (row * b + i / b) (col * b + i % b))

/-- First group of a list with a breach, as (index, exponent). -/
def firstBreach (l : List ((Int × List Int) × Option Int)) : Option (Nat × Int) :=
  (List.range l.length).findSome? (fun i => match (l.getD i ((0, []), none)).2 with | some e => some (i, e) | none => none)

/-- What a factorisation gives: the inputs with the factors, replacement counts, FMAs and a breach. -/
structure FResult where
  inp    : SieIn
  counts : List Nat
  total  : Nat
  fmas   : Nat
  breach : Option SieBreach

/-- The factors of a solve (06 R187 to R189). -/
def factorResult (w : SieIn) : FResult :=
  let st := factorise w
  let win := w.window 1
  let gs := (factorGroups w st.rows).map (factorGroup win)
  let per := if w.cb 2 1 = 1 then 64 else if w.cb 2 1 = 2 then w.cb 3 1 else 1
  let rl := if w.cb 2 1 = 3 then
    (List.range w.nbrows).map (fun row => ((w.recs.getD row []).filter (fun x => (iluCols w row).contains x.col)).map (fun x =>
      (x, factorGroup win (iluValues w.b st.rows row x.col)))) else []
  let brk := fun (el ix : Nat) (e : Int) => some (SieBreach.mk 1 (sieDieOf w el) 0 0 ix (some e))
  let counts := if w.cb 2 1 = 3 then w.doms.map (fun d => (st.repl.filter (fun r => inDomain d (r / w.b))).length)
    else if w.cb 2 1 = 0 then [] else (List.range (w.n / per)).map (fun k => (st.repl.filter (fun r => r / per == k)).length)
  { inp := { w with
      groups := gs.map (·.1)
      ilu := rl.map (fun row => row.map (fun x => { x.1 with e := x.2.1.1, m := x.2.1.2 })) }
    counts := counts
    total := st.repl.length
    fmas := if w.cb 2 1 = 1 then 0 else st.fmas
    breach := match st.bad with
      | some r => brk r r 32767
      | none => match firstBreach gs with
        | some (i, e) => brk (i * per) i e
        | none => (rl.flatten.find? (fun x => x.2.2.isSome)).bind (fun x => brk (x.1.col * w.b) x.1.ix (x.2.2.getD 0)) }

/-! ### Factor storage -/

/-- The factor header, 64 bytes: the spec names its fields and not their places (06, before R187; log entry 25). -/
def factorHeader (w : SieIn) (total : Nat) : List Byte :=
  layoutBytes 64 [(0, 1, w.cb 2 1), (1, 1, w.cb 3 1), (2, 1, 1), (8, 8, w.fp), (16, 8, sieTau w.ctrl), (24, 4, satNat 32 total)]

/-- A mantissa as 4 bytes. -/
def mantBytes (m : Int) : List Byte := leBytes 4 (ofSigned 32 m)

/-- A record of Table 3. -/
def recordBytes (colw : Nat) (e : Int) (m : List Int) : List Byte := leBytes 4 colw ++ leBytes 2 (ofSigned 16 e) ++ leBytes 2 0 ++ m.flatMap mantBytes

/-- The writes of factor storage (06 Table 10). -/
def factorWrites (w : SieIn) (total : Nat) : List (Nat × List Byte) :=
  let a := w.cb 104 8
  let body := match w.cb 2 1 with
    | 1 => [(a + 256, w.groups.flatMap (fun g => g.2.flatMap mantBytes)), (a + 256 + 4 * w.n, w.groups.flatMap (fun g => leBytes 2 (ofSigned 16 g.1)))]
    | 2 => [(a + 256, (w.groups.zipIdx).flatMap (fun x => recordBytes x.2 x.1.1 x.1.2))]
    | 3 =>
      let all := w.ilu.flatten
      [(a + 256, (List.range w.total).flatMap (fun i => match all.find? (fun x => x.ix == i) with
        | some x => recordBytes x.col x.e x.m
        | none => recordBytes 0xFFFFFFFF 0 (List.replicate (w.b * w.b) 0)))]
    | _ => []
  (a, factorHeader w total) :: body

/-- The factors read from FACT (06 R187). -/
def readFactors (s : State) (p : Nat) (w : SieIn) : Except Fail SieIn := do
  let a := w.cb 104 8
  let h ← sieRead s p a 64
  if patchBytes h 24 (leBytes 4 0) != patchBytes (factorHeader w 0) 24 (leBytes 4 0) then .error (.of St.sieStale)
  else
    let i32 := fun (bs : List Byte) (off : Nat) => toSigned 32 (leField bs off 4)
    match w.cb 2 1 with
    | 1 => do
      let ms ← sieRead s p (a + 256) (4 * w.n)
      let es ← sieRead s p (a + 256 + 4 * w.n) (2 * (w.n / 64))
      .ok { w with groups := (List.range (w.n / 64)).map (fun g => (toSigned 16 (leField es (2 * g) 2), (List.range 64).map (fun i => i32 ms (4 * (64 * g + i))))) }
    | 2 => do
      let bj := w.cb 3 1
      let gs ← exceptAll (fun k => match sieRead s p (a + 256 + k * (8 + 4 * bj * bj)) (8 + 4 * bj * bj) with
        | .error e => .error e
        | .ok bs => .ok (toSigned 16 (leField bs 4 2), (List.range (bj * bj)).map (fun i => i32 bs (8 + 4 * i)))) (List.range (w.n / bj))
      .ok { w with groups := gs }
    | _ => do
      let rows ← exceptAll (fun (row : List SieRec) => match exceptAll (fun (x : SieRec) =>
          match sieRecord s p (a + 256) w.b x.ix ((w.nbrows + 64 * w.nmirror) * w.b + 64) with
          | .error e => .error e
          | .ok r => .ok (r.map (fun y => { y with col := x.col }))) row with
        | .error e => .error e
        | .ok l => .ok (l.filterMap id)) w.recs
      .ok { w with ilu := rows }

end Sys2Proof.Machine
end

