-- ==== Sys2Proof/Machine/SieLoop.lean ====
section
/-! DEFINITION. The loop of a solve: refinement sweeps around CG, BiCGSTAB and GMRES (06 R180 to R198). The loop is a program that
stops at each reduction, halo exchange or held iteration boundary and is run again from its start with one answer more. -/

namespace Sys2Proof.Machine

/-- Why the loop stops: a reduction of these lanes, whose values are undefined after a breach; a halo exchange of vector `code`; a
held iteration boundary; or the end of the solve with a status. -/
inductive SieStop where
  | red (fmts lanes : List Nat) (breached : Bool)
  | halo (code : Nat) (sends : List (Nat × Nat × Nat × List Byte))
  | pause
  | fin (st : BitVec 16)

/-- The loop's variables: the answers not used yet, the members, whether and from which boundary on it holds, the boundaries seen, the
breach, the place, the report's values and the x of the last completed sweep. -/
structure SieVar where
  answers : List (List Nat)
  members : Nat
  hold    : Bool
  passed  : Nat
  seen    : Nat
  breach  : Option SieBreach
  sweep   : Nat
  done    : Nat
  iter    : Nat
  iters   : Nat
  flags   : Nat
  normB   : Nat
  normR0  : Nat
  normR   : Nat
  x       : List Nat

/-- Programs of the loop. -/
abbrev SieM := ExceptT SieStop (StateM SieVar)

/-- A BFX32 vector: the exponent and the 64 mantissas of each group (06 R169). -/
abbrev Bvec := List (Int × List Int)

/-- The values of a vector. -/
def bvals (v : Bvec) : List Qv := v.flatMap (fun g => g.2.map (fun m => ⟨m, 1, g.1⟩))

/-- The vector of zeros in a role (06 R170). -/
def bzero (w : SieIn) (role : Nat) : Bvec := List.replicate (w.n / 64) ((w.window role).1, List.replicate 64 0)

/-- A breach is detected; the first one stands (06 R181). -/
def sieBreach (w : SieIn) (role el ix : Nat) (e : Option Int) : SieM Unit :=
  modify (fun v => { v with breach := match v.breach with
    | some b => some b
    | none => some ⟨role, sieDieOf w el, v.sweep, v.iter, ix, e⟩ })

/-- Values written as a vector of a role (06 R170); the first group above U breaches at its first element that needs the exponent. -/
def sieWrite (w : SieIn) (role : Nat) (vs : List Qv) : SieM Bvec := do
  let win := w.window role
  let gs := (List.range (w.n / 64)).map (fun g => bfxGroup win.1 ((vs.drop (64 * g)).take 64))
  match (List.range gs.length).find? (fun g => decide (win.2 < (gs.getD g (0, [])).1)) with
  | none => return gs
  | some g =>
    let e := (gs.getD g (0, [])).1
    let i := ((List.range 64).find? (fun i => !(vs.getD (64 * g + i) Qv.zero).fits 32 (e - 1))).getD 0
    sieBreach w role (64 * g + i) (64 * g + i) (some e)
    return gs

/-- FP64 values times 2^σ, exactly, written into a role (06 R171, R196). -/
def sieConvert (w : SieIn) (role : Nat) (xs : List Nat) (sigma : Int) : SieM Bvec := do
  let qs := xs.map qvOf
  match (List.range qs.length).find? (fun i => (qs.getD i none).isNone) with
  | some i =>
    sieBreach w role i i (some 32767)
    return bzero w role
  | none => sieWrite w role (qs.map (fun q => let v := q.getD Qv.zero; { v with e := v.e + sigma }))

/-- An FP64 scalar as an exact value; one that is a NaN or an infinity makes what is written with it a breach (log entry 25). -/
def sieScalar (w : SieIn) (role bits : Nat) : SieM Qv :=
  match qvOf bits with
  | some q => return q
  | none => do
    sieBreach w role 0 0 (some 32767)
    return Qv.zero

/-- The sum of vectors times exact scalars. -/
def combine (n : Nat) (terms : List (Qv × Bvec)) : List Qv :=
  terms.foldl (fun acc t => List.zipWith (fun a x => a.add (t.1.mul x)) acc (bvals t.2)) (List.replicate n Qv.zero)

/-- 1 and −1. -/
def Qv.one : Qv := ⟨1, 1, 0⟩
def Qv.minusOne : Qv := ⟨-1, 1, 0⟩

/-! ### Reductions -/

/-- A reduction: its lanes and the flag lane (06 R184); a breach of any member ends the solve (06 R181). -/
def sieReduce (fmts lanes : List Nat) : SieM (List Nat) := do
  let v ← get
  match v.answers with
  | [] => throw (.red (fmts ++ [4]) (lanes ++ [b2n v.breach.isSome]) v.breach.isSome)
  | a :: rest =>
    set { v with answers := rest }
    if a.getD lanes.length 0 ≠ 0 then throw (.fin St.rangeBreach)
    else return a

/-- A member's part of a dot product in units of 2^E_DOT (06 R182). -/
def dotLocal (frame : Int) (a b : Bvec) : Int :=
  (a.zip b).foldl (fun t g =>
    let p := (List.zipWith (· * ·) g.1.2 g.2.2).foldl (· + ·) 0
    let k := g.1.1 + g.2.1 - frame
    t + (if 0 ≤ k then p * 2 ^ k.toNat else p / 2 ^ (-k).toNat)) 0

/-- An integer times 2^e as FP64, rounded once (05 R136). -/
def fp64OfInt (x : Int) (e : Int) : Nat := (Fmt.fp64.convert (.num (decide (x < 0)) x.natAbs e)).1

/-- Up to three dot products in one reduction, each given by its frame's code, its first role and its vectors (06 R182 to R185). -/
def sieDots (w : SieIn) (ps : List (Nat × Nat × Bvec × Bvec)) : SieM (List Nat) := do
  let ls := ps.map (fun p => dotLocal (w.window p.1).1 p.2.2.1 p.2.2.2)
  let v ← get
  match (ps.zip ls).find? (fun x => decide ((2 : Int) ^ (127 - clog2 v.members) ≤ (x.2.natAbs : Int))) with
  | some x => sieBreach w x.1.2.1 0 0 none
  | none => pure ()
  let a ← sieReduce (ls.map (fun _ => 4)) (ls.map (ofSigned 128))
  return (List.range ps.length).map (fun i => fp64OfInt (toSigned 128 (a.getD i 0)) (w.window (ps.getD i (0, 0, [], [])).1).1)

/-- One dot product. -/
def sieDot (w : SieIn) (frame role : Nat) (a b : Bvec) : SieM Nat := do
  let l ← sieDots w [(frame, role, a, b)]
  return l.getD 0 0

/-! ### Products -/

/-- The mirror data of a product: the groups of `code`, given by numbers (06 R197). `cell` gives the bytes of a segment as (offset after
the group's start, bytes). -/
def sieHaloData (w : SieIn) (code : Nat) (cell : Nat × Nat → List (Nat × List Byte)) : SieM (List Nat) := do
  if w.nmirror = 0 && w.segs.isEmpty then return []
  else
    let v ← get
    match v.answers with
    | [] => throw (.halo code (w.segs.flatMap (fun g => (cell (g.1, g.2.1)).map (fun c =>
        (sieDieOf w g.1 / 4, g.2.2.1, Config.sieMirror code (g.2.2.2 / 64 * 64) + c.1, c.2)))))
    | a :: rest =>
      set { v with answers := rest }
      return a

/-- The mirror groups of a BFX32 vector of a role; an exponent outside the role's window is a breach (06 R171, R197). -/
def sieMirrors (w : SieIn) (role code : Nat) (x : Bvec) : SieM Bvec := do
  let a ← sieHaloData w code (fun sc =>
    let g := x.getD (sc.1 / 64) (0, [])
    [(0, leBytes 4 (ofSigned 16 g.1)), (4 + 4 * (sc.1 % 64), ((g.2.drop (sc.1 % 64)).take sc.2).flatMap mantBytes)])
  let gs : Bvec := (List.range w.nmirror).map (fun g =>
    (toSigned 16 (a.getD (65 * g) 0), (List.range 64).map (fun i => toSigned 32 (a.getD (65 * g + 1 + i) 0))))
  let win := w.window role
  match (List.range gs.length).find? (fun g => let e := (gs.getD g (0, [])).1; decide (e < win.1) || decide (win.2 < e)) with
  | some g => sieBreach w role (w.n + 64 * g) (w.n + 64 * g) (some (gs.getD g (0, [])).1)
  | none => pure ()
  return gs

/-- A·x, exactly (06 R172, R175); a record outside the window of A is a breach (06 R171). -/
def sieProduct (w : SieIn) (role code : Nat) (x : Bvec) : SieM (List Qv) := do
  let ms ← sieMirrors w role code x
  let win := w.window 0
  match w.recs.zipIdx.findSome? (fun rw => (rw.1.find? (fun r => decide (r.e < win.1) || decide (win.2 < r.e))).map (fun r => (r, rw.2))) with
  | some (r, row) => sieBreach w 0 (row * w.b) r.ix (some r.e)
  | none => pure ()
  let xs := (bvals (x ++ ms)).toArray
  return w.recs.flatMap (fun row => (List.range w.b).map (fun i =>
    row.foldl (fun acc r => (List.range w.b).foldl (fun acc j =>
      acc.add ((Qv.mk (r.m.getD (i * w.b + j) 0) 1 r.e).mul (xs.getD (r.col * w.b + j) Qv.zero))) acc) Qv.zero))

/-! ### Preconditioners -/

/-- A row's substituted value as a 64-bit fixed-point number at exponent L_Z; outside its range it is a breach of role Z (06 R190). -/
def substFix (lz : Int) (acc : Array Qv × Option (Nat × Int)) (row : Nat) (q : Qv) : Array Qv × Option (Nat × Int) :=
  (acc.1.setIfInBounds row ⟨q.roundAt lz, 1, lz⟩,
    if acc.2.isNone && !q.fits 64 lz then some (row, fitExp [q] 64 expFuel lz) else acc.2)

/-- Substitution forward through L and backward through U (06 R190), given each row's stored entries. A valid level list never changes a
bit (06 R191), so rows are taken in their own order. -/
def substitute (lz : Int) (n : Nat) (entries : Nat → List (Nat × Qv)) (r : List Qv) : Array Qv × Option (Nat × Int) :=
  let dotRow := fun (ys : Array Qv) (row : Nat) (keep : Nat → Bool) (v : Qv) =>
    (entries row).foldl (fun a e => if keep e.1 then a.add ((e.2.mul (ys.getD e.1 Qv.zero)).neg) else a) v
  let fwd := (List.range n).foldl (fun st row => substFix lz st row (dotRow st.1 row (fun c => decide (c < row)) (st.1.getD row Qv.zero))) (r.toArray, none)
  (List.range n).reverse.foldl (fun st row =>
    let rcp := match (entries row).find? (fun e => e.1 == row) with | some e => e.2 | none => ⟨Config.missingPivot row, 1, lz⟩
    substFix lz st row (rcp.mul (dotRow st.1 row (fun c => decide (row < c)) (st.1.getD row Qv.zero)))) fwd

/-- The stored entries of a scalar row of block-Jacobi or ILU(0) factors. -/
def factorEntries (w : SieIn) (row : Nat) : List (Nat × Qv) :=
  if w.cb 2 1 = 2 then
    let bj := w.cb 3 1
    let g := w.groups.getD (row / bj) (0, [])
    (List.range bj).map (fun j => (row / bj * bj + j, ⟨g.2.getD (row % bj * bj + j) 0, 1, g.1⟩))
  else ((w.ilu.getD (row / w.b) []).flatMap (fun r => (List.range w.b).map (fun j =>
    (r.col * w.b + j, Qv.mk (r.m.getD (row % w.b * w.b + j) 0) 1 r.e))))

/-- The first factor group or record outside the window of M, as (element, index, exponent) (06 R171). -/
def factorOut (w : SieIn) : Option (Nat × Nat × Int) :=
  let win := w.window 1
  let out := fun (e : Int) => decide (e < win.1) || decide (win.2 < e)
  let per := if w.cb 2 1 = 1 then 64 else w.cb 3 1
  match w.groups.zipIdx.find? (fun g => out g.1.1) with
  | some g => some (g.2 * per, (if w.cb 2 1 = 1 then g.2 * per else g.2), g.1.1)
  | none => (w.ilu.zipIdx.findSome? (fun rw => (rw.1.find? (fun r => out r.e)).map (fun r => (rw.2 * w.b, r.ix, r.e))))

/-- The preconditioner applied to a vector, before it is written (06 Table 10, R190). -/
def sieApply (w : SieIn) (r : Bvec) : SieM (List Qv) := do
  match (if w.cb 2 1 = 0 then none else factorOut w) with
  | some (el, ix, e) => sieBreach w 1 el ix (some e)
  | none => pure ()
  match w.cb 2 1 with
  | 0 => return bvals r
  | 1 => return List.zipWith Qv.mul (bvals w.groups) (bvals r)
  | _ =>
    let lz := (w.window 3).1
    let (z, bad) := substitute lz w.n (factorEntries w) (bvals r)
    match bad with
    | some (row, e) => sieBreach w 3 row row (some e)
    | none => pure ()
    return z.toList

/-- Minv(r) as a vector of role Z. -/
def sieMinv (w : SieIn) (r : Bvec) : SieM Bvec := do
  let z ← sieApply w r
  sieWrite w 3 z

/-! ### Scalars -/

def fAdd (a b : Nat) : Nat := (Fmt.fp64.add a b).1
def fMul (a b : Nat) : Nat := (Fmt.fp64.mul a b).1
def fDiv (a b : Nat) : Nat := (Fmt.fp64.div a b).1
def fNeg (a : Nat) : Nat := a ^^^ 2 ^ 63
/-- Comparisons of FP64 numbers: at most, equal. -/
def fLe (a b : Nat) : Bool := (Fmt.fp64.cmp 3 a b).1
def fEq (a b : Nat) : Bool := (Fmt.fp64.cmp 0 a b).1
/-- FP64 one. -/
def fOne : Nat := 0x3FF0000000000000

/-- An inner iteration begins: a boundary, at which a held solve stops (06 R207, R208). -/
def sieIterate (i : Nat) : SieM Unit := do
  let v ← get
  if v.hold && decide (v.passed ≤ v.seen) then throw .pause
  else set { v with seen := v.seen + 1, iter := i, iters := v.iters + 1 }

/-- A breakdown: it ends the solve in the first iteration of a sweep, and the sweep otherwise (06 R195). -/
def sieBroken (i : Nat) (d : Bvec) : SieM Bvec := do
  if i = 1 then throw (.fin St.sieBreakdown)
  else
    modify (fun v => { v with flags := v.flags ||| 128 })
    return d

/-- RTOL_IN² × a. -/
def tolSq (w : SieIn) (a : Nat) : Nat := fMul (fMul (w.cb 24 8) (w.cb 24 8)) a

/-! ### CG -/

/-- Iterations of CG from the `i`-th, with `f` left (06 R192). -/
def cgLoop (w : SieIn) (rz0 : Nat) : Nat → Nat → Bvec → Bvec → Bvec → Nat → SieM Bvec
  | 0, _, d, _, _, _ => return d
  | f + 1, i, d, r, p, rz => do
    sieIterate i
    let aq ← sieProduct w 4 0 p
    let q ← sieWrite w 5 aq
    let pq ← sieDot w 11 4 p q
    if fLe pq 0 then sieBroken i d
    else
      let al := fDiv rz pq
      let a1 ← sieScalar w 7 al
      let d1 ← sieWrite w 7 (combine w.n [(Qv.one, d), (a1, p)])
      let a2 ← sieScalar w 2 al
      let r1 ← sieWrite w 2 (combine w.n [(Qv.one, r), (a2.neg, q)])
      let z ← sieMinv w r1
      let rzn ← sieDot w 9 2 r1 z
      if fLe rzn (tolSq w rz0) then return d1
      else
        let be ← sieScalar w 4 (fDiv rzn rz)
        let p1 ← sieWrite w 4 (combine w.n [(Qv.one, z), (be, p)])
        cgLoop w rz0 f (i + 1) d1 r1 p1 rzn

/-- CG (06 R192). -/
def sieCg (w : SieIn) (rt : Bvec) : SieM Bvec := do
  let z ← sieMinv w rt
  let p ← sieWrite w 4 (bvals z)
  let rz ← sieDot w 9 2 rt z
  cgLoop w rz (w.cb 8 4) 1 (bzero w 7) rt p rz

/-! ### BiCGSTAB -/

/-- The vectors and scalars of BiCGSTAB between iterations. -/
structure Bicg where
  d      : Bvec
  r      : Bvec
  p      : Bvec
  v      : Bvec
  rho    : Nat
  rhoOld : Nat
  alpha  : Nat
  omega  : Nat

/-- Iterations of BiCGSTAB (06 R193). -/
def bicgLoop (w : SieIn) (rh : Bvec) (rr0 : Nat) : Nat → Nat → Bicg → SieM Bvec
  | 0, _, b => return b.d
  | f + 1, i, b => do
    sieIterate i
    if fEq b.rho 0 then sieBroken i b.d
    else
      let be ← sieScalar w 4 (fMul (fDiv b.rho b.rhoOld) (fDiv b.alpha b.omega))
      let om ← sieScalar w 4 b.omega
      let p ← sieWrite w 4 (combine w.n [(Qv.one, b.r), (be, b.p), ((be.mul om).neg, b.v)])
      let ph ← sieMinv w p
      let av ← sieProduct w 3 0 ph
      let v ← sieWrite w 5 av
      let rv ← sieDot w 10 2 rh v
      if fEq rv 0 then sieBroken i b.d
      else
        let alpha := fDiv b.rho rv
        let a1 ← sieScalar w 6 alpha
        let sv ← sieWrite w 6 (combine w.n [(Qv.one, b.r), (a1.neg, v)])
        let sh ← sieMinv w sv
        let at_ ← sieProduct w 3 1 sh
        let t ← sieWrite w 5 at_
        let tt ← sieDots w [(12, 5, t, sv), (13, 5, t, t)]
        let omega := if fEq (tt.getD 1 0) 0 then 0 else fDiv (tt.getD 0 0) (tt.getD 1 0)
        let a2 ← sieScalar w 7 alpha
        let o2 ← sieScalar w 7 omega
        let d ← sieWrite w 7 (combine w.n [(Qv.one, b.d), (a2, ph), (o2, sh)])
        let o3 ← sieScalar w 2 omega
        let r ← sieWrite w 2 (combine w.n [(Qv.one, sv), (o3.neg, t)])
        let rs ← sieDots w [(8, 2, rh, r), (8, 2, r, r)]
        if fLe (rs.getD 1 0) (tolSq w rr0) then return d
        else if fEq omega 0 then sieBroken i d
        else bicgLoop w rh rr0 f (i + 1) ⟨d, r, p, v, rs.getD 0 0, b.rho, alpha, omega⟩

/-- BiCGSTAB (06 R193). -/
def sieBicg (w : SieIn) (rt : Bvec) : SieM Bvec := do
  let rs ← sieDots w [(8, 2, rt, rt), (8, 2, rt, rt)]
  bicgLoop w rt (rs.getD 1 0) (w.cb 8 4) 1 ⟨bzero w 7, rt, bzero w 4, bzero w 5, rs.getD 0 0, fOne, fOne, fOne⟩

/-! ### GMRES -/

/-- The dot products of the basis with `x`, three to a reduction (06 R194). -/
def gramPass (w : SieIn) (x : Bvec) : Nat → List Bvec → SieM (List Nat)
  | 0, _ => return []
  | f + 1, vs => do
    if vs.isEmpty then return []
    else
      let a ← sieDots w ((vs.take 3).map (fun v => (11, 4, v, x)))
      let rest ← gramPass w x f (vs.drop 3)
      return a ++ rest

/-- x − Σ c[k]·v[k] in role Q. -/
def gramSub (w : SieIn) (x : Bvec) (cs : List Nat) (vs : List Bvec) : SieM Bvec := do
  let qs ← cs.mapM (sieScalar w 5)
  sieWrite w 5 (combine w.n ((Qv.one, x) :: List.zipWith (fun c v => (c.neg, v)) qs vs))

/-- A vector divided by a positive scalar, in role P; any other scalar makes it a breach. -/
def sieDivide (w : SieIn) (x : Bvec) (g : Nat) : SieM Bvec := do
  match qvOf g with
  | some q =>
    if 0 < q.num then sieWrite w 4 ((bvals x).map (fun v => ⟨v.num, q.num.toNat, v.e - q.e⟩))
    else do
      sieBreach w 4 0 0 (some 32767)
      return bzero w 4
  | none => do
    sieBreach w 4 0 0 (some 32767)
    return bzero w 4

/-- FP64 fused multiply-add. -/
def fFma (a b c : Nat) : Nat := (Fmt.fp64.fma a b c).1

/-- The Givens rotation that takes (a, b) to (r, 0): cosine, sine and r (06 R194; log entry 25). -/
def givens (a b : Nat) : Nat × Nat × Nat :=
  if fEq b 0 then (fOne, 0, a)
  else
    let h0 := (Fmt.fp64.sqrt (if bitAt Config.gmresForm 0 then fFma a a (fMul b b) else fAdd (fMul a a) (fMul b b))).1
    let h := if bitAt Config.gmresForm 4 then fNeg h0 else h0
    (fDiv a h, fDiv b h, h)

/-- A rotation applied to two numbers: c·x + s·y and c·y − s·x (06 R194; log entry 25). -/
def rotate (c s x y : Nat) : Nat × Nat :=
  if bitAt Config.gmresForm 1 then (fFma c x (fMul s y), fFma c y (fNeg (fMul s x)))
  else (fAdd (fMul c x) (fMul s y), fAdd (fMul c y) (fNeg (fMul s x)))

/-- Back substitution of an upper triangular FP64 system given by rows, from the last row up (06 R194; log entry 25). -/
def backSubst (rows : List (List Nat)) (s : List Nat) : List Nat :=
  (List.range rows.length).reverse.foldl (fun ys i =>
    let row := rows.getD i []
    let terms := (row.drop (i + 1)).zip ys
    let acc := (if bitAt Config.gmresForm 3 then terms.reverse else terms).foldl (fun a t =>
      if bitAt Config.gmresForm 2 then fFma (fNeg t.1) t.2 a else fAdd a (fNeg (fMul t.1 t.2))) (s.getD i 0)
    fDiv acc (row.getD i 0) :: ys) []

/-- A rotation applied to the elements k and k + 1 of a list. -/
def rotateAt (l : List Nat) (k : Nat) (cs : Nat × Nat) : List Nat :=
  let r := rotate cs.1 cs.2 (l.getD k 0) (l.getD (k + 1) 0)
  (l.set k r.1).set (k + 1) r.2

/-- A cycle of GMRES: the basis, the columns of H, the rotations, s and the count of iterations. -/
structure Gmres where
  vs   : List Bvec
  cols : List (List Nat)
  rots : List (Nat × Nat)
  s    : List Nat
  it   : Nat

/-- The magnitude of an FP64 number. -/
def fAbs (a : Nat) : Nat := a % 2 ^ 63

/-- The inner loop of a cycle, with `f` columns left (06 R194). -/
def gmresInner (w : SieIn) (g0 : Nat) : Nat → Gmres → SieM Gmres
  | 0, g => return g
  | f + 1, g => do
    sieIterate (g.it + 1)
    let j := g.cols.length
    let z ← sieMinv w (g.vs.getD j [])
    let az ← sieProduct w 3 0 z
    let x0 ← sieWrite w 5 az
    let h ← gramPass w x0 (j + 1) g.vs
    let x1 ← gramSub w x0 h g.vs
    let c ← gramPass w x1 (j + 1) g.vs
    let x2 ← gramSub w x1 c g.vs
    let ww ← sieDot w 13 5 x2 x2
    let hn := (Fmt.fp64.sqrt ww).1
    let col0 := (List.zipWith fAdd h c) ++ [hn]
    let col1 := (g.rots.zipIdx).foldl (fun l r => rotateAt l r.2 r.1) col0
    let gv := givens (col1.getD j 0) (col1.getD (j + 1) 0)
    let col2 := (col1.set j gv.2.2).set (j + 1) 0
    let s := rotateAt g.s j (gv.1, gv.2.1)
    let g1 : Gmres := { g with cols := g.cols ++ [col2], rots := g.rots ++ [(gv.1, gv.2.1)], s := s, it := g.it + 1 }
    if fEq hn 0 || fLe (fAbs (s.getD (j + 1) 0)) (fMul (w.cb 24 8) g0) || g1.it == w.cb 8 4 then return g1
    else
      let v ← sieDivide w x2 hn
      gmresInner w g0 f { g1 with vs := g1.vs ++ [v] }

/-- The cycles of GMRES, with `f` left (06 R194). -/
def gmresLoop (w : SieIn) (rt : Bvec) (g0 : Nat) : Nat → Bvec → Bvec → Nat → Nat → SieM Bvec
  | 0, d, _, _, _ => return d
  | f + 1, d, r, g, it => do
    let m := w.cb 1 1
    let v0 ← sieDivide w r g
    let c ← gmresInner w g0 m ⟨[v0], [], [], g :: List.replicate m 0, it⟩
    let k := c.cols.length
    let y := backSubst ((List.range k).map (fun i => (List.range k).map (fun j => (c.cols.getD j []).getD i 0))) (c.s.take k)
    let ys ← y.mapM (sieScalar w 4)
    let u ← sieWrite w 4 (combine w.n (ys.zip c.vs))
    let mu ← sieApply w u
    let d1 ← sieWrite w 7 (List.zipWith Qv.add (bvals d) mu)
    if fLe (fAbs (c.s.getD k 0)) (fMul (w.cb 24 8) g0) || c.it == w.cb 8 4 then return d1
    else
      let ad ← sieProduct w 7 1 d1
      let r1 ← sieWrite w 2 (List.zipWith (fun a b => a.add b.neg) (bvals rt) ad)
      let rr ← sieDot w 8 2 r1 r1
      gmresLoop w rt g0 f d1 r1 (Fmt.fp64.sqrt rr).1 c.it

/-- GMRES (06 R194). -/
def sieGmres (w : SieIn) (rt : Bvec) : SieM Bvec := do
  let rr ← sieDot w 8 2 rt rt
  let g := (Fmt.fp64.sqrt rr).1
  gmresLoop w rt g (w.cb 8 4) (bzero w 7) rt g 0

/-! ### Refinement -/

/-- floor(log2) of a positive finite FP64 number; 0 of any other. -/
def fLog2 (bits : Nat) : Int := match Fmt.fp64.decode bits with | .num _ m e => e + bitLen m - 1 | _ => 0

/-- The norm of an FP64 vector, σ, whether its maximum is 0, and the vector times 2^σ in role R (06 R196). -/
def sieNorm (w : SieIn) (r : List Nat) : SieM (Nat × Int × Bool × Bvec) := do
  let mx := r.foldl (fun m x => (Fmt.fp64.minMax true m (fAbs x)).1) 0
  let a ← sieReduce [0x16] [mx]
  let m := fieldOf (a.getD 0 0) 0 64
  if m = 0 then return (0, 0, true, bzero w 2)
  else
    let sigma := (w.window 2).2 + 29 - (if (qvOf m).isSome then fLog2 m else 0)
    let v ← sieConvert w 2 r sigma
    let d ← sieDot w 8 2 v v
    let nrm := match Fmt.fp64.decode (Fmt.fp64.sqrt d).1 with
      | .num s mm e => (Fmt.fp64.convert (.num s mm (e - sigma))).1
      | _ => (Fmt.fp64.sqrt d).1
    return (nrm, sigma, false, v)

/-- The FP64 residual b − A64·x, with the mirrors of x (06 R197, R198). -/
def sieResidual (w : SieIn) (x : List Nat) : SieM (List Nat) := do
  let ms ← sieHaloData w 2 (fun sc => [(8 * (sc.1 % 64), ((x.drop sc.1).take sc.2).flatMap (leBytes 8))])
  let xs := (x ++ (List.range (64 * w.nmirror)).map (fun i => ms.getD i 0)).toArray
  return List.zipWith (fun b row => row.foldl (fun c (e : Nat × Nat) => (Fmt.fp64.fma (fNeg e.2) (xs.getD e.1 0) c).1) b) w.rhs w.a64

/-- x + d × 2^-σ, rounded once per element (06 R196). -/
def sieAddX (x : List Nat) (d : Bvec) (sigma : Int) : List Nat :=
  List.zipWith (fun a q => (Fmt.fp64.ofFv ((Fmt.fp64.decode a).add (.num (decide (q.num < 0)) q.num.natAbs (q.e - sigma))).1).1) x (bvals d)

/-- The inner solve of the method (06 R192 to R194). -/
def sieInner (w : SieIn) (rt : Bvec) : SieM Bvec :=
  match w.cb 0 1 with
  | 0 => sieCg w rt
  | 1 => sieBicg w rt
  | _ => sieGmres w rt

/-- The sweeps (06 R196): `f` are left, and r's norm, σ, zero test and scaled vector are known. A sweep is complete when the norm of its
residual is known (log entry 25). -/
def sieSweeps (w : SieIn) (nb : Nat) : Nat → Nat → Nat × Int × Bool × Bvec → SieM Unit
  | 0, _, nr => do
    if nr.2.2.1 then
      modify (fun v => { v with flags := v.flags ||| 1 })
      throw (.fin St.ok)
    else throw (.fin (if w.cb 16 8 = 0 then St.ok else if bitAt (w.cb 4 2) 3 then 0x0004 else St.sieNotConverged))
  | f + 1, k, nr => do
    if nr.2.2.1 || (w.cb 16 8 != 0 && fLe nr.1 (fMul (w.cb 16 8) nb)) then do
      modify (fun v => { v with flags := v.flags ||| 1 })
      throw (.fin St.ok)
    else
      modify (fun v => { v with sweep := k, iter := 0 })
      let d ← sieInner w nr.2.2.2
      let v ← get
      let x := sieAddX v.x d nr.2.1
      let r ← sieResidual w x
      let nr1 ← sieNorm w r
      modify (fun v => { v with x := x, done := k, normR := nr1.1 })
      sieSweeps w nb f (k + 1) nr1

/-- The whole loop of R196; it ends by a stop. -/
def sieLoop (w : SieIn) : SieM Unit := do
  let nb ← sieNorm w w.rhs
  modify (fun v => { v with normB := nb.1 })
  let r ← sieResidual w w.guess
  let nr ← sieNorm w r
  modify (fun v => { v with normR0 := nr.1, normR := nr.1 })
  if !w.zero && !fLe nr.1 nb.1 then do
    modify (fun v => { v with x := List.replicate w.n 0, flags := v.flags ||| 4, normR := nb.1 })
    sieSweeps w nb.1 (w.cb 6 1) 1 nb
  else sieSweeps w nb.1 (w.cb 6 1) 1 nr

end Sys2Proof.Machine
end

