-- ==== Sys2Proof/Machine/Sie.lean ====
section
/-! DEFINITION. The Sparse Iteration Engine: start, reductions, halo exchange, switching and the end of a solve (06 R196 to
R208, 15 R503). -/

namespace Sys2Proof.Machine

/-- The solve that a descriptor runs. -/
def sieOf (d : Desc) : Option SieWork := match d.work with | .sie w => some w | _ => none

/-- The dies of a solve. -/
def SieWork.dies (w : SieWork) : List Nat := maskDies (w.inp.cb 7 1)

/-- Running solves that hold their SIEs, with their rings (06 R207). -/
def siesHeld (s : State) : List (Nat × Desc × SieWork) :=
  (runningAll s).filterMap (fun x => (sieOf x.2).bind (fun w => if w.out then none else some (x.1, x.2, w)))

/-- A solve holds one of these SIEs. -/
def sieBusy (s : State) (dies : List Nat) : Bool := (siesHeld s).any (fun x => x.2.2.dies.any dies.contains)

/-- The loop's variables at the start of a replay. -/
def sieVars (s : State) (w : SieWork) (hold : Bool) : SieVar :=
  { answers := w.answers, members := if w.inp.multi then groupCount s (w.inp.cb 152 1) else 1, hold := hold, passed := w.passed
    seen := 0, breach := none, sweep := 0, done := 0, iter := 0, iters := 0, flags := w.inp.wsFlags, normB := 0, normR0 := 0
    normR := 0, x := w.inp.guess }

/-- The loop run up to its next stop; a solve that has not entered it has only its starting values. -/
def sieReplay (s : State) (w : SieWork) (hold : Bool) : Except SieStop Unit × SieVar :=
  if w.stage < 2 then (.ok (), { sieVars s w hold with breach := w.fbreach })
  else (StateT.run (ExceptT.run (sieLoop w.inp)) (sieVars s w hold)).run

/-! ### The end of a solve -/

/-- A solve's final status from the loop's, by R205. -/
def sieStatus (w : SieWork) (flags : Nat) (st : BitVec 16) : BitVec 16 :=
  if st != St.ok then st
  else if 0 < w.pivots then 0x0003
  else if bitAt flags 1 || bitAt flags 2 then 0x0002
  else St.ok

/-- The statuses after which X is written (06 R206). -/
def sieWritesX (st : BitVec 16) : Bool := satisfies st || st == St.rangeBreach || st == St.sieNotConverged || st == St.sieBreakdown

/-- X with free contents, and 0 in its fingerprint word as far as it can be written (06 R200, R206). -/
def sieUndefX (s : State) (p : Nat) (w : SieIn) : State :=
  tryWrite (scramble s (storeRanges s p [(w.cb 88 8, 8 * w.n)])) p (w.cb 144 8) (leBytes 8 0)

/-- X and its fingerprint at completion (06 R200, R206): the state, XOUT, the status and a failed access. A failure here counts only where no
failing status was detected before (06 R205), and leaves X undefined where it makes the status one after which X is not written. -/
def sieOutput (s : State) (p : Nat) (w : SieIn) (x : List Nat) (st : BitVec 16) : State × Nat × BitVec 16 × Option MemErr :=
  if sieWritesX st then
    match writeVa s p (w.cb 88 8) (x.flatMap (leBytes 8)) with
    | .ok s1 =>
      match writeVa s1 p (w.cb 144 8) (leBytes 8 w.fp) with
      | .ok s2 => (s2, 1, st, none)
      | .error e => if satisfies st then (sieUndefX s1 p w, 2, memStatus St.sieAddress e, some e) else (s1, 1, st, none)
    | .error e =>
      if satisfies st then (sieUndefX s p w, 2, memStatus St.sieAddress e, some e) else (sieUndefX s p w, 2, st, none)
  else (s, 0, st, none)

/-- The report (06 Table 13). CYCLES counts time and is a free value. -/
def sieReport (w : SieWork) (v : SieVar) (st : BitVec 16) (xout cycles : Nat) : List Byte :=
  let own := st == St.rangeBreach && v.breach.isSome
  let b := if own then v.breach else none
  let f := fun (g : SieBreach → Nat) => match b with | some x => g x | none => 0
  layoutBytes 128 [(0, 2, st.toNat),
    (2, 2, v.flags ||| (if 0 < w.pivots then 16 else 0) ||| (if own then 32 else if st == St.rangeBreach then 64 else 0) ||| (xout * 256)),
    (4, 1, v.done), (8, 4, v.iters), (12, 4, satNat 32 w.pivots), (16, 8, v.normB), (24, 8, v.normR0), (32, 8, v.normR),
    (40, 1, f (·.role)), (41, 1, f (·.die)), (42, 2, f (fun x => ofSigned 16 (x.exp.getD 0))), (44, 4, f (·.iter)), (48, 8, f (·.index)),
    (56, 1, f (·.sweep)), (64, 8, w.fmas), (72, 8, cycles)]

/-- A free exponent for a breach that names none (06 R185; log entry 25). -/
def breachExp (s : State) (v : SieVar) : SieVar × State :=
  match v.breach with
  | some b => if b.exp.isNone then
      let (x, s1) := fresh s
      ({ v with breach := some { b with exp := some (toSigned 16 x.toNat) } }, s1)
    else (v, s)
  | none => (v, s)

/-- A solve ends: X, its fingerprint, the report, the record (06 R200, R205, R206). -/
def sieEnd (s : State) (r : Nat) (d : Desc) (w : SieWork) (v : SieVar) (st detail : Nat) (failed : Option MemErr) : State :=
  let st0 := sieStatus w v.flags (BitVec.ofNat 16 st)
  let (v1, s0) := breachExp s v
  let (s1, xout, st1, er1) := sieOutput s0 d.part w.inp v1.x st0
  let st2 := if st1 == St.ok && d.corrected then St.okCorrected else st1
  let (cyc, s2) := fresh s1
  let (s3, st3, er3) := match writeVa s2 d.part (w.inp.cb 128 8) (sieReport w v1 st2 xout cyc.toNat) with
    | .ok t => (t, st2, er1)
    | .error e => if satisfies st2 then (sieUndefX s2 d.part w.inp, memStatus St.sieAddress e, some e) else (s2, st2, er1)
  let s4 := scramble ((maskTiles w.rgroups).foldl scrambleTile s3) (storeRanges s3 d.part (sieOwnWork w.inp true))
  if st3 = St.remoteDead ∧ detail = 0 then endWith s4 r d st3 0 (mkErr 0x03 2 2 (unitField 2 (w.dies.headD 0)) none 0 [])
  else match er3.orElse (fun _ => failed) with
    | some e => endWith s4 r d st3 detail (memRecord d St.sieAddress e)
    | none => endDesc s4 r d st3 detail

/-- A running solve fails with a status from outside its loop. -/
def sieFail (s : State) (r : Nat) (d : Desc) (w : SieWork) (st : BitVec 16) (detail : Nat) (failed : Option MemErr := none) : State :=
  sieEnd s r d w (sieReplay s w false).2 st.toNat detail failed

/-! ### Running -/

/-- Lanes of 16 B with free values (06 R181). -/
def freeLanes (s : State) (n : Nat) : List Nat × State :=
  ((List.range n).map (fun i => (Config.freeValue (s.freeCount + 2 * i)).toNat + (Config.freeValue (s.freeCount + 2 * i + 1)).toNat * 2 ^ 64),
    { s with freeCount := s.freeCount + 2 * n })

/-- A reduction is entered: by a single member alone, or as a Mordant operation of its group (06 R184, 12 R403). -/
def sieEnter (s : State) (r : Nat) (d : Desc) (w : SieWork) (fmts lanes : List Nat) : State :=
  let s1 := setDesc s r { d with work := .sie { w with wait := 0, lanes := lanes, result := none, ops := w.ops + 1 } }
  if w.inp.multi then
    { s1 with mordantWait := s1.mordantWait ++ [⟨w.inp.cb 152 1, 0, fmts, lanes, 0,
        (if w.inp.cb 156 4 = 0 then 10000 else w.inp.cb 156 4), r, d.seq, w.ops⟩] }
  else s1

/-- Offset of WORK in the exported window of the partition's job. -/
def sieOffset (s : State) (p work : Nat) : Nat :=
  match boundJob s p with
  | some j => work - ofld s (Reg.fabJob + 32 * j + 8) 21 27 * 0x200000
  | none => work

/-- The Vat requests of a halo exchange: each segment through the F-die of the die that holds it (06 R197, 11 R366). -/
def haloReqs (s : State) (r : Nat) (d : Desc) (w : SieWork) (sends : List (Nat × Nat × Nat × List Byte)) : List VatReq :=
  let base := sieOffset s d.part (w.inp.cb 112 8)
  sends.map (fun x => ⟨d.part, .sie r d.seq, x.1, x.2.1, base + x.2.2.1, false, 1, x.2.2.2.length, x.2.2.2⟩)

/-- A segment of a halo exchange is acknowledged; after the last one, 1 is added to each destination's arrival counter (06 R197). -/
def haloAck (s : State) (r : Nat) (d : Desc) (w : SieWork) : State :=
  let s1 := setDesc s r { d with work := .sie { w with acks := w.acks - 1 } }
  if w.acks = 1 then
    { s1 with vatQueue := s1.vatQueue ++ w.adds.map (fun nd =>
        ⟨d.part, .sie r d.seq, w.dies.headD 0 / 4, nd, sieOffset s d.part (w.inp.cb 112 8) + Config.sieCounter, false, 2, 4, leBytes 4 1⟩) }
  else s1

/-- The bytes of a halo exchange after a breach: free values (06 R181). -/
def freeSends (s : State) : List (Nat × Nat × Nat × List Byte) → List (Nat × Nat × Nat × List Byte) × State
  | [] => ([], s)
  | x :: l =>
    let (rest, s1) := freeSends { s with freeCount := s.freeCount + x.2.2.2.length } l
    ((x.1, x.2.1, x.2.2.1, freeBytes s.freeCount x.2.2.2.length) :: rest, s1)

/-- The solve is held at its next boundary: switched out, or paused under supply stage S3 (06 R207, R208). -/
def sieHeld (s : State) (w : SieWork) : Bool := w.asked || decide (3 ≤ stage s)

/-- SWITCHES of the dies of a solve. -/
def countSwitch (s : State) (w : SieWork) : State :=
  { s with sieSwitches := w.dies.foldl (fun m k => sset (fun _ => 0) m k ((sget (fun _ => 0) m k + 1) % 2 ^ 32)) s.sieSwitches }

/-- A solve runs to its next stop; what it keeps in its own part of WORK there is not stated (06 R202; log entry 25). -/
def sieRun (s : State) (r : Nat) (d : Desc) (w : SieWork) : State :=
  let (res, v) := sieReplay s w (sieHeld s w)
  let w0 := { w with passed := v.seen, sweep := v.sweep, iter := v.iter }
  let w1 := { w0 with rep := sieReport w0 v 0 0 0 }
  let s := scramble s (storeRanges s d.part (sieOwnWork w.inp false))
  match res with
  | .ok _ => s
  | .error (.fin st) => sieEnd s r d w1 v st.toNat 0 none
  | .error .pause =>
    let s1 := setDesc s r { d with work := .sie { w1 with wait := 2, out := w.asked, asked := false } }
    if w.asked then countSwitch s1 w1 else s1
  | .error (.red fmts lanes breached) =>
    if breached then
      let (fs, s1) := freeLanes s (lanes.length - 1)
      sieEnter s1 r d w1 fmts (fs ++ [1])
    else sieEnter s r d w1 fmts lanes
  | .error (.halo code sends) =>
    let (sd, s1) := if v.breach.isSome then freeSends s sends else (sends, s)
    let s2 := setDesc s1 r { d with work := .sie { w1 with wait := 1, code := code, halos := w.halos + 1, acks := sd.length, adds := (sd.map (·.2.1)).eraseDups } }
    { s2 with vatQueue := s2.vatQueue ++ haloReqs s r d w1 sd }

/-- A partition reserves SIE time on a die (15 R503). -/
def sieReserves (s : State) (p k : Nat) : Bool :=
  partValid s p && decide (0 < ofld s (Reg.prtPartCfg + 0x40 * p) 32 7) && bitAt (ofld s (Reg.prtPartCfg + 0x40 * p) 40 8) k

/-- The SIEs and the tile groups that a solve's control block names. -/
def solveNeeds (s : State) (d : Desc) : List Nat × Nat :=
  match sieRead s d.part (d.fld 20 6) 256 with
  | .ok c => (maskDies (leField c 7 1), leField c 192 21)
  | .error _ => ([], 0)

/-- A partition other than `q` reserves time on die `k` and has a solve ready for it, waiting or switched out (15 R503). -/
def sieClaimed (s : State) (q k : Nat) : Bool :=
  (List.range 8).any (fun p => p != q && sieReserves s p k &&
    ((partRings s p).any (fun r => (ringOf s r).descs.any (fun d => d.phase == .waiting && d.engine == 3 && isReady s r d.seq &&
        (solveNeeds s d).1.contains k)) ||
      (runningAll s).any (fun x => x.2.part == p && (sieOf x.2).any (fun w => w.out && w.dies.contains k))))

/-- A reservation of another partition keeps a solve of partition `p` from these SIEs (15 R503). -/
def sieBarred (s : State) (p : Nat) (dies : List Nat) : Bool := dies.any (fun k => !sieReserves s p k && sieClaimed s p k)

/-- Solves that wait at a boundary and may go on: none holds their SIEs or claims them by a reservation, and no supply stage S3 is in force. -/
def sieReady (s : State) : Option (Nat × Desc × SieWork) :=
  if 3 ≤ stage s then none
  else (runningAll s).findSome? (fun x => (sieOf x.2).bind (fun w =>
    if w.wait = 2 ∧ !w.asked ∧ (!w.out || !(sieBusy s w.dies || sieBarred s x.2.part w.dies)) then some (x.1, x.2, w) else none))

/-- Solves that wait at a boundary go on (06 R207, R208). -/
def sieResume : Nat → State → State
  | 0, s => s
  | f + 1, s => match sieReady s with
    | none => s
    | some (r, d, w) => sieResume f (sieRun s r d { w with out := false, wait := 0 })

/-- Every solve that may go on does. -/
def sieWake (s : State) : State := sieResume (runningAll s).length s

/-! ### Start -/

/-- The check value of R204, over the fields in the rule's order, each at its width in the control block (log entry 25). -/
def sieCheck (s : State) (p : Nat) (w : SieIn) : Nat :=
  let f := fun off n => leBytes n (w.cb off n)
  crc64 0 (f 0 1 ++ f 1 1 ++ f 2 1 ++ f 3 1 ++ f 4 2 ++ f 6 1 ++ f 8 4 ++ f 12 4 ++ f 16 8 ++ f 24 8 ++ f 32 8 ++ leBytes 4 w.certCrc ++
    leBytes 8 (sieOffset s p (w.cb 112 8)))

/-- Formats of a check reduction: UINT64 MIN and MAX (12 Table 1). -/
def checkFmts : List Nat := [0x0B, 0x13, 0x04]

/-- A member that failed its own checks contributes 0 to the group's reduction (06 R204). -/
def sieExcuse (s : State) (r : Nat) (seq : BitVec 32) (c : List Byte) (idx : Nat) : State :=
  if leField c 153 1 = 1 then
    { s with mordantWait := s.mordantWait ++ [⟨leField c 152 1, 0, checkFmts, [0, 0, 0], 0,
        (if leField c 156 4 = 0 then 10000 else leField c 156 4), r, seq, idx⟩] }
  else s

/-- A solve that has passed its checks starts its loop. -/
def sieLoopStart (s : State) (r : Nat) (d : Desc) (w : SieWork) : State := sieRun s r d { w with stage := 2 }

/-- FACT and PIVCNT written after a factorisation (06 R187, R189). -/
def sieStore (s : State) (p : Nat) (f : FResult) : Except MemErr State :=
  writeAll s p ((if f.breach.isSome then [] else factorWrites f.inp f.total) ++
    (if f.inp.cb 136 8 = 0 then [] else [(f.inp.cb 136 8, f.counts.flatMap (fun c => leBytes 4 (satNat 32 c)))]))

/-- The factorisation of a solve with FLAGS.FACTOR, and the reduction after it (06 R187 to R191, R204). -/
def sieFactorStage (s : State) (r : Nat) (d : Desc) (w : SieWork) : State :=
  if w.inp.cb 2 1 = 0 || !bitAt (w.inp.cb 4 2) 0 then sieLoopStart s r d w
  else
    let own := fun (s : State) (w : SieWork) (st : BitVec 16) (er : Option MemErr) => sieFail (sieExcuse s r d.seq w.inp.ctrl w.ops) r d w st 0 er
    if w.inp.cb 2 1 == 3 && !levelsOk w.inp.recs w.inp.doms then own s w St.sieInvalid none
    else
      let f := factorResult w.inp
      let w1 := { w with inp := f.inp, pivots := f.total, fmas := f.fmas, fbreach := f.breach, stage := 1 }
      match sieStore s d.part f with
      | .error e => own s w1 (memStatus St.sieAddress e) (some e)
      | .ok s1 =>
        if f.breach.isNone && bitAt (w.inp.cb 4 2) 2 && decide (0 < f.total) then own s1 w1 St.siePivot none
        else if w.inp.multi then
          let c := sieCheck s d.part w.inp
          sieEnter s1 r d w1 checkFmts [c, c, b2n f.breach.isSome]
        else if f.breach.isSome then sieFail s1 r d w1 St.rangeBreach 0
        else sieLoopStart s1 r d w1

/-- What a solve reads at its start: the inputs, and the factors unless it factorises (06 R187, R201). -/
def sieGather (s : State) (p addr : Nat) : Except Fail SieIn :=
  match sieInputs s p addr with
  | .error e => .error e
  | .ok w => if w.cb 2 1 = 0 || bitAt (w.cb 4 2) 0 then .ok w else readFactors s p w

/-- A solve that fails its own checks: its part of the group's reduction where the control block can be read, its report where it is in range (06
R204, Table 13). -/
def sieReject (s : State) (r : Nat) (d : Desc) (st : Fail) : State :=
  match sieRead s d.part (d.fld 20 6) 256 with
  | .error _ => endFail s r d st 0
  | .ok c =>
    let s1 := sieExcuse s r d.seq c 0
    endFail (if sieCtrlOk c then tryWrite s1 d.part (leField c 128 8) (layoutBytes 128 [(0, 2, st.st.toNat)]) else s1) r d st 0

/-- Another ready solve comes before a solve of partition `p` on these SIEs and tile groups: it became ready earlier, and no reservation of `p` goes
before it (06 R207, 15 R503). -/
def solveAfter (s : State) (p : Nat) (dies : List Nat) (groups : Nat) (e : Desc) : Bool :=
  e.engine == 3 && e.op == 0 &&
    ((solveNeeds s e).2 &&& groups != 0 ||
      (let both := (solveNeeds s e).1.filter dies.contains
       !both.isEmpty && !both.any (fun k => sieReserves s p k && e.part != p)))

/-- SOLVE: a solve starts when its SIEs and the tile groups of RGROUPS are idle and no other comes before it (06 R201 to R207, 15 R503). -/
def sieSolve (r : Nat) (seq : BitVec 32) (s : State) : State :=
  match startable s r seq 3 0 with
  | none => s
  | some d =>
    let need := solveNeeds s d
    if sieBusy s need.1 || !groupsIdle s need.2 || sieBarred s d.part need.1 ||
        !firstReady s r seq (solveAfter s d.part need.1 need.2) then s
    else match sieGather s d.part (d.fld 20 6) with
    | .error e => sieReject s r d e
    | .ok inp =>
      let w : SieWork := ⟨inp, 0, [], 0, [], 0, 0, none, 0, 0, 0, [], false, false, 0, 0, none, 0, 0, need.2, List.replicate 128 0#8⟩
      let s0 := tryWrite (scramble s (storeRanges s d.part (sieOwnWork inp true))) d.part (inp.cb 112 8 + Config.sieCounter) (leBytes 4 0)
      let s1 := startWork s0 r d (.sie w)
      match findDesc s1 r seq with
      | none => s1
      | some d1 =>
        if inp.multi then
          let c := sieCheck s1 d1.part inp
          sieEnter s1 r d1 w checkFmts [c, c, 0]
        else sieFactorStage s1 r d1 w

/-! ### Commands -/

/-- The running solve of a descriptor. -/
def runningSolve (s : State) (r : Nat) (seq : BitVec 32) : Option (Desc × SieWork) :=
  (runningDesc s r seq 3).bind (fun d => (sieOf d).map (fun w => (d, w)))

/-- The lanes that the reduction a solve waits for has returned: a single member's own, or what the group combined. -/
def sieAnswer (w : SieWork) : Option (List Nat) := if w.inp.multi then w.result else some w.lanes

/-- The result of a check reduction or of a reduction of the loop. -/
def sieResult (s : State) (r : Nat) (d : Desc) (w : SieWork) (a : List Nat) : State :=
  if 2 ≤ w.stage then sieRun s r d { w with answers := w.answers ++ [a] }
  else if a.getD 2 0 ≠ 0 then sieFail s r d w St.rangeBreach 0
  else if fieldOf (a.getD 0 0) 0 64 ≠ fieldOf (a.getD 1 0) 0 64 then sieFail s r d w St.sieMismatch 0
  else if w.stage = 0 then sieFactorStage s r d w
  else sieLoopStart s r d w

/-- SIE_REDUCTION_RESULT: a reduction has returned (06 R184); an aborted solve ends (06 R208). -/
def sieReduction (r : Nat) (seq : BitVec 32) (s : State) : State :=
  match runningSolve s r seq with
  | none => s
  | some (d, w) =>
    if d.abort then sieWake (sieFail s r d w St.aborted 0)
    else if w.wait ≠ 0 then s
    else match sieAnswer w with
      | none => s
      | some a => sieWake (sieResult s r d w a)

/-- The mirror data of a vector, read from the solve's own WORK (06 R197). -/
def sieMirrorRead (s : State) (p : Nat) (w : SieIn) (code : Nat) : Except Fail (List Nat) :=
  match exceptAll (fun g =>
    let a := w.cb 112 8 + Config.sieMirror code (w.n + 64 * g)
    if code = 2 then sieNats s p a 64 8
    else match sieRead s p a 260 with
      | .error e => .error e
      | .ok bs => .ok (leField bs 0 2 :: (List.range 64).map (fun i => leField bs (4 + 4 * i) 4))) (List.range w.nmirror) with
  | .error e => .error e
  | .ok l => .ok l.flatten

/-- The arrival counter has reached NRECV for every halo exchange so far; it counts modulo 2^32 from 0 at the solve's start (06 R197; log entry 25). -/
def haloArrived (w : SieWork) (counter : Nat) : Bool :=
  decide ((counter + 2 ^ 32 - w.inp.nrecv * w.halos % 2 ^ 32) % 2 ^ 32 < 2 ^ 31)

/-- SIE_HALO_ARRIVAL: the product starts when the arrival counter has reached its target (06 R197). -/
def sieArrival (r : Nat) (seq : BitVec 32) (s : State) : State :=
  match runningSolve s r seq with
  | none => s
  | some (d, w) =>
    if d.abort then sieWake (sieFail s r d w St.aborted 0)
    else if w.wait ≠ 1 then s
    else match sieNats s d.part (w.inp.cb 112 8 + Config.sieCounter) 1 4, sieMirrorRead s d.part w.inp w.code with
      | .error e, _ => sieWake (sieFail s r d w e.st 0 e.mem?)
      | _, .error e => sieWake (sieFail s r d w e.st 0 e.mem?)
      | .ok c, .ok a => if haloArrived w (c.getD 0 0) then sieWake (sieRun s r d { w with answers := w.answers ++ [a] }) else s

/-- HALO_WAIT_EXPIRY: a halo counter or a reduction has waited longer than HALO_WAIT (06 R205). -/
def sieExpiry (r : Nat) (seq : BitVec 32) (s : State) : State :=
  match runningSolve s r seq with
  | none => s
  | some (d, w) =>
    if w.wait = 1 || (w.wait = 0 && w.inp.multi && w.result.isNone) then sieWake (sieFail s r d w St.remoteDead 0) else s

/-- SIE_SWITCH_OUT: the solve on a die is switched out at its next iteration boundary, at once if it waits at one (06 R207, 15 R503). -/
def sieSwitch (k : Nat) (s : State) : State :=
  match (siesHeld s).find? (fun x => x.2.2.dies.contains k) with
  | none => s
  | some (r, d, w) =>
    if !sieClaimed s d.part k || w.asked then s
    else if w.wait = 2 then countSwitch (setDesc s r { d with work := .sie { w with out := true } }) w
    else setDesc s r { d with work := .sie { w with asked := true } }

/-- SIE_RESERVATION_PERIOD: a period begins; time that no reservation claims goes to the solves that wait (15 R503). -/
def siePeriod (s : State) : State := sieWake { s with siePeriodAt := s.tick }

/-- HALO_WAIT_EXPIRY. -/
def execHaloWaitExpiry (r : Nat) (seq : BitVec 32) (s : State) : Host.Outcome State Fault Refusal := onUnit (r < 4096) (sieExpiry r seq s)
/-- SIE_SWITCH_OUT. -/
def execSieSwitchOut (k : Nat) (s : State) : Host.Outcome State Fault Refusal := onUnit (k < 8) (sieSwitch k s)
/-- SIE_RESERVATION_PERIOD. -/
def execSieReservationPeriod (s : State) : Host.Outcome State Fault Refusal := .next (siePeriod s)

end Sys2Proof.Machine
end

