-- ==== Sys2Proof/Machine/Slots.lean ====
section
/-! DEFINITION. Snapshot slots: where a slot lies and what its header holds (14 R476, R477). -/

namespace Sys2Proof.Machine

/-- STEP of a SNAP or RESTORE. -/
def snapStep (d : Desc) : Nat := d.fld 20 8

/-- Offset of the descriptor's slot within its pair (14 R477). -/
def slotPlace (d : Desc) : Nat := snapStep d % 2 * (d.fld 52 4 * 65536)

/-- Offset of the descriptor's slot in a node's exported window. -/
def slotOffset (d : Desc) : Nat := d.fld 46 6 + slotPlace d

/-- The local slot's address. -/
def slotLocal (d : Desc) : Nat := d.fld 40 6 + slotPlace d

/-- The address of a byte of the listed regions, counted through them in list order. -/
def partAddr : List (Nat × Nat) → Nat → Nat
  | [], o => o
  | (a, n) :: rest, o => if o < n then a + o else partAddr rest (o - n)

/-- Bytes of the listed regions. -/
def partTotal (l : List (Nat × Nat)) : Nat := (l.map (·.2)).foldl (· + ·) 0

/-- A region list (14 R476). -/
def regionList (n : Nat) (bs : List Byte) : List (Nat × Nat) := (List.range n).map (fun i => (leField bs (16 * i) 8, leField bs (16 * i + 8) 8))

/-- A slot's header but for COMMIT: STEP, signature, GLOBAL_ID, NREG, and for each region its address, length and CRC-64. The spec gives
the fields and their order, and the places are the model's (14 R477; log entry 29, DESIGN CHOICE). -/
def slotHeader (step sig gid : Nat) (l : List (Nat × Nat)) (data : List Byte) : List Byte :=
  let rec regions : List (Nat × Nat) → List Byte → List Byte
    | [], _ => []
    | (a, n) :: rest, bs => leBytes 8 a ++ leBytes 8 n ++ leBytes 8 (crc64 0 (bs.take n)) ++ regions rest (bs.drop n)
  leBytes 8 step ++ leBytes 8 sig ++ leBytes 8 gid ++ leBytes 8 l.length ++ regions l data

/-- Offset of COMMIT in a slot. -/
def commitOff : Nat := 65528

/-- The value of COMMIT of a valid slot. -/
def commitWord (d : Desc) : List Byte := leBytes 8 (snapStep d + 1)

end Sys2Proof.Machine
end

