-- ==== Sys2Proof/Machine/Fabric.lean ====
section
/-! DEFINITION. Vat requests: issue, replay, acknowledgement, failure, checking and performing at the destination, routing, and
FENCE (11 R358 to R384, 09 R279 to R286). -/

namespace Sys2Proof.Machine

def St.fabricReject : BitVec 16 := 0x0F00

/-! ### Atomics -/

/-- New value of a Lake atomic (09 R280): operation code, size in bytes, old value, operand and compare value. The codes are 2
ADD, 3 FADD, 4 MIN, 5 MAX, 6 MINU, 7 MAXU, 8 FMIN, 9 FMAX, 10 SWAP, 11 CAS (log entry 16); none for an operation and
size that Table 3 does not list. -/
def lakeOp (op n old v cmp : Nat) : Option Nat :=
  let m := 8 * n
  let f : Fmt := if n = 4 then Fmt.fp32 else Fmt.fp64
  if op = 11 then (if n = 4 || n = 8 || n = 16 then some (if old = cmp then v else old) else none)
  else if n ≠ 4 && n ≠ 8 then none
  else match op with
  | 2 => some ((old + v) % 2 ^ m)
  | 3 => some (lakeFadd n old v)
  | 4 => some (if toSigned m v < toSigned m old then v else old)
  | 5 => some (if toSigned m old < toSigned m v then v else old)
  | 6 => some (min old v)
  | 7 => some (max old v)
  | 8 => some (f.minMax false old v).1
  | 9 => some (f.minMax true old v).1
  | 10 => some v
  | _ => none

/-- An atomic of partition `p` at an address: the old value and the state after it; the target lies in HBM, aligned to its size
(09 R279 to R282). -/
def atomicAt (s : State) (p op n a v cmp : Nat) : Except MemErr (Nat × State) :=
  if a % n != 0 then .error (.addr a)
  else match xlateMem s p .a a with
    | none => .error (.addr a)
    | some k =>
      if !isHbm k then .error (.addr a)
      else if memFenced s k then .error (.fenced a k)
      else if isBad s k n then .error (.bad a k)
      else
        let old := leNat (getBytes s k n)
        match lakeOp op n old v cmp with
        | none => .error (.addr a)
        | some w => .ok (old, putAtomic s k (leBytes n w))

/-! ### Pairs at the source -/

/-- Key of a pair at its source: partition, F-die, destination node (11 R366). -/
def srcKey (p f node : Nat) : Nat := (p * 2 + f) * 4096 + node

/-- A pair at its source. -/
def srcOf (s : State) (k : Nat) : SrcPair := sget (fun _ => SrcPair.init) s.srcPairs k

/-- The state with a source pair replaced. -/
def setSrc (s : State) (k : Nat) (v : SrcPair) : State := { s with srcPairs := sset (fun _ => SrcPair.init) s.srcPairs k v }

/-- Distance from one pair sequence number to another, modulo 65,536. -/
def seqDiff (a b : Nat) : Nat := (a + 65536 - b % 65536) % 65536

/-- AOP of an atomic: the code of `lakeOp`, log2 of its size, and bit 7 for the fetching form (log entry 16). -/
def aopOf (op n : Nat) (fetch : Bool) : Nat := op + Nat.log2 n * 16 + b2n fetch * 128

/-- The requester needs the old value of an atomic. -/
def fetches (q : VatReq) : Bool := match q.src with
  | .hart _ _ _ => true
  | _ => q.op == 11

/-! ### Routing -/

/-- The next direction from this package to a node, in dimension order by the shorter way, positive on a tie; none when the node
is this one (11 R377). -/
def nextDir (s : State) (node : Nat) : Option Nat :=
  (List.range 3).findSome? (fun i =>
    let d := ofld s Reg.fabVatCfg (4 * i) 4 + 1
    let c := fieldOf (nodeId s) (4 * i) 4
    let t := fieldOf node (4 * i) 4
    let f := (t + d - c % d) % d
    if t = c then none else some (2 * i + (if 2 * f ≤ d then 0 else 1)))

/-- The UP ports of a direction; a switch stage carries z when Z_SWITCH is set (11 R358, R377). -/
def dirPorts (s : State) (dir : Nat) : List Nat :=
  (List.range 16).filter (fun p => portState s p == 4 &&
    ((portRole s p == 1 && portSel s p % 8 == dir) || (portRole s p == 2 && decide (4 ≤ dir) && ofld s Reg.fabVatCfg 12 1 == 1)))

/-- The directions a packet may take, in the order of R377 and R378: the next direction, the other way around the same ring,
then one hop along each later dimension. -/
def dirChoices (dir : Nat) : List Nat :=
  [dir, dir ^^^ 1] ++ (List.range 6).filter (fun d => d / 2 != dir / 2 && decide (dir / 2 < d / 2)) ++
    (List.range 6).filter (fun d => decide (d / 2 < dir / 2))

/-- A step along a direction crosses the ring's seam (11 R378). -/
def wraps (s : State) (dir : Nat) : Bool :=
  let d := ofld s Reg.fabVatCfg (4 * (dir / 2)) 4 + 1
  let c := fieldOf (nodeId s) (4 * (dir / 2)) 4
  if dir % 2 = 0 then decide (c + 1 = d) else decide (c = 0)

/-- The port that a packet leaves through and the packet with its virtual channel and DETOUR; which port of a direction is free
(11 R377, R378; log entry 17). A packet away from its source's
coordinate has travelled in the dimension already. -/
def routePacket (s : State) (pkt : Packet) : Option (Nat × Packet) × State :=
  match nextDir s pkt.dest.toNat with
  | none => (none, s)
  | some dir =>
    match (dirChoices dir).find? (fun d => !(dirPorts s d).isEmpty) with
    | none => (none, s)
    | some d =>
      let ps := dirPorts s d
      let (pick, s1) := if ps.length ≤ 1 then (ps.headD 0, s) else
        let (v, s1) := fresh s
        (ps.getD (v.toNat % ps.length) 0, s1)
      let detour := d != dir
      let moved := fieldOf (nodeId s) (4 * (d / 2)) 4 != fieldOf pkt.src.toNat (4 * (d / 2)) 4
      let vc := detour || wraps s d || (moved && pkt.vc)
      (some (pick, { pkt with vc := vc, detour := detour }), s1)

/-- A packet leaves this package, or goes to its own node (log entry 15); a packet with no usable port is lost. -/
def sendPacket (s : State) (pkt : Packet) : State × Option Nat :=
  if pkt.dest.toNat = nodeId s then (emit s (.packet none pkt), none)
  else if 4 ≤ stage s then (s, none)
  else match routePacket s pkt with
  | (none, s1) => (s1, none)
  | (some (p, k), s1) => (portSend s1 p k, some p)

/-! ### Issue -/

/-- The store of an F-die has room for a request of partition `p`: 8,192 requests and 4 MiB, 512 requests and 256 KiB of it
guaranteed to each partition, and 1,024 requests in a pair (11 R366). -/
def storeRoom (s : State) (f p n : Nat) : Bool :=
  let mine := fun q => (List.range 8).map (fun r => ((s.srcPairs.filter (fun e => e.1 / 8192 == r && e.1 / 4096 % 2 == f)).map q).sum)
  let cnt := mine (fun e => e.2.reqs.length)
  let dat := mine (fun e => (e.2.reqs.map (fun r => r.pkt.data.length)).sum)
  let fits := fun (l : List Nat) (own share total : Nat) =>
    decide (l.getD p 0 + own ≤ share) || decide (((List.range 8).map (fun r => max share (l.getD r 0 + (if r = p then own else 0)))).sum ≤ total)
  fits cnt 1 512 8192 && fits dat n 0x40000 0x400000

/-- The answer to a Vat request, as its requester sees it. -/
inductive VatEnd where
  | data (bs : List Byte)
  | done
  | dead
  | reject
  | addr
  | off
  deriving DecidableEq, Repr

/-- Sticky bit and LAST_NODE of FAB_PART_FAULT (11 R375). -/
def partFault (s : State) (p bit node : Nat) : State :=
  setRfld (setRfld s (pkey p Reg.fabPartFault) bit 1 1) (pkey p Reg.fabPartFault) 16 12 node

/-- The record of a request that reached a domain that is off: to the Owner ring (02 R51). -/
def offRecord (s : State) (addr : Nat) : State := report s 0x04 2 0 0 none addr (leBytes 8 addr)

/-- A descriptor fails on the fabric: its running tile, burst, solve or descriptor ends with the status (11 R375). -/
def vatFail (s : State) (src : VatFrom) (st : BitVec 16) (detail : Nat) : State :=
  match src with
  | .tile t _ _ => dmaFail s t src st detail
  | .mcast t _ _ => dmaFail s t src st detail
  | .ldbase t => tileFailWith s t st detail
  | .dma r seq off _ =>
    (match findDesc s r seq with
    | some d => (match copyOf d with
      | some w => copySettle s r d (w.failWith off st detail none)
      | none => s)
    | none => s)
  | .sie r seq => (match findDesc s r seq with
    | some d => (match sieOf d with
      | some w => sieWake (sieFail s r d w st detail)
      | none => s)
    | none => s)
  | .engine r seq => (match findDesc s r seq with
    | some d => (match d.work with
      | .bulk _ => endDesc (bulkLost s d) r d st detail
      | _ => endDesc s r d st detail)
    | none => s)
  | .hart _ _ _ | .edge => s

/-- Bytes for a waiting load or AMO reach its hart; with the last of them the access ends, in its destination (11 R360, R375). -/
def hartAnswer (s : State) (h at_ : Nat) (bs : List Byte) : State :=
  let x := hartOf s h
  match x.waiting with
  | none => s
  | some w =>
    let all := patchBytes w.bytes at_ bs
    if 1 < w.left then setHart s h { x with waiting := some { w with left := w.left - 1, bytes := all } }
    else setHart s h { x.put w.dest (leNat all) with waiting := none }

/-- A hart's Vat request finds no job binding: an access fault, at the instruction that waits for it (11 R362). -/
def hartUnbound (s : State) (h va : Nat) (load : Bool) : State :=
  let x := hartOf s h
  let y := { x with waiting := none, pc := x.pc - BitVec.ofNat 64 (x.waiting.elim 0 (·.dest.len)) }
  trap (setHart s h y) h (if load then 5 else 7) (BitVec.ofNat 64 va)

/-- The address status of a requester (11 R362). -/
def addrStatus : VatFrom → BitVec 16
  | .tile _ _ _ | .mcast _ _ _ | .ldbase _ => St.tileAddress
  | .sie _ _ => St.sieAddress
  | _ => St.dmaAddress

/-- One request of an engine's descriptor has been acknowledged (12 R410, R414). -/
def engineAck (s : State) (r : Nat) (seq : BitVec 32) : State :=
  match findDesc s r seq with
  | some d => (match d.work with
    | .atoa w => setDesc s r { d with work := .atoa { w with acks := w.acks - 1 } }
    | .queue w => setDesc s r { d with work := .queue { w with acks := w.acks - 1 } }
    | .snap w => setDesc s r { d with work := .snap { w with acks := w.acks - 1 } }
    | _ => s)
  | none => s

/-- Data that a RESTORE reads from another node: in the header's stage it is kept, later it goes to its region (14 R480). -/
def restoreData (s : State) (r : Nat) (seq : BitVec 32) (off : Nat) (bs : List Byte) : State :=
  match findDesc s r seq with
  | some d => (match d.work with
    | .snap w =>
      let w1 := { w with acks := w.acks - 1 }
      let o := off - slotOffset d
      if w.stage = 0 then setDesc s r { d with work := .snap { w1 with got := w1.got ++ [(o, bs)] } }
      else match writeVa s d.part (partAddr w.parts (o - 65536)) bs with
        | .ok s1 => setDesc s1 r { d with work := .snap w1 }
        | .error e => endMem s r d St.dmaAddress e 0
    | _ => s)
  | none => s

/-- A Vat request ends (11 R366 to R375): `q` is the request with its length. -/
def vatEnd (s : State) (q : SrcReq) (e : VatEnd) : State :=
  let node := q.pkt.dest.toNat
  let detail := node + q.pkt.offset.toNat * 65536
  let ones := List.replicate q.len 0xFF#8
  let rec_ := fun (s : State) (why : Nat) => (errEmit s { mkErr 0x06 2 0 0 (some q.part) 0 (leBytes 2 node ++ [BitVec.ofNat 8 why]) with
    addr := BitVec.ofNat 64 q.pkt.offset.toNat }).1
  match e, q.src with
  | .data bs, .tile t _ key => dmaLanded s t q.src [key] bs
  | .data bs, .mcast t _ keys => dmaLanded s t q.src keys bs
  | .done, .tile t _ _ => dmaLanded s t q.src [] []
  | .data bs, .ldbase t =>
    (let x := { (tileOf s t).loadBases bs with bar := none }
     match x.running with
     | some (r, seq) => (match findDesc s r seq with
       | some d => advance (setTile s t x) t (tileCmds d)
       | none => s)
     | none => s)
  | .data bs, .dma r seq off _ => (match findDesc s r seq with
    | some d => (match copyOf d with
      | some w => copyPut s r d w off bs
      | none => s)
    | none => s)
  | .done, .dma r seq off _ => (match findDesc s r seq with
    | some d => (match copyOf d with
      | some w => copySettle s r d { w with flying := w.flying.filter (· != off) }
      | none => s)
    | none => s)
  | .data bs, .hart h _ at_ => hartAnswer s h at_ bs
  | .done, .hart _ _ _ => s
  | .done, .sie r seq => (match findDesc s r seq with
    | some d => (match sieOf d with
      | some w => haloAck s r d w
      | none => s)
    | none => s)
  | .done, .engine r seq => engineAck s r seq
  | .data bs, .engine r seq => restoreData s r seq q.pkt.offset.toNat bs
  | .dead, .hart h _ at_ => (let s1 := rec_ s 0
                       if q.pkt.ptype = 0 then hartAnswer (partFault s1 q.part 0 node) h at_ ones
                       else
                         let s2 := partFault s1 q.part 1 node
                         if q.pkt.ptype = 2 then hartAnswer s2 h at_ ones else s2)
  | .reject, .hart h _ at_ => (let s2 := partFault (rec_ s 1) q.part 2 node
                         if q.pkt.ptype = 1 then s2 else hartAnswer s2 h at_ ones)
  | .dead, f => vatFail s f St.remoteDead detail
  | .reject, f => vatFail s f St.fabricReject detail
  | .addr, .hart h va at_ => hartUnbound s h (va + at_) (q.pkt.ptype == 0)
  | .off, .hart h va at_ => (let s1 := offRecord s (va + at_)
                       if q.pkt.ptype = 1 then s1 else hartAnswer s1 h at_ ones)
  | .off, f => vatFail (offRecord s q.pkt.offset.toNat) f (addrStatus f) 0
  | .addr, f => vatFail s f (addrStatus f) 0
  | _, _ => s

/-- The first 4,096 bytes of a request, and the rest of it (11 R365). -/
def splitReq (q : VatReq) : VatReq × Option VatReq :=
  if q.op ≤ 1 ∧ 4096 < q.len then
    let next := match q.src with
      | .tile t n key => VatFrom.tile t n (key + 4096)
      | .mcast t n keys => VatFrom.mcast t n (keys.map (· + 4096))
      | f => f
    ({ q with len := 4096, data := q.data.take 4096 },
      some { q with len := q.len - 4096, off := q.off + 4096, data := q.data.drop 4096, src := next })
  else (q, none)

/-- A tile's DMA command or an engine's descriptor waits for one more part when a request of it is split. -/
def morePart (s : State) (src : VatFrom) : State := match src with
  | .engine r seq => (match findDesc s r seq with
    | some d => (match d.work with
      | .atoa w => setDesc s r { d with work := .atoa { w with acks := w.acks + 1 } }
      | .queue w => setDesc s r { d with work := .queue { w with acks := w.acks + 1 } }
      | .snap w => setDesc s r { d with work := .snap { w with acks := w.acks + 1 } }
      | _ => s)
    | none => s)
  | .tile _ _ _ => dmaParts s src (· + 1)
  | .mcast _ _ _ => dmaParts s src (· + 1)
  | _ => s

/-- The request of a queued Vat request, without its sequence number: the header of Table 7 with the job and key of the binding (11 R359, R362, R365). -/
def vatPacket (s : State) (f job : Nat) (q : VatReq) : Packet :=
  let w := reg s (okey (Reg.fabJob + 32 * job))
  ⟨BitVec.ofNat 8 (min q.op 2), if q.prio && bitAt w 8 then 1 else 2, false, false, false, 0, BitVec.ofNat 12 q.node, BitVec.ofNat 12 (nodeId s),
    BitVec.ofNat 3 q.part, f == 1, 0, BitVec.ofNat 16 (routeEpoch s), BitVec.ofNat 16 (fieldOf w 16 16),
    BitVec.ofNat 12 (if 2 ≤ q.op then 0 else q.len - 1), BitVec.ofNat 32 (fieldOf w 32 32), BitVec.ofNat 48 q.off,
    BitVec.ofNat 8 (if 2 ≤ q.op then aopOf q.op q.len (fetches q) else 0), 0, q.data⟩

/-- The RESYNC that goes before a request (11 R374). -/
def syncOf (k : Packet) : Packet := { k with ptype := 7, data := [], len := 0, aop := 0, offset := 0 }

/-- A pair may send its next request: the RESYNC that it may owe goes out no earlier than 3 µs after the failure (11 R374). -/
def syncDue (s : State) (x : SrcPair) : Bool := match x.resync with | some t => decide (t + 300 ≤ s.tick) | none => true

/-- A request takes the next number of its pair, enters the replay store and is sent, after a RESYNC if the pair starts again; one for which that is
too early is sent by its retransmit timer (11 R366, R374, R379). -/
def issuePkt (s : State) (key : Nat) (src : VatFrom) (part len : Nat) (k : Packet) : State :=
  let x := srcOf s key
  let pkt := { k with seq := BitVec.ofNat 16 x.next }
  let keep := fun (s : State) (port : Option Nat) (t : Nat) => setSrc s key { srcOf s key with
    next := (x.next + 1) % 65536, reqs := x.reqs ++ [⟨x.next, src, part, len, pkt, 0, port, t, x.resync.isSome⟩], resync := none }
  if !syncDue s x then keep s none (x.resync.getD 0 + 300)
  else
    let s1 := if x.resync.isSome then (sendPacket s (syncOf pkt)).1 else s
    let r := sendPacket s1 pkt
    keep r.1 r.2 s.tick

/-- A queued request needs no room, because it has no job binding, or has room in the replay store and in its pair (11 R366). -/
def vatMay (s : State) (f : Nat) (q : VatReq) : Bool :=
  let x := srcOf s (srcKey q.part f q.node)
  (boundJob s q.part).isNone || (decide (x.reqs.length < 1024) && storeRoom s f q.part (splitReq q).1.data.length && syncDue s x)

/-- The request that an F-die issues next: the oldest that may be issued among the oldest requests of each partition; a partition whose request
finds no room stalls alone (11 R366, R370). -/
def nextVat (s : State) (f : Nat) : Option VatReq :=
  (s.vatQueue.filter (fun q => q.fdie == f)).find? (fun q =>
    (s.vatQueue.find? (fun y => y.fdie == f && y.part == q.part)) == some q && vatMay s f q)

/-- VAT_REQUEST_ISSUE: a request of an F-die enters the replay store and is sent; at an F-die that is off it is answered with an error (02 R51, 11 R359,
R362, R365, R366, R374). -/
def vatIssue (f : Nat) (s : State) : State :=
  let p0 := fun (q : VatReq) => vatPacket s f 0 q
  if !alive s || 4 ≤ stage s then s
  else if !domainOpen s (4 + f) then
    match s.vatQueue.find? (fun q => q.fdie == f) with
    | none => s
    | some q => vatEnd { s with vatQueue := s.vatQueue.erase q } ⟨0, q.src, q.part, q.len, p0 q, 0, none, s.tick, false⟩ .off
  else match nextVat s f with
  | none => s
  | some q0 =>
    let (q, rest) := splitReq q0
    match boundJob s q.part with
    | none => vatEnd { s with vatQueue := s.vatQueue.erase q0 } ⟨0, q.src, q.part, q.len, p0 q, 0, none, s.tick, false⟩ .addr
    | some n =>
      let s0 := { s with vatQueue := match rest with
        | none => s.vatQueue.erase q0
        | some r => s.vatQueue.map (fun y => if y = q0 then r else y) }
      let s1 := if rest.isSome then morePart s0 q.src else s0
      issuePkt s1 (srcKey q.part f q.node) q.src q.part q.len (vatPacket s f n q)

/-! ### FENCE -/

/-- The fence work of a descriptor. -/
def fenceOf (d : Desc) : Option FenceWork := match d.work with | .fence w => some w | _ => none

/-- A fence whose pairs are all done completes, FAILMAP first (11 R382, R383). -/
def fenceEnd (s : State) (r : Nat) (d : Desc) (w : FenceWork) : State :=
  if !w.waits.isEmpty then setDesc s r { d with work := .fence w }
  else if w.failed.isEmpty then settleAll (completeOne s r d St.ok 0 false)
  else
    let nodes := (List.range 4096).filter (fun n => w.failed.contains n)
    let map := leBytes 512 (nodes.foldl (fun m n => m ||| 2 ^ n) 0)
    let detail := nodes.headD 0 + nodes.length % 4096 * 65536
    if d.fld 30 6 = 0 then endDesc s r d St.fence detail
    else match writeVa s d.part (d.fld 30 6) map with
      | .error e => endMem s r d St.dmaAddress e 0
      | .ok s1 => endDesc s1 r d St.fence detail

/-- Every running fence looks at a pair again after requests of it ended; `failed` are the numbers that failed (11 R382,
R383). -/
def fencesSee (s : State) (k : Nat) (failed : List Nat) : State :=
  (runningAll s).foldl (fun s x =>
    match findDesc s x.1 x.2.seq with
    | none => s
    | some d => (match fenceOf d with
      | none => s
      | some w => (match w.waits.find? (fun y => y.1 == k) with
        | none => s
        | some (_, last) =>
          let covered := fun n => decide (seqDiff last n < 32768)
          let bad := if failed.any covered then [k % 4096] else []
          let open_ := (srcOf s k).reqs.any (fun q => covered q.seq)
          fenceEnd s x.1 d ⟨if open_ then w.waits else w.waits.filter (fun y => y.1 != k), w.failed ++ bad⟩))) s

/-- FENCE: it starts once its partition's earlier hart stores have been issued, and records each pair's last number (11 R381,
R382). -/
def fenceStart (r : Nat) (seq : BitVec 32) (s : State) : State :=
  match startable s r seq 8 0 with
  | none => s
  | some d =>
    let nodes : Except MemErr (List Nat) := if d.fld 20 1 = 0 then .ok [] else
      match readVa s d.part (d.fld 24 6) (2 * d.fld 22 2) with
      | .error e => .error e
      | .ok bs => .ok ((List.range (d.fld 22 2)).map (fun i => fieldOf (leField bs (2 * i) 2) 0 12))
    match nodes with
    | .error e => endMem s r d St.dmaAddress e 0
    | .ok l =>
      let inScope := fun node => d.fld 20 1 == 0 || l.contains node
      if s.vatQueue.any (fun q => q.part == d.part && inScope q.node && (match q.src with | .hart _ _ _ => true | _ => false)) then s
      else
        let waits := (s.srcPairs.filter (fun e => e.1 / 8192 == d.part && inScope (e.1 % 4096) && !e.2.reqs.isEmpty)).map
          (fun e => (e.1, (e.2.next + 65535) % 65536))
        fenceEnd (startWork s r d (.fence ⟨waits, []⟩)) r { d with phase := .running } ⟨waits, []⟩

/-! ### Answers at the source -/

/-- The pair that a reply names (11 R368). -/
def replyKey (k : Packet) : Nat := srcKey k.spart.toNat (b2n k.sfdie) k.src.toNat

/-- ACK: the posted requests up to the number are done; a read or fetching atomic ends with its READ_RESP (11 R368). -/
def ackPkt (k : Packet) (s : State) : State :=
  let key := replyKey k
  let x := srcOf s key
  let hit := fun (q : SrcReq) => decide (seqDiff k.seq.toNat q.seq < 32768) && (q.pkt.ptype == 1 || q.pkt.ptype == 8 || (q.pkt.ptype == 2 && !bitAt q.pkt.aop.toNat 7))
  if k.dest.toNat ≠ nodeId s || !x.reqs.any hit then s
  else
    let s1 := setSrc s key { x with reqs := x.reqs.filter (fun q => !hit q) }
    fencesSee ((x.reqs.filter hit).foldl (fun s q => vatEnd s q .done) s1) key []

/-- READ_RESP (11 R368). -/
def readRespPkt (k : Packet) (s : State) : State :=
  let key := replyKey k
  let x := srcOf s key
  match x.reqs.find? (fun q => q.seq == k.seq.toNat) with
  | none => s
  | some q =>
    if k.dest.toNat ≠ nodeId s then s
    else
      let s1 := setSrc s key { x with reqs := x.reqs.filter (fun y => y.seq != q.seq) }
      fencesSee (vatEnd s1 q (.data k.data)) key []

/-- REJECT: the request fails at its source (11 R363, R375). -/
def rejectPkt (k : Packet) (s : State) : State :=
  let key := replyKey k
  let x := srcOf s key
  match x.reqs.find? (fun q => q.seq == k.seq.toNat) with
  | none => s
  | some q =>
    if k.dest.toNat ≠ nodeId s then s
    else
      let s1 := setSrc s key { x with reqs := x.reqs.filter (fun y => y.seq != q.seq) }
      fencesSee (vatEnd s1 q .reject) key [q.seq]

/-- NACK: a replay from number k is due after the backoff (11 R369). -/
def nackPkt (k : Packet) (s : State) : State :=
  let key := replyKey k
  let x := srcOf s key
  if k.dest.toNat ≠ nodeId s || x.reqs.isEmpty then s
  else setSrc s key { x with
    backoff := some k.seq.toNat
    reqs := x.reqs.map (fun q => if seqDiff q.seq k.seq.toNat < 32768 then { q with nacks := q.nacks + 1 } else q) }

/-- The dead-target timeout T in ticks of 10 ns (11 R372). -/
def deadTicks (s : State) : Nat := 100 * clampNat 5 10000 (ofld s Reg.fabDeadTimeout 0 14)

/-- A request is sent again, its RESYNC before it; no copy leaves later than T - 3 µs after the first (11 R369, R372, R374, R379). -/
def resend (s : State) (key : Nat) (q : SrcReq) : State :=
  if s.tick < q.first || q.first + deadTicks s < s.tick + 300 then s
  else
    let pkt := { q.pkt with aged := decide (8 ≤ q.nacks), epoch := BitVec.ofNat 16 (routeEpoch s) }
    let s0 := if q.sync then (sendPacket s (syncOf pkt)).1 else s
    let (s1, port) := sendPacket s0 pkt
    let x := srcOf s1 key
    setSrc s1 key { x with reqs := x.reqs.map (fun y => if y.seq = q.seq then { y with port := port, pkt := pkt } else y) }

/-- Key of a pair named by a command. -/
def pairKey (id : PairId) : Nat := srcKey id.part id.fdie id.node

/-- NACK_BACKOFF_EXPIRY (11 R369). -/
def backoffExpiry (id : PairId) (s : State) : State :=
  let key := pairKey id
  let x := srcOf s key
  match x.backoff with
  | none => s
  | some k => (x.reqs.filter (fun q => decide (seqDiff q.seq k < 32768))).foldl (fun s q => resend s key q) (setSrc s key { x with backoff := none })

/-- RETRANSMIT_TIMER (11 R379). -/
def retransmit (id : PairId) (seq : BitVec 16) (s : State) : State :=
  match (srcOf s (pairKey id)).reqs.find? (fun q => q.seq == seq.toNat) with
  | none => s
  | some q => resend s (pairKey id) q

/-- DEAD_TARGET_TIMEOUT: every unacknowledged request of the pair fails, and the pair starts again (11 R372, R374). -/
def deadTarget (id : PairId) (seq : BitVec 16) (s : State) : State :=
  let key := pairKey id
  let x := srcOf s key
  if !x.reqs.any (fun q => q.seq == seq.toNat) then s
  else
    let s1 := setSrc s key { x with reqs := [], resync := some s.tick, backoff := none }
    fencesSee (x.reqs.foldl (fun s q => vatEnd s q .dead) s1) key (x.reqs.map (·.seq))

/-- The requests of an F-die that goes off, waiting or unacknowledged, are answered by its boundary with errors (02 R50, R51; log entry 36). -/
def fdieLost (s : State) (f : Nat) : State :=
  let gone := (s.srcPairs.filter (fun e => e.1 / 4096 % 2 == f)).flatMap (fun e => e.2.reqs)
  let left := s.vatQueue.filter (fun q => q.fdie == f)
  let s1 := { s with
    srcPairs := s.srcPairs.filter (fun e => e.1 / 4096 % 2 != f)
    dstPairs := s.dstPairs.filter (fun e => e.1 / 4096 % 2 != f)
    vatQueue := s.vatQueue.filter (fun q => q.fdie != f) }
  let s2 := gone.foldl (fun s q => vatEnd s q .off) s1
  left.foldl (fun s q => vatEnd s ⟨0, q.src, q.part, q.len, vatPacket s f 0 q, 0, none, s.tick, false⟩ .off) s2

/-- Every request that last left through a port that has gone down is sent again at once (11 R379). -/
def replayDown (s : State) : State :=
  s.srcPairs.foldl (fun s e => (e.2.reqs.filter (fun q => match q.port with
    | some p => portState s p != 4 && portState s p != 6
    | none => false)).foldl (fun s q => resend s e.1 q) s) s

/-! ### The destination -/

/-- Key of a pair at its destination: source partition, source F-die, source node (11 R367). -/
def dstKey (k : Packet) : Nat := srcKey k.spart.toNat (b2n k.sfdie) k.src.toNat

/-- A pair at its destination. -/
def dstOf (s : State) (key : Nat) : DstPair := sget (fun _ => DstPair.init) s.dstPairs key

/-- The state with a destination pair replaced. -/
def setDst (s : State) (key : Nat) (v : DstPair) : State := { s with dstPairs := sset (fun _ => DstPair.init) s.dstPairs key v }

/-- A reply to a packet: TYPE, sequence number and data; it travels on VL1 or VL3 (11 R347, R368). -/
def reply (s : State) (k : Packet) (ptype seq : Nat) (data : List Byte) : State :=
  (sendPacket s { k with
    ptype := BitVec.ofNat 8 ptype, vl := if k.vl = 1 then 1 else 3, vc := false, aged := false, detour := false, age := 0, dest := k.src
    src := BitVec.ofNat 12 (nodeId s), seq := BitVec.ofNat 16 seq, epoch := BitVec.ofNat 16 (routeEpoch s)
    len := BitVec.ofNat 12 (data.length - 1), offset := 0, aop := 0, hops := 0, data := data }).1

/-- The bytes that a request covers. -/
def reqBytes (k : Packet) : Nat := if k.ptype = 2 then 2 ^ (fieldOf k.aop.toNat 4 3) else k.len.toNat + 1

/-- The answer of the job table to a request (11 R363). -/
inductive JobCheck where
  | grant (part va : Nat)
  | discard
  | refuse
  deriving DecidableEq, Repr

/-- The job table entries in a STATE with a packet's job ID and key. -/
def jobHits (s : State) (k : Packet) (st : Nat) : List Nat :=
  (List.range 64).filter (fun n =>
    let w := reg s (okey (Reg.fabJob + 32 * n))
    fieldOf w 0 2 == st && fieldOf w 16 16 == k.job.toNat && fieldOf w 32 32 == k.key.toNat)

/-- The check of R363: some LIVE entry with the packet's job ID and key covers it and grants it; a packet of a RETIRED entry alone is discarded. -/
def jobCheck (s : State) (k : Packet) : JobCheck :=
  let ok := fun n =>
    let w := reg s (okey (Reg.fabJob + 32 * n))
    let p := fieldOf w 2 3
    bitAt w (5 + k.ptype.toNat) && decide (k.offset.toNat + reqBytes k ≤ ofld s (Reg.fabJob + 32 * n + 16) 0 27 * 0x200000) && !s.resetting.contains p && partValid s p
  match (jobHits s k 1).find? ok with
  | some n => .grant (ofld s (Reg.fabJob + 32 * n) 2 3) (ofld s (Reg.fabJob + 32 * n + 8) 21 27 * 0x200000 + k.offset.toNat)
  | none => if (jobHits s k 1).isEmpty && !(jobHits s k 2).isEmpty then .discard else .refuse

/-- The check of a tree edge's packet: an operation's against the job table entry of its group; a launch packet has none yet (12 R405, 11 R363). -/
def edgeCheck (s : State) (k : Packet) : JobCheck :=
  let w := groupWord s (leField k.data 0 1)
  let job := reg s (okey (Reg.fabJob + 32 * fieldOf w 8 6))
  if 4 ≤ leField k.data 1 1 % 16 || (bitAt w 0 && fieldOf job 0 2 == 1 && fieldOf job 16 16 == k.job.toNat && fieldOf job 32 32 == k.key.toNat) then .grant 0 0
  else if (jobHits s k 1).isEmpty && !(jobHits s k 2).isEmpty then .discard else .refuse

/-- The destination's record of a request that it did not perform, at most one in 1 ms for each source: why 1 refused, 2 retired (11 R363; log entry 17). -/
def refusedRecord (s : State) (k : Packet) (sev : Nat) (why : Byte) : State :=
  let last := sget (fun _ => 0) s.rejectTold k.src.toNat
  if last = 0 || last + 100000 ≤ s.tick + 1 then
    report { s with rejectTold := sset (fun _ => 0) s.rejectTold k.src.toNat (s.tick + 1) } 0x06 sev 0 0 none 0 (leBytes 2 k.src.toNat ++ [why])
  else s

/-- A request is refused: a REJECT and the destination's record (11 R363). -/
def refuseReq (s : State) (k : Packet) : State := refusedRecord (reply s k 6 k.seq.toNat []) k 2 1#8

/-- The number that an ACK of a pair carries: the highest up to which every request has been performed or refused (11 R368). -/
def ackNumber (s : State) (key : Nat) : Nat := ((dstOf s key).queued.headD (dstOf s key).expected + 65535) % 65536

/-- The acknowledgement of a pair's requests (11 R368). -/
def replyAck (s : State) (k : Packet) : State := reply s k 4 (ackNumber s (dstKey k)) []

/-- An accepted request is performed and answered (11 R361, R368, R493, 09 R279 to R281). -/
def performReq (s : State) (q : LakeReq) : State :=
  let k := q.pkt
  if k.ptype = 0 then
    match readVa s q.part q.va (reqBytes k) with
    | .ok bs => reply s k 3 k.seq.toNat bs
    | .error _ => refuseReq s k
  else if k.ptype = 1 then
    match writeVa s q.part q.va (k.data.take (reqBytes k)) with
    | .ok s1 => replyAck (bulkLanded s1 q.part k.src.toNat q.va (reqBytes k)) k
    | .error _ => refuseReq s k
  else
    let n := reqBytes k
    match atomicAt s q.part (fieldOf k.aop.toNat 0 4) n q.va (leField k.data 0 n) (leField k.data n n) with
    | .ok (old, s1) => if bitAt k.aop.toNat 7 then reply s1 k 3 k.seq.toNat (leBytes n old) else replyAck s1 k
    | .error _ => refuseReq s k

/-- The home Lake's die of an address of a partition, for HBM (09 R276). -/
def homeDie (s : State) (p a : Nat) (acc : Acc) : Option Nat :=
  match xlateMem s p acc a with
  | some key => if isHbm key then some (key / 0x600000000 / 2) else none
  | none => none

/-- The entry that a Lake of a die gives a request: a reserved one (true) or an unreserved one (false); none where it has none for it. An aged request takes a
free reserved entry first, any other only an unreserved one (09 R285). -/
def lakeEntry (s : State) (die : Nat) (aged : Bool) : Option Bool :=
  let q := sget (fun _ => []) s.lakeQ die
  let held := (q.filter (·.resv)).length
  if aged && decide (held < 64) then some true else if q.length - held < 448 then some false else none

/-- The queue that a pair's last accepted request waits in. -/
def pairQueue (s : State) (key : Nat) : Option Nat :=
  (List.range 8).find? (fun d => (sget (fun _ => []) s.lakeQ d).any (fun x => dstKey x.pkt == key))

/-- A request whose turn in its pair has come: checked, queued at its home Lake or performed; a full Lake queue answers with a
NACK (11 R363, R367, R369, 09 R285). The packet of a tree edge is acknowledged and does `act` (12 R406, R426). -/
def acceptReq (act : Packet → State → State) (s : State) (k : Packet) : State × Bool :=
  let key := dstKey k
  let x := dstOf s key
  let next := { x with expected := (x.expected + 1) % 65536 }
  match (if k.ptype = 8 then edgeCheck s k else jobCheck s k) with
  | .discard => (refusedRecord { s with retiredDiscards := s.retiredDiscards + 1 } k 0 2#8, false)
  | .refuse => (refuseReq (setDst s key next) k, true)
  | .grant p va =>
    let acc : Acc := if k.ptype = 0 then .r else if k.ptype = 1 then .w else .a
    if k.ptype = 8 then (act k (replyAck (setDst s key next) k), true) else
    let home := match homeDie s p va acc with
      | some d => some d
      | none => if x.queued = [] then none else pairQueue s key
    match home with
    | none => (performReq (setDst s key next) ⟨k, p, va, false⟩, true)
    | some d =>
      match lakeEntry s d k.aged with
      | some e =>
        ({ setDst s key { next with queued := x.queued ++ [k.seq.toNat] } with
          lakeQ := sset (fun _ => []) s.lakeQ d (sget (fun _ => []) s.lakeQ d ++ [⟨k, p, va, e⟩]) }, true)
      | none => (reply s k 5 x.expected [], false)

/-- Early arrivals whose turn has come (11 R367). -/
def acceptHeld (act : Packet → State → State) (key : Nat) : Nat → State → State
  | 0, s => s
  | n + 1, s =>
    let x := dstOf s key
    match x.held.find? (fun k => k.seq.toNat == x.expected) with
    | none => s
    | some k =>
      let s1 := setDst s key { x with held := x.held.filter (fun y => y.seq != k.seq) }
      let (s2, ok) := acceptReq act s1 k
      if ok then acceptHeld act key n s2 else s2

/-- A request arrives: in order, a duplicate, which is answered with the last number before which every request has been performed, or early (11 R354,
R367, R368). -/
def requestArrives (act : Packet → State → State) (k : Packet) (s : State) : State :=
  let key := dstKey k
  let x := dstOf s key
  if !alive s || 4 ≤ stage s || s.tapHeld || k.dest.toNat ≠ nodeId s then s
  else
    let d := seqDiff k.seq.toNat x.expected
    if d = 0 then
      let (s1, ok) := acceptReq act s k
      if ok then acceptHeld act key x.held.length s1 else s1
    else if 32768 ≤ d then replyAck s k
    else if x.held.any (fun y => y.seq == k.seq) then s
    else if x.held.length < Config.reorderSpace then setDst s key { x with held := x.held ++ [k] }
    else reply s k 5 x.expected []

/-- PKT_READ, PKT_WRITE and PKT_ATOMIC act on packets of their own type. -/
def pktOfType (act : Packet → State → State) (n : BitVec 8) (k : Packet) (s : State) : State := if k.ptype = n then requestArrives act k s else s

/-- The lines of 128 bytes that a queued request touches, as their places in the store (09 R270). -/
def reqLines (s : State) (x : LakeReq) : List Nat :=
  (List.range ((x.va % 128 + reqBytes x.pkt + 127) / 128)).filterMap (fun i =>
    (xlateMem s x.part (if x.pkt.ptype = 0 then .r else if x.pkt.ptype = 1 then .w else .a) (x.va / 128 * 128 + 128 * i)).map (· / 128))

/-- The first request of a Lake's queue that may be performed: the earlier requests of its pair have been, and no request before it in the queue touches
one of its lines (09 R286, 11 R367). -/
def lakeFirst (s : State) (q : List LakeReq) : Option LakeReq :=
  q.find? (fun x => (dstOf s (dstKey x.pkt)).queued.head? == some x.pkt.seq.toNat &&
    (q.takeWhile (fun y => y != x)).all (fun y => (reqLines s y).all (fun l => !(reqLines s x).contains l)))

/-- LAKE_PERFORM: a queued request of a die's Lake is performed, in arrival order for each line and in order in its pair (09 R286, 11 R367). -/
def lakePerform (die : Nat) (s : State) : State :=
  let q := sget (fun _ => []) s.lakeQ die
  match lakeFirst s q with
  | none => s
  | some x =>
    let y := dstOf s (dstKey x.pkt)
    performReq (setDst { s with lakeQ := sset (fun _ => []) s.lakeQ die (q.erase x) } (dstKey x.pkt) { y with queued := y.queued.drop 1 }) x

/-- RESYNC sets the number expected next; a copy of the last one taken sets nothing, so that no request is performed twice (11 R367, R374; log
entry 17). -/
def resyncPkt (k : Packet) (s : State) : State :=
  let x := dstOf s (dstKey k)
  if k.dest.toNat ≠ nodeId s || (x.synced == some k.seq.toNat && decide (seqDiff x.expected k.seq.toNat < 32768)) then s
  else setDst s (dstKey k) { x with expected := k.seq.toNat, held := [], synced := some k.seq.toNat }

/-- PACKET_FORWARD: the residence time is added to AGE; a packet beyond 2.5 µs or 40 hops is discarded (11 R371, R377, R378). -/
def packetForward (k : Packet) (residence : Nat) (s : State) : State :=
  let age := k.age.toNat + residence
  let hops := k.hops.toNat + 1
  if !alive s || 4 ≤ stage s || 250 < age || 40 < hops || k.dest.toNat = nodeId s then s
  else (sendPacket s { k with age := BitVec.ofNat 16 age, hops := BitVec.ofNat 8 hops }).1

/-! ### Meanings -/

/-- The F-die exists. -/
def isFdie (f : Nat) : Bool := decide (f < 2)
/-- The pair can exist. -/
def isPair (id : PairId) : Bool := decide (id.part < 8) && decide (id.fdie < 2) && decide (id.node < 4096)

/-- PORT_ADMIN_DOWN. -/
def execPortAdminDown (view p : Nat) (v : Word) (s : State) : Host.Outcome State Fault Refusal := onUnit (isPort p) (replayDown (portAdminDown view p v s))
/-- FLIT_REPLAY_REQUEST. -/
def execFlitReplayRequest (p : Nat) (f : List Byte) (s : State) : Host.Outcome State Fault Refusal := onUnit (isPort p) (replayDown (flitReplay p f s))
/-- FLIT_CREDIT_UPDATE. -/
def execFlitCreditUpdate (p : Nat) (f : List Byte) (s : State) : Host.Outcome State Fault Refusal := onUnit (isPort p) (replayDown (flitCredit p f s))
/-- LANE_WEAR. -/
def execLaneWear (p lane : Nat) (s : State) : Host.Outcome State Fault Refusal := onUnit (isPort p && lane < 8) (healthRefresh (replayDown (laneWear p lane s)))
/-- LANE_SPARE_DONE. -/
def execLaneSpareDone (p : Nat) (s : State) : Host.Outcome State Fault Refusal := onUnit (isPort p) (healthRefresh (laneSpareDone p s))
/-- PORT_TRAINED. -/
def execPortTrained (p : Nat) (s : State) : Host.Outcome State Fault Refusal := onUnit (isPort p) (healthRefresh (portTrained p s))
/-- VAT_REQUEST_ISSUE. -/
def execVatRequestIssue (f : Nat) (s : State) : Host.Outcome State Fault Refusal := onUnit (isFdie f) (vatIssue f s)
/-- PACKET_FORWARD. -/
def execPacketForward (k : Packet) (t : Nat) (s : State) : Host.Outcome State Fault Refusal := .next (packetForward k t s)
/-- NACK. -/
def execNack (k : Packet) (s : State) : Host.Outcome State Fault Refusal := .next (nackPkt k s)
/-- RESYNC. -/
def execResync (k : Packet) (s : State) : Host.Outcome State Fault Refusal := .next (resyncPkt k s)
/-- NACK_BACKOFF_EXPIRY. -/
def execNackBackoffExpiry (id : PairId) (s : State) : Host.Outcome State Fault Refusal := onUnit (isPair id) (backoffExpiry id s)
/-- RETRANSMIT_TIMER. -/
def execRetransmitTimer (id : PairId) (seq : BitVec 16) (s : State) : Host.Outcome State Fault Refusal := onUnit (isPair id) (retransmit id seq s)
/-- FENCE. -/
def execFence (r : Nat) (seq : BitVec 32) (s : State) : Host.Outcome State Fault Refusal := onUnit (r < 4096) (fenceStart r seq s)

end Sys2Proof.Machine
end

