-- ==== Sys2Proof/Machine/Scu.lean ====
section
/-! DEFINITION. The Scale Unit: posts, slot configurations, RESET, CLOSE, SAVE and LOAD (05 R141 to R156). -/

namespace Sys2Proof.Machine

def St.scuConfig : BitVec 16 := 0x0B00
def St.scuStep : BitVec 16 := 0x0B01

/-- The open record of a slot on a die. -/
def openOf (s : State) (k p slot : Nat) : OpenRec := sget (fun _ => OpenRec.mk 0 false false) s.scuOpen (openKey k p slot)

/-- A record with a post joined in: its amax replaces the open one when it is larger as an FP32 value, a NaN above all (05 R143). -/
def OpenRec.join (o : OpenRec) (amax : Nat) (ovf : Bool) : OpenRec := ⟨max o.amax (postRank amax), o.ovf || ovf, true⟩

/-- The first VEC of a tile with an unaccepted post has one fewer. -/
def vecAccept : List VecCmd → List VecCmd
  | [] => []
  | v :: l => if v.posts = 0 then v :: vecAccept l else { v with posts := v.posts - 1 } :: l

/-- The source of a post learns that it was accepted (04 R128). -/
def postAccepted (s : State) (q : Post) : State :=
  match q.tile with
  | some t => setTile s t { tileOf s t with qvec := vecAccept (tileOf s t).qvec }
  | none =>
    match findDesc s q.ring q.seq with
    | some d =>
      match d.work with
      | .opt w => setDesc s q.ring { d with work := .opt { w with posts := w.posts - 1 } }
      | .fxe w => setDesc s q.ring { d with work := .fxe { w with posts := w.posts - 1 } }
      | _ => s
    | none => s

/-- SCU_POST: the SCU of a die accepts the oldest post that waits for it (05 R143, R144); a fenced SCU fails it. -/
def scuPost (k : Nat) (s : State) : State :=
  match s.posts.find? (fun q => q.die == k) with
  | none => s
  | some q =>
    let s1 := { s with posts := s.posts.erase q }
    if fenced s 4 k then
      match q.tile, findDesc s1 q.ring q.seq with
      | some t, _ => tileFail s1 t St.unitFenced
      | none, some d => endFenced (workStopped s1 q.ring d St.unitFenced) q.ring d
      | none, none => s1
    else
      let key := openKey k q.part q.slot
      let o := (openOf s1 k q.part q.slot).join q.amax q.ovf
      postAccepted { s1 with scuOpen := sset (fun _ => OpenRec.mk 0 false false) s1.scuOpen key o } q

/-! ### Slot configurations -/

/-- A slot configuration entry (05 Table 4). -/
structure SlotCfg where
  fmt     : Nat
  h       : Nat
  margin  : Nat
  partner : Nat
  decay   : Nat
  initQ   : Nat
  deriving DecidableEq, Repr

/-- FP32 patterns of 2^-64, 2^64 and 1. -/
def q32Lo : Nat := (127 - 64) * 2 ^ 23
def q32Hi : Nat := (127 + 64) * 2 ^ 23
def one32 : Nat := 0x3F800000

/-- A configuration entry that meets Table 4, from its 16 bytes. -/
def SlotCfg.ofBytes (nslots : Nat) (b : List Byte) : Option SlotCfg :=
  let c : SlotCfg := ⟨leField b 0 1, leField b 1 1, leField b 2 1, leField b 4 2, leField b 6 2, leField b 8 4⟩
  if c.fmt ≤ 4 && decide (1 ≤ c.h) && decide (c.h ≤ 16) && decide (c.margin ≤ 15) && leField b 3 1 == 0 && leField b 12 4 == 0 &&
      (c.partner == 0xFFFF || decide (c.partner < nslots)) && decide (q32Lo ≤ c.initQ) && decide (c.initQ ≤ q32Hi)
  then some c else none

/-- The configuration entries of slots, each of which meets Table 4 (05 R145). -/
def slotEntries (s : State) (p base nslots : Nat) : List Nat → Except Fail (List (List Byte))
  | [] => .ok []
  | i :: rest =>
    match readVa s p (base + 16 * i) 16 with
    | .error e => .error (memFail St.dmaAddress e)
    | .ok b =>
      if (SlotCfg.ofBytes nslots b).isNone then .error (.of St.scuConfig)
      else match slotEntries s p base nslots rest with
        | .error e => .error e
        | .ok l => .ok (b :: l)

/-- The configurations that entries give. -/
def cfgsOf (nslots : Nat) (l : List (List Byte)) : List SlotCfg := l.filterMap (SlotCfg.ofBytes nslots)

/-- The configurations of the slots 0 to `n - 1`, read now (05 R145). -/
def slotCfgs (s : State) (p base nslots : Nat) (l : List Nat) : Except Fail (List SlotCfg) :=
  match slotEntries s p base nslots l with
  | .error e => .error e
  | .ok b => .ok (cfgsOf nslots b)

/-- fmax of a format code as m × 2^0 (05 R140); BF16 tracks amax only. -/
def fmaxOf (fmt : Nat) : Nat := match fmt with | 1 => 65504 | 2 => 448 | 3 => 57344 | 4 => 127 | _ => 1

/-- Quotient of two positive exact values, rounded once to FP32. -/
def ratio32 (m1 : Nat) (e1 : Int) (m2 : Nat) (e2 : Int) : Nat :=
  (Fmt.fp32.round false (m1 * 2 ^ 80 / m2) (e1 - e2 - 80) (m1 * 2 ^ 80 % m2 != 0)).1

/-- Significand and exponent of a positive finite FP32 pattern. -/
def parts32 (b : Nat) : Nat × Int := match Fmt.fp32.decode b with | .num _ m e => (m, e) | _ => (0, 0)

/-- Q and D from the history, the backoff and the configuration, before the clamp (05 R146). -/
def rawScale (c : SlotCfg) (hist : List Nat) (b : Nat) : Nat × Nat :=
  let m := hist.foldl max 0
  let (im, ie) := parts32 c.initQ
  if m = 0 then ((Fmt.fp32.round false im (ie - b) false).1, ratio32 1 b im ie)
  else
    let (mm, me) := parts32 m
    let te := me + (c.margin + b : Nat)
    (ratio32 (fmaxOf c.fmt) 0 mm te, ratio32 mm te (fmaxOf c.fmt) 0)

/-- Q, D and CLAMP (05 R146, R140). -/
def scaleOf (c : SlotCfg) (hist : List Nat) (b : Nat) : Nat × Nat × Bool :=
  if c.fmt = 0 then (one32, one32, false)
  else
    let (q, d) := rawScale c hist b
    if q < q32Lo then (q32Lo, q32Hi, true)
    else if q32Hi < q then (q32Hi, q32Lo, true)
    else (q, d, false)

/-- The last `n` elements of a list. -/
def lastN {α : Type} (n : Nat) (l : List α) : List α := l.drop (l.length - n)

/-- The close of one slot, but for DP (05 R146, R147). CLEAN stays at 65,535, the most its table entry holds (log entry 10, DESIGN CHOICE). -/
def closeSlot (c : SlotCfg) (x : ScuSlot) (o : OpenRec) : ScuSlot :=
  let nonfinite := decide (0x7F800000 ≤ o.amax)
  let bad := o.ovf || nonfinite
  let clean1 := x.clean + 1
  let (b, clean) :=
    if bad then (min (x.b + 1) 15, 0)
    else if o.posted then
      (if c.decay ≠ 0 ∧ clean1 = c.decay ∧ 0 < x.b then (x.b - 1, 0) else (x.b, min clean1 0xFFFF))
    else (x.b, x.clean)
  let hist := if o.posted && !nonfinite then lastN c.h (x.hist ++ [o.amax]) else x.hist
  let (q, d, clamp) := scaleOf c hist b
  { hist := hist, q := q, d := d, dp := x.dp, b := b, clean := clean, ovf := o.ovf, nonfinite := nonfinite, clamp := clamp }

/-- A slot's closed state. -/
def slotOfScu (s : State) (p i : Nat) : ScuSlot := sget (fun _ => ScuSlot.init) s.scuSlots (slotKey p i)

/-- The state with a slot's closed state replaced. -/
def setSlotScu (s : State) (p i : Nat) (x : ScuSlot) : State :=
  { s with scuSlots := sset (fun _ => ScuSlot.init) s.scuSlots (slotKey p i) x }

/-- DP of slots whose new D values are in place (05 R146, R140). -/
def setDp (s : State) (p : Nat) (cfgs : List SlotCfg) (slots : List Nat) : State :=
  slots.foldl (fun s i =>
    match cfgs[i]? with
    | none => s
    | some c =>
      let x := slotOfScu s p i
      let dp := if c.fmt = 0 then one32 else if c.partner = 0xFFFF then x.d else (Fmt.fp32.mul x.d (slotOfScu s p c.partner).d).1
      setSlotScu s p i { x with dp := dp }) s

/-- A scale table entry (05 Table 5). -/
def tableEntry (x : ScuSlot) : List Byte :=
  layoutBytes 16 [(0, 4, x.q), (4, 4, x.d), (8, 4, x.dp),
    (12, 1, x.b + 16 * b2n x.ovf + 32 * b2n x.nonfinite + 64 * b2n x.clamp), (13, 1, x.hist.length), (14, 2, x.clean)]

/-- Writes of slots' entries into a copy of the table (05 R152). -/
def tableWrites (s : State) (p table nslots copy : Nat) (slots : List Nat) : List (Nat × List Byte) :=
  slots.map (fun i => (table + copy * 16 * nslots + 16 * i, tableEntry (slotOfScu s p i)))

/-- The largest open record of a slot over the partition's dies (05 R146). -/
def gatherOpen (s : State) (p i : Nat) : OpenRec :=
  (partDies s p).foldl (fun o k =>
    let x := openOf s k p i
    ⟨max o.amax x.amax, o.ovf || x.ovf, o.posted || x.posted⟩) ⟨0, false, false⟩

/-- The open records of a range of slots cleared on every die. -/
def clearOpen (s : State) (p lo n : Nat) : State :=
  { s with scuOpen := (List.range 8).foldl (fun m k => sclear m (openKey k p lo) (openKey k p (lo + n))) s.scuOpen }

/-- The step-invalid bits of the last two closed steps (05 R153). -/
def closedSteps (s : State) (p : Nat) : List (Nat × Bool) := sget (fun _ => []) s.scuClosed p

/-- CLOSE of step `n` from the records taken, the table copy and the step record, and the next open step (05 R146,
R152, R153), with the configurations read when it started; an error status changes nothing. -/
def closeWith (s : State) (p n : Nat) (w : ScuWork) (rec_ : Nat → OpenRec) : Except Fail State :=
  let cfgs := cfgsOf w.nslots w.cfgs
  let all := List.range w.nslots
  let s1 := all.foldl (fun s i => match cfgs[i]? with
    | some c => setSlotScu s p i (closeSlot c (slotOfScu s p i) (rec_ i))
    | none => s) s
  let s2 := setDp s1 p cfgs all
  let badSlots := (all.filter (fun i => (slotOfScu s2 p i).ovf || (slotOfScu s2 p i).nonfinite)).length
  let inv := decide (0 < badSlots)
  let stepRec := (w.table + 32 * w.nslots + 32 * (n % 2), layoutBytes 32 [(0, 8, n), (8, 1, b2n inv), (12, 4, badSlots)])
  match writeAll s2 p (tableWrites s2 p w.table w.nslots ((n + 1) % 2) all ++ [stepRec]) with
  | .error e => .error (memFail St.dmaAddress e)
  | .ok s3 =>
    .ok (setReg { s3 with scuClosed := sset (fun _ => []) s3.scuClosed p (lastN 2 (closedSteps s3 p ++ [(n, inv)])) }
      (pkey p Reg.scuStep) ((n + 1) % 2 ^ 64))

/-- Fields of an SCU body (10 Table 12). -/
def scuStepOf (d : Desc) : Nat := d.fld 20 8
def scuFirst (d : Desc) : Nat := d.fld 30 2
def scuCount (d : Desc) : Nat := d.fld 32 2
def scuAddr (d : Desc) : Nat := d.fld 34 6

/-- What an SCU descriptor samples when it starts (05, registers). -/
def scuSample (s : State) (p : Nat) : ScuWork :=
  ⟨pfld s p Reg.scuCfgBase 6 42 * 64, pfld s p Reg.scuTableBase 6 42 * 64, pfld s p Reg.scuSlots 0 13, [], [], [], 0⟩

/-- Start of an SCU descriptor: a fenced SCU of the partition's dies fails it, and so does a slot range outside NSLOTS. -/
def scuStart (r : Nat) (seq : BitVec 32) (op : Nat) (s : State) (k : Desc → ScuWork → Except Fail State) : State :=
  match startable s r seq 5 op with
  | none => s
  | some d =>
    let w := scuSample s d.part
    if (partDies s d.part).any (fun k => fenced s 4 k) then endFenced s r d
    else if op ≠ 1 && decide (w.nslots < scuFirst d + scuCount d) then endDesc s r d St.descInvalid 0
    else match k d w with
      | .error e => endFail s r d e 0
      | .ok s1 => startWork s1 r d (.scu w)

/-- The slots of a descriptor's range. -/
def scuRange (d : Desc) : List Nat := (List.range (scuCount d)).map (· + scuFirst d)

/-- RESET (05 R154). -/
def scuReset (r : Nat) (seq : BitVec 32) (s : State) : State :=
  scuStart r seq 0 s (fun d w =>
    match slotCfgs s d.part w.cfg w.nslots (List.range w.nslots) with
    | .error e => .error e
    | .ok cfgs =>
      let p := d.part
      let s1 := (scuRange d).foldl (fun s i => match cfgs[i]? with
        | some c =>
          let (im, ie) := parts32 c.initQ
          setSlotScu s p i (if c.fmt = 0 then { ScuSlot.init with q := one32, d := one32 }
            else { ScuSlot.init with q := c.initQ, d := ratio32 1 0 im ie })
        | none => s) s
      let s2 := clearOpen (setDp s1 p cfgs (scuRange d)) p (scuFirst d) (scuCount d)
      match writeAll s2 p (tableWrites s2 p w.table w.nslots 0 (scuRange d) ++ tableWrites s2 p w.table w.nslots 1 (scuRange d)) with
      | .error e => .error (memFail St.dmaAddress e)
      | .ok s3 => .ok (setReg s3 (pkey p Reg.scuStep) (scuStepOf d)))

/-- A group CLOSE's Mordant operations: MAX of 16 slots' amax values, then OR of 256 slots' overflow and posted bits (05
R149). Lane formats: UINT32 MAX and UINT64 OR (12 Table 1). -/
def closeOps (r : Nat) (d : Desc) (nslots : Nat) (rec_ : Nat → OpenRec) : List MOp :=
  let maxOps := (List.range ((nslots + 15) / 16)).map (fun j =>
    MOp.mk (d.fld 28 1) 0 [0x11, 0x11, 0x11, 0x11]
      ((List.range 4).map (fun l => leNat ((List.range 4).flatMap (fun i => leBytes 4 (rec_ (16 * j + 4 * l + i)).amax)))) 0 1000 r d.seq j)
  let bitsOf := fun (f : OpenRec → Bool) (j l : Nat) => (List.range 128).foldl (fun n i => n + b2n (f (rec_ (256 * j + 128 * l + i))) * 2 ^ i) 0
  let orOps := (List.range ((nslots + 255) / 256)).map (fun j =>
    MOp.mk (d.fld 28 1) 0 [0x23, 0x23, 0x23, 0x23]
      [bitsOf (·.ovf) j 0, bitsOf (·.ovf) j 1, bitsOf (·.posted) j 0, bitsOf (·.posted) j 1] 0 1000 r d.seq ((nslots + 15) / 16 + j))
  maxOps ++ orOps

/-- CLOSE (05 R146, R149, R155): it takes the open records; over a group it first combines them. -/
def scuClose (r : Nat) (seq : BitVec 32) (s : State) : State :=
  match startable s r seq 5 1 with
  | none => s
  | some d =>
    let p := d.part
    let w := scuSample s p
    if (partDies s p).any (fun k => fenced s 4 k) then endFenced s r d
    else if scuStepOf d ≠ pfld s p Reg.scuStep 0 64 then endDesc s r d St.scuStep 0
    else
      let rec_ := fun i => if i < w.nslots then gatherOpen s p i else ⟨0, false, false⟩
      match slotEntries s p w.cfg w.nslots (List.range w.nslots) with
      | .error e => endFail s r d e 0
      | .ok cfgs =>
        let w := { w with cfgs := cfgs }
        if d.fld 29 1 = 0 then
          match closeWith s p (scuStepOf d) w rec_ with
          | .error e => endFail s r d e 0
          | .ok s1 => startWork (clearOpen s1 p 0 4096) r d (.scu w)
        else
          let ops := closeOps r d w.nslots rec_
          let taken := (List.range w.nslots).foldl (fun m i => sset (fun _ => OpenRec.mk 0 false false) m i (rec_ i)) []
          let s1 := startWork (clearOpen s p 0 4096) r d (.scu { w with taken := taken, opsLeft := ops.length })
          { s1 with mordantWait := s1.mordantWait ++ ops }

/-- The group's record of a slot, from the results of a CLOSE's operations (05 R149). -/
def groupRec (w : ScuWork) (i : Nat) : OpenRec :=
  let res := fun j l => ((w.results.find? (fun x => x.1 == j)).map (fun x => x.2.getD l 0)).getD 0
  let nm := (w.nslots + 15) / 16
  let o := nm + i / 256
  ⟨fieldOf (res (i / 16) (i % 16 / 4)) (32 * (i % 4)) 32, bitAt (res o (i % 256 / 128)) (i % 128), bitAt (res o (2 + i % 256 / 128)) (i % 128)⟩

/-- The state image record of a slot (05 Table 7). -/
def imageRec (x : ScuSlot) : List Byte :=
  layoutBytes 96 ((List.range 16).map (fun j => (4 * j, 4, x.hist.getD j 0)) ++
    [(64, 4, x.q), (68, 4, x.d), (72, 4, x.dp), (76, 1, x.b), (77, 1, x.hist.length), (78, 2, x.clean)])

/-- SAVE (05 R154, Table 7). -/
def scuSave (r : Nat) (seq : BitVec 32) (s : State) : State :=
  scuStart r seq 2 s (fun d _ =>
    let hdr := layoutBytes 32 [(0, 8, pfld s d.part Reg.scuStep 0 64), (8, 2, scuFirst d), (10, 2, scuCount d)]
    match writeVa s d.part (scuAddr d) (hdr ++ (scuRange d).flatMap (fun i => imageRec (slotOfScu s d.part i))) with
    | .error e => .error (memFail St.dmaAddress e)
    | .ok s1 => .ok s1)

/-- A slot restored from its record of the image; none when the record is out of range. -/
def slotOfImage (b : List Byte) : Option ScuSlot :=
  let hc := leField b 77 1
  if 16 < hc || 15 < leField b 76 1 then none
  else some { ScuSlot.init with
    hist := (List.range hc).map (fun j => leField b (4 * j) 4), q := leField b 64 4, d := leField b 68 4, dp := leField b 72 4
    b := leField b 76 1, clean := leField b 78 2 }

/-- LOAD (05 R154, R155). -/
def scuLoad (r : Nat) (seq : BitVec 32) (s : State) : State :=
  scuStart r seq 3 s (fun d w =>
    let p := d.part
    match readVa s p (scuAddr d) (32 + 96 * scuCount d) with
    | .error e => .error (memFail St.dmaAddress e)
    | .ok b =>
      if leField b 8 2 ≠ scuFirst d ∨ leField b 10 2 ≠ scuCount d then .error (.of St.scuStep)
      else
        let recs := (List.range (scuCount d)).map (fun i => (i + scuFirst d, slotOfImage ((b.drop (32 + 96 * i)).take 96)))
        if recs.any (fun x => x.2.isNone) then .error (.of St.scuConfig)
        else
          let s1 := recs.foldl (fun s x => match x.2 with | some y => setSlotScu s p x.1 y | none => s) s
          let s2 := clearOpen s1 p (scuFirst d) (scuCount d)
          match writeAll s2 p (tableWrites s2 p w.table w.nslots 0 (scuRange d) ++ tableWrites s2 p w.table w.nslots 1 (scuRange d)) with
          | .error e => .error (memFail St.dmaAddress e)
          | .ok s3 => .ok (setReg s3 (pkey p Reg.scuStep) (leField b 0 8)))

/-- SCU_DESCRIPTOR_DONE: the descriptor completes once; a group CLOSE computes its scales when every operation has
answered (05 R146, R149, R154). -/
def scuDone (r : Nat) (seq : BitVec 32) (s : State) : State :=
  match runningDesc s r seq 5 with
  | none => s
  | some d =>
    match d.work with
    | .scu w =>
      if 0 < w.opsLeft then s
      else if d.op = 1 ∧ d.fld 29 1 = 1 then
        match closeWith s d.part (scuStepOf d) w (groupRec w) with
        | .error e => endFail s r d e 0
        | .ok s1 => settleAll (completeOne s1 r d St.ok 0 false)
      else settleAll (completeOne s r d St.ok 0 false)
    | _ => s

/-- SCU_RESET. -/
def execScuReset (r : Nat) (seq : BitVec 32) (s : State) : Host.Outcome State Fault Refusal := onUnit (r < 4096) (scuReset r seq s)
/-- SCU_SAVE. -/
def execScuSave (r : Nat) (seq : BitVec 32) (s : State) : Host.Outcome State Fault Refusal := onUnit (r < 4096) (scuSave r seq s)
/-- SCU_LOAD. -/
def execScuLoad (r : Nat) (seq : BitVec 32) (s : State) : Host.Outcome State Fault Refusal := onUnit (r < 4096) (scuLoad r seq s)
/-- SCU_DESCRIPTOR_DONE. -/
def execScuDescriptorDone (r : Nat) (seq : BitVec 32) (s : State) : Host.Outcome State Fault Refusal := onUnit (r < 4096) (scuDone r seq s)

end Sys2Proof.Machine
end

