-- ==== Sys2Proof/Machine/Mordant.lean ====
section
/-! DEFINITION. Mordant operations: issue, combination along the tree, results, failures and NACKs, and what an operation gives the
descriptor that issued it (12 R393 to R409, R426). -/

namespace Sys2Proof.Machine

def St.collInvalid : BitVec 16 := 0x1000
def St.collMismatch : BitVec 16 := 0x1001

/-! ### Packets -/

/-- A Mordant packet as a Jarip packet: the header of 11 Table 7, the 16-byte control and the payload, in virtual lane 0 (11 R365, 12 R393, R426). -/
def mordantBytes (k : MPacket) (dest : Nat) : Packet :=
  let ctl := layoutBytes 16 [(0, 1, k.group.toNat), (1, 1, k.kind.toNat + 16 * k.phase.toNat), (2, 2, k.opseq.toNat), (4, 4, k.tag.toNat),
    (8, 4, k.lanefmt.toNat), (12, 2, k.root.toNat), (14, 1, k.nlanes.toNat + 8 * b2n k.cfast)]
  ⟨8, 0, false, false, false, k.age, BitVec.ofNat 12 dest, k.src, k.spart, k.sfdie, k.seq, k.epoch, k.job, BitVec.ofNat 12 (15 + k.payload.length), k.key, 0, 0,
    k.hops, ctl ++ k.payload⟩

/-- The Mordant packet that a Jarip packet of TYPE 8 carries (12 Table 8). -/
def mordantOf (k : Packet) : MPacket :=
  let f := leField k.data
  { src := k.src, job := k.job, key := k.key, group := BitVec.ofNat 8 (f 0 1), kind := BitVec.ofNat 4 (f 1 1 % 16), phase := BitVec.ofNat 2 (fieldOf (f 1 1) 4 2)
    opseq := BitVec.ofNat 16 (f 2 2), tag := BitVec.ofNat 32 (f 4 4), lanefmt := BitVec.ofNat 32 (f 8 4), root := BitVec.ofNat 16 (f 12 2)
    nlanes := BitVec.ofNat 3 (f 14 1 % 8), cfast := bitAt (f 14 1) 3, payload := k.data.drop 16, spart := k.spart, sfdie := k.sfdie, seq := k.seq
    epoch := k.epoch, age := k.age, hops := k.hops }

/-- A Mordant packet leaves for a tree neighbour, as the next request of its pair, which is replayed until it is acknowledged (12 R406, R426; log
entry 27). -/
def sendMordant (s : State) (dest : Nat) (k : MPacket) : State :=
  if 4 ≤ stage s then s
  else issuePkt s (srcKey k.spart.toNat (b2n k.sfdie) dest) .edge k.spart.toNat k.payload.length (mordantBytes k dest)

/-- Lanes as payload bytes. -/
def laneBytes (l : List Nat) : List Byte := l.flatMap (leBytes 16)

/-- The lanes of a payload. -/
def lanesOf (n : Nat) (bs : List Byte) : List Nat := (List.range n).map (fun i => leField bs (16 * i) 16)

/-- A packet of an operation (12 R426): its header fields come from the group's job entry. -/
def morPacket (s : State) (c : MCtx) (phase : Nat) (payload : List Byte) : MPacket :=
  let w := groupWord s c.group
  let job := reg s (okey (Reg.fabJob + 32 * fieldOf w 8 6))
  { src := BitVec.ofNat 12 (nodeId s), job := BitVec.ofNat 16 (fieldOf job 16 16), key := BitVec.ofNat 32 (fieldOf job 32 32)
    group := BitVec.ofNat 8 c.group, kind := BitVec.ofNat 4 (c.hdr.getD 0 0), phase := BitVec.ofNat 2 phase, opseq := BitVec.ofNat 16 c.opseq
    tag := BitVec.ofNat 32 (ofld s (Reg.morGroup + 32 * c.group + 16) 0 32), lanefmt := BitVec.ofNat 32 (c.hdr.getD 1 0)
    root := BitVec.ofNat 16 (c.hdr.getD 2 0), nlanes := BitVec.ofNat 3 (c.hdr.getD 3 0), cfast := bitAt w 1, payload := payload
    spart := BitVec.ofNat 3 (fieldOf job 2 3), sfdie := false, seq := 0, epoch := BitVec.ofNat 16 (routeEpoch s), age := 0, hops := 0 }

/-- The checked fields of a packet: kind, LANEFMT, ROOT, NLANES and TAG (12 R403). -/
def packetHdr (k : MPacket) : List Nat := [k.kind.toNat, k.lanefmt.toNat, k.root.toNat, k.nlanes.toNat, k.tag.toNat]

/-- The job table entry of the packet's group is LIVE with its job and key (12 R405, 11 R363). -/
def morAllowed (s : State) (k : MPacket) : Bool :=
  let w := groupWord s k.group.toNat
  let job := reg s (okey (Reg.fabJob + 32 * fieldOf w 8 6))
  bitAt w 0 && fieldOf job 0 2 == 1 && fieldOf job 16 16 == k.job.toNat && fieldOf job 32 32 == k.key.toNat

/-! ### Contexts -/

/-- The context of an operation. -/
def morCtx (s : State) (g q : Nat) : Option MCtx := s.mctxs.find? (fun c => c.group == g && c.opseq == q)

/-- The state with a context replaced or added. -/
def setCtx (s : State) (c : MCtx) : State :=
  if (morCtx s c.group c.opseq).isSome then
    { s with mctxs := s.mctxs.map (fun x => if x.group = c.group ∧ x.opseq = c.opseq then c else x) }
  else { s with mctxs := s.mctxs ++ [c] }

/-- The state without a context. -/
def dropCtx (s : State) (c : MCtx) : State := { s with mctxs := s.mctxs.filter (fun x => !(x.group == c.group && x.opseq == c.opseq)) }

/-- A context is free for a group: 64 in all, 8 of a group (12 R404). -/
def ctxFree (s : State) (g : Nat) : Bool := decide (s.mctxs.length < 64) && decide ((s.mctxs.filter (fun c => c.group == g)).length < 8)

/-- The number of a group's next operation. -/
def morNext (s : State) (g : Nat) : Nat := sget (fun _ => 0) s.morSeq g

/-! ### What an operation gives its descriptor -/

/-- The result of an operation, or its status and DETAIL. -/
abbrev MorResult := Except (BitVec 16 × Nat) (List Nat)

/-- This member's rank in a group. -/
def morRank (s : State) (g : Nat) : Nat := ((groupTree s g).rank s (nodeId s)).getD 0

/-- An ALLREDUCE, REDUCE, BROADCAST or BARRIER ends: its result is written before the record (12 R396, R407). -/
def collEnd (s : State) (r : Nat) (d : Desc) (lanes : List Nat) : State :=
  let op := d.op
  if op = 3 || (op = 1 && morRank s (d.fld 20 1) != d.fld 26 2) then settleAll (completeOne s r d St.ok 0 false)
  else match writeVa s d.part (d.fld 38 6) (laneBytes lanes) with
    | .error e => endMem s r d St.dmaAddress e 0
    | .ok s1 => settleAll (completeOne s1 r d St.ok 0 false)

/-- The state with a bulk all-reduce's work replaced. -/
def setBulk (s : State) (r : Nat) (d : Desc) (w : BulkWork) : State := setDesc s r { d with work := .bulk w }

/-- The state with an all-to-all's work replaced. -/
def setAtoa (s : State) (r : Nat) (d : Desc) (w : AtoaWork) : State := setDesc s r { d with work := .atoa w }

/-- The rows received and refused (12 R410). -/
def atoaDetail (s : State) (p : Nat) (d : Desc) (w : AtoaWork) : Nat :=
  let n := w.nodes.length
  let sc := match readVa s p (d.fld 32 6) (4 * n) with | .ok b => (List.range n).foldl (fun t i => t + leField b (4 * i) 4) 0 | .error _ => 0
  let rc := match readVa s p (d.fld 50 6) (4 * n) with | .ok b => (List.range n).foldl (fun t i => t + leField b (4 * i) 4) 0 | .error _ => 0
  (sc - w.grants.foldl (fun t g => t + g.2) 0) % 2 ^ 32 + rc % 2 ^ 32 * 2 ^ 32

/-- A running descriptor receives the result of one of its operations. -/
def opAnswer (s : State) (o : MOp) (res : MorResult) : State :=
  match findDesc s o.ring o.seq with
  | none => s
  | some d =>
    if d.phase != .running then s
    else match d.work, res with
    | .sie w, .error e => sieWake (sieFail s o.ring d w e.1 e.2)
    | .sie w, .ok l => setDesc s o.ring { d with work := .sie { w with result := some l } }
    | .scu w, .ok l => setDesc s o.ring { d with work := .scu { w with results := w.results ++ [(o.idx, l)], opsLeft := w.opsLeft - 1 } }
    | .bulk w, .ok l =>
      if w.stage = 0 then
        (if fieldOf (l.getD 0 0) 0 64 = fieldOf (l.getD 1 0) 0 64 then setBulk s o.ring d { w with stage := 1 } else endDesc s o.ring d St.collMismatch 0)
      else settleAll (completeOne s o.ring d St.ok 0 false)
    | .atoa w, .ok _ =>
      if w.phase = 3 then settleAll (completeOne s o.ring d St.ok (atoaDetail s d.part d w) false)
      else setAtoa s o.ring d { w with phase := w.phase + 1, begun := false, barred := false }
    | .bulk _, .error e => endDesc (bulkLost s d) o.ring d e.1 e.2
    | _, .ok l => if d.engine = 9 then collEnd s o.ring d l else s
    | _, .error e => endDesc s o.ring d e.1 e.2

/-! ### The tree -/

/-- Whether a node's subtree holds the ROOT member: the child of `me` on the way from ROOT, or `me` itself. -/
def rootSide (s : State) (t : Tree) (me : Nat) : Nat → Nat → Option Nat
  | 0, _ => none
  | f + 1, n => if n = me then some me else match t.parent s n with
    | none => none
    | some p => if p = me then some n else rootSide s t me f p

/-- The order in which a node combines: its own value, then its children in tree order with COLOURFAST, the order of arrival without (12
R398). -/
def morOrder (c : MCtx) (kids : List Nat) (cfast : Bool) : List (List Nat) :=
  if cfast then (none :: kids.map some).filterMap (fun k => (c.got.find? (fun g => g.1 == k)).map (·.2)) else c.got.map (·.2)

/-- A node's partial result (12 R395 to R398). A broadcast's partial from a subtree without ROOT holds free values. -/
def morCombine (s : State) (c : MCtx) (op : MOp) (kids : List Nat) : List Nat × State :=
  let t := groupTree s c.group
  if op.kind = 2 then
    let me := nodeId s
    match rootSide s t me 64 (t.node s (t.place op.root)) with
    | some n => ((((c.got.find? (fun g => g.1 == (if n = me then none else some n))).map (·.2))).getD [], s)
    | none => freeLanes s op.fmts.length
  else match morOrder c kids (bitAt (groupWord s c.group) 1) with
    | [] => ([], s)
    | v :: vs => (vs.foldl (lanesCombine op.fmts) v, s)

/-- The operation ends on this member with a result, which goes down the tree (12 R397). -/
def morDeliver (s : State) (c : MCtx) (v : List Nat) : State :=
  let kids := (groupTree s c.group).kids s (nodeId s)
  let s1 := kids.foldl (fun s k => sendMordant s k (morPacket s c 1 (laneBytes v))) (dropCtx s c)
  match c.own with
  | some op => opAnswer s1 op (.ok v)
  | none => s1

/-- The payload of a FAIL (12 R426): the lowest silent node and their number; none for a mismatch (log entry 27). -/
def failBytes (f : Nat × Nat) : List Byte := leBytes 2 f.1 ++ leBytes 2 f.2

/-- The status and DETAIL of a failed operation (12 R403, R406). -/
def failStatus (f : Nat × Nat) : BitVec 16 × Nat := if f.2 = 0 then (St.collMismatch, 0) else (St.remoteDead, f.1 + f.2 % 4096 * 65536)

/-- The root's FAIL ends the operation on this member and goes down the tree (12 R406). -/
def morEndFail (s : State) (c : MCtx) (f : Nat × Nat) : State :=
  let kids := (groupTree s c.group).kids s (nodeId s)
  let s1 := kids.foldl (fun s k => sendMordant s k (morPacket s c 2 (failBytes f))) s
  match c.own with
  | some op => opAnswer (dropCtx s1 c) op (.error (failStatus f))
  | none => setCtx s1 { c with fail := some f, ended := true }

/-- Two failures joined: the lowest node and all silent nodes; a mismatch stays one. -/
def joinFail (a b : Nat × Nat) : Nat × Nat := if a.2 = 0 || b.2 = 0 then (0, 0) else (min a.1 b.1, a.2 + b.2)

/-- A failure is known at this node: it goes toward the root, and the root ends the operation (12 R403, R406). -/
def morFailUp (s : State) (c : MCtx) (f : Nat × Nat) : State :=
  let j := match c.fail with | some g => joinFail g f | none => f
  match (groupTree s c.group).parent s (nodeId s) with
  | none => morEndFail s c j
  | some p => sendMordant (setCtx s { c with fail := some j }) p (morPacket s c 2 (failBytes f))

/-- A node that has its own value and every child's combines them, and sends the partial up or, at the root, the result down (12 R397,
R398). -/
def morAdvance (s : State) (c : MCtx) : State :=
  match c.own with
  | none => setCtx s c
  | some op =>
    let t := groupTree s c.group
    let kids := t.kids s (nodeId s)
    if c.val.isSome || c.fail.isSome || !kids.all (fun k => c.got.any (fun g => g.1 == some k)) then setCtx s c
    else
      let (v, s1) := morCombine s c op kids
      match t.parent s (nodeId s) with
      | none => morDeliver s1 c v
      | some p => sendMordant (setCtx s1 { c with val := some v }) p (morPacket s1 c 0 (laneBytes v))

/-! ### Issue -/

/-- LANEFMT of an operation. -/
def packFmts (l : List Nat) : Nat := leNat (l.map (BitVec.ofNat 8))

/-- The checked fields of an operation of this node. -/
def opHdr (s : State) (o : MOp) : List Nat :=
  [o.kind, packFmts o.fmts, (if o.kind = 1 || o.kind = 2 then o.root else 0), o.fmts.length, ofld s (Reg.morGroup + 32 * o.group + 16) 0 32]

/-- This node enters an operation as its group's next number (12 R403). -/
def morEnter (s : State) (o : MOp) : State :=
  let q := morNext s o.group
  let s1 := { s with morSeq := sset (fun _ => 0) s.morSeq o.group ((q + 1) % 65536) }
  let h := opHdr s o
  match morCtx s o.group q with
  | none => morAdvance s1 ⟨o.group, q, h, some o, [(none, o.lanes)], none, false, none, false⟩
  | some c =>
    let c1 := { c with own := some o, hdr := h, got := c.got ++ [(none, o.lanes)] }
    if c.ended then opAnswer (dropCtx s1 c) o (.error (failStatus (c.fail.getD (0, 0))))
    else if c.hdr != h then morFailUp (setCtx s1 c1) c1 (0, 0)
    else morAdvance s1 c1

/-- The first waiting operation whose group has no earlier one waiting and that finds its context (12 R404). -/
def morReady (s : State) : Option MOp :=
  s.mordantWait.find? (fun o => (s.mordantWait.find? (fun x => x.group == o.group)) == some o &&
    ((morCtx s o.group (morNext s o.group)).isSome || ctxFree s o.group))

/-- Waiting operations are entered; those of a descriptor that has been stopped are not (10 R325; log entry 27). -/
def morPump : Nat → State → State
  | 0, s => s
  | f + 1, s =>
    match morReady s with
    | none => s
    | some o =>
      let s1 := { s with mordantWait := s.mordantWait.erase o }
      if (findDesc s o.ring o.seq).isNone then morPump f s1
      else if bitAt (groupWord s o.group) 0 && ((groupTree s o.group).rank s (nodeId s)).isSome then morPump f (morEnter s1 o)
      else morPump f (opAnswer s1 o (.error (St.collInvalid, 0)))

/-- Enough rounds for every operation that waits, and for those that the end of one starts. -/
def morGo (s : State) : State := morPump (2 * s.mordantWait.length + 64) s

/-! ### Packets arriving -/

/-- MORDANT_PARTIAL: a child's partial is held, combined or refused with a NACK (12 R398, R403 to R405). -/
def morPartial (k : MPacket) (s : State) : State :=
  let g := k.group.toNat
  let q := k.opseq.toNat
  let kids := (groupTree s g).kids s (nodeId s)
  if !alive s || s.tapHeld || k.phase ≠ 0 || 4 ≤ k.kind.toNat || !morAllowed s k || !kids.contains k.src.toNat then s
  else match morCtx s g q with
    | some c =>
      if c.got.any (fun x => x.1 == some k.src.toNat) || c.fail.isSome then s
      else
        let c1 := { c with got := c.got ++ [(some k.src.toNat, lanesOf k.nlanes.toNat k.payload)] }
        if c.hdr != packetHdr k then morFailUp (setCtx s c1) c1 (0, 0) else morAdvance s c1
    | none =>
      if 32768 ≤ seqDiff q (morNext s g) then s
      else if k.tag.toNat ≠ ofld s (Reg.morGroup + 32 * g + 16) 0 32 then
        let c : MCtx := ⟨g, q, packetHdr k, none, [], none, false, none, false⟩
        morFailUp (setCtx s c) c (0, 0)
      else if ctxFree s g then setCtx s ⟨g, q, packetHdr k, none, [(some k.src.toNat, lanesOf k.nlanes.toNat k.payload)], none, false, none, false⟩
      else
        let c : MCtx := ⟨g, q, packetHdr k, none, [], none, false, none, false⟩
        sendMordant s k.src.toNat (morPacket s c 3 [])

/-- A packet from this node's parent, for an operation that it has entered in its tree. -/
def fromParent (s : State) (k : MPacket) : Option MCtx :=
  if alive s && !s.tapHeld && morAllowed s k && (groupTree s k.group.toNat).parent s (nodeId s) == some k.src.toNat then
    morCtx s k.group.toNat k.opseq.toNat else none

/-- MORDANT_RESULT: the root's result ends the operation here and goes on down (12 R397). -/
def morResultPkt (k : MPacket) (s : State) : State :=
  match fromParent s k with
  | none => s
  | some c => if k.phase = 1 && c.val.isSome then morDeliver s c (lanesOf k.nlanes.toNat k.payload) else s

/-- MORDANT_FAIL: from a child it goes on toward the root; from the parent it ends the operation (12 R406). -/
def morFailPkt (k : MPacket) (s : State) : State :=
  let f := (leField k.payload 0 2 % 4096, leField k.payload 2 2)
  let g := k.group.toNat
  let q := k.opseq.toNat
  if k.phase ≠ 2 then s
  else match fromParent s k with
    | some c => morEndFail s c f
    | none =>
      if !alive s || s.tapHeld || !morAllowed s k || !((groupTree s g).kids s (nodeId s)).contains k.src.toNat then s
      else match morCtx s g q with
        | some c => if c.ended then s else morFailUp s c f
        | none =>
          if 32768 ≤ seqDiff q (morNext s g) || !ctxFree s g then s
          else
            let c : MCtx := ⟨g, q, packetHdr k, none, [], none, false, none, false⟩
            morFailUp (setCtx s c) c f

/-- MORDANT_NACK: the parent had no free context; the partial is due again (12 R404). -/
def morNackPkt (k : MPacket) (s : State) : State :=
  match fromParent s k with
  | none => s
  | some c => if k.phase = 3 && c.val.isSome then setCtx s { c with nacked := true } else s

/-- MORDANT_RESEND: 100 ns after a NACK the partial is sent again (12 R404). -/
def morResend (g q : Nat) (s : State) : State :=
  match morCtx s g q with
  | none => s
  | some c =>
    match c.nacked, c.val, (groupTree s g).parent s (nodeId s) with
    | true, some v, some p => sendMordant (setCtx s { c with nacked := false }) p (morPacket s c 0 (laneBytes v))
    | _, _, _ => s

/-- MORDANT_CHILD_TIMEOUT: a child has been silent for W (12 R406). -/
def morChildTimeout (g q child : Nat) (s : State) : State :=
  match morCtx s g q with
  | none => s
  | some c =>
    if c.own.isNone || c.val.isSome || !((groupTree s g).kids s (nodeId s)).contains child || c.got.any (fun x => x.1 == some child) then s
    else morFailUp s c (child, 1)

/-- MORDANT_MEMBER_TIMEOUT: nothing came within 2 × W of this member's partial (12 R406). -/
def morMemberTimeout (g q : Nat) (s : State) : State :=
  match morCtx s g q with
  | none => s
  | some c =>
    match c.own, c.val, (groupTree s g).parent s (nodeId s) with
    | some op, some _, some p => opAnswer (dropCtx s c) op (.error (St.remoteDead, p))
    | _, _, _ => s

end Sys2Proof.Machine
end

