-- ==== Sys2Proof/Machine/Collect.lean ====
section
/-! DEFINITION. The COLLECTIVE engine: Mordant descriptors, bulk all-reduce, all-to-all and inter-stage queues (12 R407 to R417), and a group
CLOSE. -/

namespace Sys2Proof.Machine

def St.queueTimeout : BitVec 16 := 0x1003
def St.queueOrder : BitVec 16 := 0x1004

/-- W of a descriptor (12 Table 3). -/
def collWait (d : Desc) : Nat := if d.fld 28 4 = 0 then 1000 else d.fld 28 4

/-- An operation of a descriptor is put in line. -/
def pushOp (s : State) (r : Nat) (d : Desc) (kind : Nat) (fmts lanes : List Nat) (root idx : Nat) : State :=
  { s with mordantWait := s.mordantWait ++ [⟨d.fld 20 1, kind, fmts, lanes, root, collWait d, r, d.seq, idx⟩] }

/-- An operation of a descriptor has an FP32 or FP64 SUM lane, on a group without COLOURFAST (13 R431). -/
def sumLoose (s : State) (d : Desc) : Bool :=
  decide (d.op ≤ 2) && !bitAt (groupWord s (d.fld 20 1)) 1 &&
    (List.range (d.fld 21 1)).any (fun i => d.fld (22 + i) 1 == 5 || d.fld (22 + i) 1 == 6)

/-- The start of a COLLECTIVE descriptor: an invalid one fails, and so does, in Colourfast mode, one whose sum depends on order, which sends nothing (13
R431); another begins. -/
def collStart (r : Nat) (seq : BitVec 32) (op : Nat) (ok : State → Desc → Bool) (s : State) (k : Desc → State) : State :=
  match startable s r seq 9 op with
  | none => s
  | some d =>
    if !ok s d then endDesc s r d St.collInvalid 0
    else if pfld s d.part Reg.detCtrl 0 1 == 1 && sumLoose s d then endDesc s r d St.colourfast 0
    else k d

/-! ### Mordant descriptors -/

/-- The body of OPs 0 to 3 is valid (12 R394, R407). -/
def morBodyOk (s : State) (d : Desc) : Bool :=
  let g := d.fld 20 1
  let n := d.fld 21 1
  let t := groupTree s g
  groupUsable s d.part g && (if d.op = 3 then n == 0 else decide (1 ≤ n) && decide (n ≤ 4)) &&
    (List.range n).all (fun i => laneFmtOk (d.fld (22 + i) 1)) && decide (d.fld 28 4 ≤ 10000000) &&
    (!(d.op == 1 || d.op == 2) || (decide (d.fld 26 2 < t.size) && !t.holes.contains (t.node s (t.place (d.fld 26 2)))))

/-- ALLREDUCE, REDUCE, BROADCAST and BARRIER start: SRC is read where this member gives a value (12 R396, R407). -/
def morDescriptor (op r : Nat) (seq : BitVec 32) (s : State) : State :=
  collStart r seq op morBodyOk s (fun d =>
    let n := d.fld 21 1
    let gives := op ≠ 3 && (op ≠ 2 || morRank s (d.fld 20 1) == d.fld 26 2)
    match (if gives then readVa s d.part (d.fld 32 6) (16 * n) else .ok []) with
    | .error e => endMem s r d St.dmaAddress e 0
    | .ok bs => pushOp (startWork s r d .idle) r d op ((List.range n).map (fun i => d.fld (22 + i) 1)) (if gives then lanesOf n bs else []) (d.fld 26 2) 0)

/-! ### Bulk all-reduce -/

/-- The body of a BULK_ALLREDUCE is valid (12 R408). -/
def bulkBodyOk (s : State) (d : Desc) : Bool :=
  groupUsable s d.part (d.fld 20 1) && (groupTree s (d.fld 20 1)).holes.isEmpty && decide (d.fld 21 1 ≤ 3) && decide (1 ≤ d.fld 24 4) &&
    decide (d.fld 24 4 ≤ 2 ^ 30) && decide (d.fld 28 4 ≤ 10000000)

/-- BULK_ALLREDUCE starts with the Mordant MIN and MAX of its check value (12 R408; log entry 27). -/
def bulkStart (r : Nat) (seq : BitVec 32) (s : State) : State :=
  collStart r seq 4 bulkBodyOk s (fun d =>
    let t := groupTree s (d.fld 20 1)
    let me := t.place (morRank s (d.fld 20 1))
    let nb := fun (a k : Nat) => t.node s (me.put a ((me.at a + k) % t.e a))
    let w : BulkWork := ⟨0, (List.range 3).map (fun a => nb a (t.e a - 1)), (List.range 3).map (fun a => nb a 1), bulkSteps t me (d.fld 24 4), 0, false, []⟩
    let c := crc64 0 (leBytes 1 (d.fld 21 1) ++ leBytes 4 (d.fld 24 4) ++ leBytes 6 (d.fld 38 6))
    pushOp (startWork s r d (.bulk w)) r d 0 [0x0B, 0x13] [c, c] 0 0)

/-- Received elements combined with or put in place of this member's (12 R395, R408). -/
def bulkApply (ty : Nat) (gather : Bool) (mine got : List Byte) : List Byte :=
  let n := bulkBytes ty
  let lt := match ty with | 0 => 5 | 1 => 6 | 2 => 0 | _ => 2
  if gather then got
  else (List.range (mine.length / n)).flatMap (fun i => leBytes n (laneElem lt 0 (leField got (n * i) n) (leField mine (n * i) n)))

/-- The barrier that ends a phase, or that another member's silence has already failed (12 R406). -/
def barrierEnded (s : State) (g : Nat) : Bool := match morCtx s g (morNext s g) with | some c => c.ended | none => false

/-- A running bulk all-reduce goes on as far as it can: it sends the present step's segment, takes the one that has arrived, and enters the
barrier after its last step (12 R408). -/
def bulkRun : Nat → Nat → BitVec 32 → State → State
  | 0, _, _, s => s
  | f + 1, r, seq, s =>
    match findDesc s r seq with
    | none => s
    | some d =>
      match d.work with
      | .bulk w =>
        let es := bulkBytes (d.fld 21 1)
        if w.stage ≠ 1 then s
        else if barrierEnded s (d.fld 20 1) then pushOp (setBulk s r d { w with stage := 2 }) r d 3 [] [] 0 1
        else match w.steps[w.done]? with
        | none => pushOp (setBulk s r d { w with stage := 2 }) r d 3 [] [] 0 1
        | some st =>
          if !w.sent then
            (match readVa s d.part (d.fld 32 6 + st.sendLo * es) ((st.sendHi - st.sendLo) * es) with
            | .error e => endMem (bulkLost s d) r d St.dmaAddress e 0
            | .ok bs =>
              let s1 := setBulk s r d { w with sent := true }
              let s2 := if bs.isEmpty then s1 else { s1 with vatQueue := s1.vatQueue ++ [⟨d.part, .engine r seq, 0, w.after.getD st.axis 0, d.fld 38 6 + st.sendLo * es,
                bitAt (groupWord s (d.fld 20 1)) 2, 1, bs.length, bs⟩] }
              bulkRun f r seq s2)
          else
            let next := { w with done := w.done + 1, sent := false, inbox := w.inbox.filter (fun x => x.1 != w.done) }
            if st.recvLo = st.recvHi then bulkRun f r seq (setBulk s r d next)
            else match w.inbox.find? (fun x => x.1 == w.done) with
            | none => s
            | some (_, got) =>
              let a := d.fld 32 6 + st.recvLo * es
              match readVa s d.part a got.length with
              | .error e => endMem (bulkLost s d) r d St.dmaAddress e 0
              | .ok mine => match writeVa s d.part a (bulkApply (d.fld 21 1) st.gather mine got) with
                | .error e => endMem (bulkLost s d) r d St.dmaAddress e 0
                | .ok s1 => bulkRun f r seq (setBulk s1 r d next)
      | _ => s

/-! ### All-to-all -/

/-- The body of an ALLTOALLV is valid (12 R410). -/
def atoaBodyOk (s : State) (d : Desc) : Bool :=
  let rb := d.fld 24 4
  groupUsable s d.part (d.fld 20 1) && decide (8 ≤ rb) && decide (rb ≤ 65536) && rb % 8 == 0 && decide (d.fld 28 4 ≤ 10000000)

/-- Data of an all-to-all to the window of a member: a Vat write, or a write of this member's own window. -/
def atoaSend (r : Nat) (d : Desc) (acc : Except MemErr (State × Nat)) (x : Nat × Nat × List Byte) : Except MemErr (State × Nat) :=
  match acc with
  | .error e => .error e
  | .ok (s, n) =>
    if x.2.2.isEmpty then .ok (s, n)
    else if x.1 = nodeId s then (match writeVa s d.part (exportVa s d.part + x.2.1) x.2.2 with
      | .error e => .error e
      | .ok s1 => .ok (s1, n))
    else .ok ({ s with vatQueue := s.vatQueue ++ [⟨d.part, .engine r d.seq, 0, x.1, x.2.1, bitAt (groupWord s (d.fld 20 1)) 2, 1, x.2.2.length, x.2.2⟩] }, n + 1)

/-- A list of 4-byte numbers in memory. -/
def readWords (s : State) (p a n : Nat) : Except MemErr (List Nat) :=
  match readVa s p a (4 * n) with
  | .error e => .error e
  | .ok bs => .ok ((List.range n).map (fun i => leField bs (4 * i) 4))

/-- Sum of the numbers before position `i`. -/
def sumBefore (l : List Nat) (i : Nat) : Nat := (l.take i).foldl (· + ·) 0

/-- What a member sends in a phase, and the rows granted to it once it knows them (12 R410). -/
def atoaPhase (s : State) (d : Desc) (w : AtoaWork) : Except MemErr (State × List (Nat × Nat × List Byte) × List (Nat × Nat)) := do
  let n := w.nodes.length
  let me := w.nodes.findIdx (fun x => x == nodeId s)
  let dst := d.fld 44 6
  let own := exportVa s d.part + dst
  match w.phase with
  | 1 =>
    let sc ← readWords s d.part (d.fld 32 6) n
    .ok (s, (List.range n).map (fun j => (w.nodes.getD j 0, dst + 4 * me, leBytes 4 (sc.getD j 0))), [])
  | 2 =>
    let cs ← readWords s d.part own n
    let acc := fun i => min (cs.getD i 0) (d.fld 56 4 - sumBefore cs i)
    match writeVa s d.part (d.fld 50 6) ((List.range n).flatMap (fun i => leBytes 4 (acc i))) with
    | .error e => .error e
    | .ok s1 => .ok (s1, (List.range n).map (fun i => (w.nodes.getD i 0, dst + 4 * n + 8 * me, leBytes 4 (sumBefore cs i) ++ leBytes 4 (acc i))), [])
  | _ =>
    let sc ← readWords s d.part (d.fld 32 6) n
    let ps ← readWords s d.part (own + 4 * n) (2 * n)
    let gs := (List.range n).map (fun j => (ps.getD (2 * j) 0, ps.getD (2 * j + 1) 0))
    let rb := d.fld 24 4
    let rows ← (List.range n).foldr (fun j acc => match acc with
      | .error e => .error e
      | .ok l => match readVa s d.part (d.fld 38 6 + sumBefore sc j * rb) ((gs.getD j (0, 0)).2 * rb) with
        | .error e => .error e
        | .ok bs => .ok ((w.nodes.getD j 0, dst + (12 * n + 63) / 64 * 64 + (gs.getD j (0, 0)).1 * rb, bs) :: l)) (Except.ok [])
    .ok (s, rows, gs)

/-- A running all-to-all goes on: it issues the writes of its phase, and enters the phase's barrier once they are acknowledged (12 R410). -/
def atoaRun (r : Nat) (seq : BitVec 32) (s : State) : State :=
  match findDesc s r seq with
  | none => s
  | some d =>
    match d.work with
    | .atoa w =>
      if !w.begun then
        match atoaPhase s d w with
        | .error e => endMem s r d St.dmaAddress e 0
        | .ok (s1, sends, gs) => match sends.foldl (atoaSend r d) (.ok (s1, 0)) with
          | .error e => endMem s r d St.dmaAddress e 0
          | .ok (s2, n) =>
            let w1 := { w with begun := true, acks := n, grants := gs, barred := n == 0 }
            let s3 := setAtoa s2 r d w1
            if n = 0 then pushOp s3 r d 3 [] [] 0 w.phase else s3
      else if !w.barred && (w.acks == 0 || barrierEnded s (d.fld 20 1)) then pushOp (setAtoa s r d { w with barred := true }) r d 3 [] [] 0 w.phase
      else s
    | _ => s

/-- ALLTOALLV starts (12 R410). -/
def atoaStart (r : Nat) (seq : BitVec 32) (s : State) : State :=
  collStart r seq 5 atoaBodyOk s (fun d =>
    let t := groupTree s (d.fld 20 1)
    let nodes := ((List.range t.size).map (fun i => t.node s (t.place i))).filter (fun n => !t.holes.contains n)
    startWork s r d (.atoa ⟨1, false, 0, false, nodes, []⟩))

/-! ### Queues -/

/-- The queue control block is in range (12 Table 5). -/
def qcbOk (b : List Byte) : Bool :=
  let f := leField b
  let n := f 5 1
  let l := f 6 2
  decide (f 0 2 < 4096) && decide (f 2 2 < 4096) && decide (f 4 1 < 168) && decide (1 ≤ n) && decide (n ≤ 64) && (l == 0 || decide (n < l)) &&
    f 8 4 % 256 == 0 && f 8 4 != 0 && decide (n * f 8 4 / 8 ≤ 131072) && f 12 4 == 0 && f 56 8 == 0

/-- A field of the control block of a queue operation. -/
def QueueWork.f (w : QueueWork) (off len : Nat) : Nat := leField w.qcb off len

/-- A queue operation starts: its control block is read, and an item out of order fails (12 R414 to R416). `right` says whether ITEM is in
turn. -/
def queueStart (op r : Nat) (seq : BitVec 32) (right : Nat → QueueWork → Bool) (s : State) : State :=
  match startable s r seq 9 op with
  | none => s
  | some d =>
    if 60000 < d.fld 28 4 then endDesc s r d St.collInvalid 0
    else match readVa s d.part (d.fld 32 6) 64 with
    | .error e => endMem s r d St.dmaAddress e 0
    | .ok b =>
      if !qcbOk b then endDesc s r d St.collInvalid 0
      else if (boundJob s d.part).isNone then endDesc s r d St.dmaAddress 0
      else if !right (d.fld 20 8) ⟨b, true, 0⟩ then endDesc s r d St.queueOrder 0
      else startWork s r d (.queue ⟨b, true, 0⟩)

/-- The work of a queue operation replaced, with a counter of its control block written at byte `off`; a control block that cannot be written
fails it. -/
def queueCount (s : State) (r : Nat) (d : Desc) (w : QueueWork) (off v : Nat) : State :=
  match writeVa s d.part (d.fld 32 6 + off) (leBytes 8 v) with
  | .error e => endMem s r d St.dmaAddress e 0
  | .ok s1 => setDesc s1 r { d with work := .queue w }

/-- The requests of a QPUSH into slot `k`, or into the spill area (12 R413, R414). -/
def pushReqs (r : Nat) (d : Desc) (w : QueueWork) (item : List Byte) (slot : Bool) : List VatReq :=
  let m := d.fld 20 8
  let n := w.f 5 1
  let ib := w.f 8 4
  let l := w.f 6 2
  let req := fun off (bs : List Byte) => VatReq.mk d.part (.engine r d.seq) 0 (w.f 2 2) off false 1 bs.length bs
  if slot then
    (List.range 8).map (fun t => req (Config.queueSlot (w.f 4 1) t (1441792 + m % n * (ib / 8))) ((item.drop (t * (ib / 8))).take (ib / 8))) ++
      [req (w.f 24 8 + 8 * (m % n)) (leBytes 8 m)]
  else [req (w.f 16 8 + m % l * ib) item, req (w.f 24 8 + 8 * (n + m % l)) (leBytes 8 m)]

/-- A waiting QPUSH goes on when the credit allows it (12 R414). -/
def pushRun (s : State) (r : Nat) (d : Desc) (w : QueueWork) : State :=
  let m := d.fld 20 8
  match readNat s d.part (exportVa s d.part + w.f 32 8) 8, readVa s d.part (d.fld 38 6) (w.f 8 4) with
  | .ok c, .ok item =>
    if m < c + w.f 5 1 ∨ (0 < w.f 6 2 ∧ m < c + w.f 6 2) then
      let reqs := pushReqs r d w item (decide (m < c + w.f 5 1))
      let s1 := queueCount s r d { w with waiting := false, acks := reqs.length } 40 (m + 1)
      if (findDesc s1 r d.seq).isSome then { s1 with vatQueue := s1.vatQueue ++ reqs } else s1
    else s
  | .error e, _ => endMem s r d St.dmaAddress e 0
  | _, .error e => endMem s r d St.dmaAddress e 0

/-- The spilled item copied into its slot by the consumer (12 R415). -/
def spillCopy (s : State) (d : Desc) (w : QueueWork) (item : List Byte) : Option State :=
  let g := w.f 4 1
  let ib := w.f 8 4 / 8
  if holdsGroup s d.part g then
    some ((List.range 8).foldl (fun s t => putBytes s (spKey (8 * g + t) (1441792 + d.fld 20 8 % w.f 5 1 * ib)) ((item.drop (t * ib)).take ib)) s)
  else none

/-- A waiting QPOP completes when its item is in its slot (12 R415). -/
def popRun (s : State) (r : Nat) (d : Desc) (w : QueueWork) : State :=
  let m := d.fld 20 8
  let n := w.f 5 1
  let l := w.f 6 2
  let win := exportVa s d.part
  let finish := fun (s : State) =>
    let s1 := queueCount s r d { w with waiting := false } 40 (m + 1)
    match findDesc s1 r d.seq with
    | some d1 => settleAll (completeOne s1 r d1 St.ok 0 false)
    | none => s1
  match readNat s d.part (win + w.f 24 8 + 8 * (m % n)) 8 with
  | .error e => endMem s r d St.dmaAddress e 0
  | .ok tag =>
    if tag = m then finish s
    else if l = 0 then s
    else match readNat s d.part (win + w.f 24 8 + 8 * (n + m % l)) 8, readNat s d.part (d.fld 32 6 + 48) 8 with
    | .ok sp, .ok rel =>
      if sp = m ∧ m < rel + n then
        match readVa s d.part (win + w.f 16 8 + m % l * w.f 8 4) (w.f 8 4) with
        | .error e => endMem s r d St.dmaAddress e 0
        | .ok item => match spillCopy s d w item with
          | none => endDesc s r d St.dmaAddress 0
          | some s1 => finish s1
      else s
    | .error e, _ => endMem s r d St.dmaAddress e 0
    | _, .error e => endMem s r d St.dmaAddress e 0

/-- A queue operation goes on (12 R414 to R416). -/
def queueRun (r : Nat) (seq : BitVec 32) (s : State) : State :=
  match findDesc s r seq with
  | none => s
  | some d =>
    match d.work with
    | .queue w =>
      if !w.waiting then (if w.acks = 0 then settleAll (completeOne s r d St.ok 0 false) else s)
      else if d.op = 6 then pushRun s r d w
      else if d.op = 7 then popRun s r d w
      else
        let s1 := queueCount s r d { w with waiting := false, acks := 1 } 48 (d.fld 20 8 + 1)
        if (findDesc s1 r seq).isSome then
          { s1 with vatQueue := s1.vatQueue ++ [⟨d.part, .engine r seq, 0, w.f 0 2, w.f 32 8, false, 2, 8, leBytes 8 1⟩] } else s1
    | _ => s

/-- QUEUE_TIMEOUT: a QPUSH or QPOP has waited for TIMEOUT_MS (12 R417). -/
def queueTimeout (r : Nat) (seq : BitVec 32) (s : State) : State :=
  match runningDesc s r seq 9 with
  | none => s
  | some d => match d.work with
    | .queue w => if w.waiting then endDesc s r d St.queueTimeout 0 else s
    | _ => s

/-! ### Progress -/

/-- Every running COLLECTIVE descriptor goes on as far as it can. -/
def collPoll (s : State) : State :=
  (runningAll s).foldl (fun s x => match x.2.work with
    | .bulk w => bulkRun (2 * w.steps.length + 4) x.1 x.2.seq s
    | .atoa _ => atoaRun x.1 x.2.seq s
    | .queue _ => queueRun x.1 x.2.seq s
    | _ => s) s

/-- Operations and descriptors go on until nothing changes: an operation's result can let a descriptor enter its next one. -/
def collGo (s : State) : State := morGo (collPoll (morGo (collPoll (morGo (collPoll (morGo (collPoll s)))))))

/-! ### Meanings -/

/-- ALLREDUCE. -/
def execAllreduce (r : Nat) (seq : BitVec 32) (s : State) : Host.Outcome State Fault Refusal := onUnit (r < 4096) (collGo (morDescriptor 0 r seq s))
/-- REDUCE. -/
def execReduce (r : Nat) (seq : BitVec 32) (s : State) : Host.Outcome State Fault Refusal := onUnit (r < 4096) (collGo (morDescriptor 1 r seq s))
/-- BROADCAST. -/
def execBroadcast (r : Nat) (seq : BitVec 32) (s : State) : Host.Outcome State Fault Refusal := onUnit (r < 4096) (collGo (morDescriptor 2 r seq s))
/-- BARRIER. -/
def execBarrier (r : Nat) (seq : BitVec 32) (s : State) : Host.Outcome State Fault Refusal := onUnit (r < 4096) (collGo (morDescriptor 3 r seq s))
/-- BULK_ALLREDUCE. -/
def execBulkAllreduce (r : Nat) (seq : BitVec 32) (s : State) : Host.Outcome State Fault Refusal := onUnit (r < 4096) (collGo (bulkStart r seq s))
/-- ALLTOALLV. -/
def execAlltoallv (r : Nat) (seq : BitVec 32) (s : State) : Host.Outcome State Fault Refusal := onUnit (r < 4096) (collGo (atoaStart r seq s))
/-- QPUSH: ITEM is NEXT_A (12 R414). -/
def execQpush (r : Nat) (seq : BitVec 32) (s : State) : Host.Outcome State Fault Refusal :=
  onUnit (r < 4096) (collGo (queueStart 6 r seq (fun m w => m == w.f 40 8) s))
/-- QPOP: ITEM is NEXT_A (12 R415). -/
def execQpop (r : Nat) (seq : BitVec 32) (s : State) : Host.Outcome State Fault Refusal :=
  onUnit (r < 4096) (collGo (queueStart 7 r seq (fun m w => m == w.f 40 8) s))
/-- QRELEASE: ITEM is NEXT_R, and its QPOP has completed (12 R416). -/
def execQrelease (r : Nat) (seq : BitVec 32) (s : State) : Host.Outcome State Fault Refusal :=
  onUnit (r < 4096) (collGo (queueStart 8 r seq (fun m w => m == w.f 48 8 && decide (m < w.f 40 8)) s))
/-- QUEUE_TIMEOUT. -/
def execQueueTimeout (r : Nat) (seq : BitVec 32) (s : State) : Host.Outcome State Fault Refusal := onUnit (r < 4096) (queueTimeout r seq s)
/-- SCU_CLOSE. -/
def execScuClose (r : Nat) (seq : BitVec 32) (s : State) : Host.Outcome State Fault Refusal := onUnit (r < 4096) (collGo (scuClose r seq s))
/-- SOLVE. -/
def execSolve (r : Nat) (seq : BitVec 32) (s : State) : Host.Outcome State Fault Refusal := onUnit (r < 4096) (collGo (sieSolve r seq s))
/-- SIE_HALO_ARRIVAL. -/
def execSieHaloArrival (r : Nat) (seq : BitVec 32) (s : State) : Host.Outcome State Fault Refusal := onUnit (r < 4096) (collGo (sieArrival r seq s))
/-- SIE_REDUCTION_RESULT. -/
def execSieReductionResult (r : Nat) (seq : BitVec 32) (s : State) : Host.Outcome State Fault Refusal := onUnit (r < 4096) (collGo (sieReduction r seq s))
/-- MORDANT_RESEND. -/
def execMordantResend (g : Nat) (q : BitVec 16) (s : State) : Host.Outcome State Fault Refusal := onUnit (g < 256) (morResend g q.toNat s)
/-- MORDANT_CHILD_TIMEOUT. -/
def execMordantChildTimeout (g : Nat) (q : BitVec 16) (child : BitVec 12) (s : State) : Host.Outcome State Fault Refusal :=
  onUnit (g < 256) (collGo (morChildTimeout g q.toNat child.toNat s))
/-- MORDANT_MEMBER_TIMEOUT. -/
def execMordantMemberTimeout (g : Nat) (q : BitVec 16) (s : State) : Host.Outcome State Fault Refusal :=
  onUnit (g < 256) (collGo (morMemberTimeout g q.toNat s))
/-- READ_RESP. -/
def execReadResp (k : Packet) (s : State) : Host.Outcome State Fault Refusal := .next (collGo (readRespPkt k s))
/-- ACK. -/
def execAck (k : Packet) (s : State) : Host.Outcome State Fault Refusal := .next (collGo (ackPkt k s))
/-- REJECT. -/
def execReject (k : Packet) (s : State) : Host.Outcome State Fault Refusal := .next (collGo (rejectPkt k s))
/-- DEAD_TARGET_TIMEOUT. -/
def execDeadTargetTimeout (id : PairId) (seq : BitVec 16) (s : State) : Host.Outcome State Fault Refusal := onUnit (isPair id) (collGo (deadTarget id seq s))
/-- LAKE_PERFORM. -/
def execLakePerform (die : Nat) (s : State) : Host.Outcome State Fault Refusal := onUnit (die < 8) (collGo (lakePerform die s))

end Sys2Proof.Machine
end

