-- ==== Sys2Proof/Machine/Flash.lean ====
section
/-! DEFINITION. What the SMC reads in the SPI flash: configuration blocks and firmware images (15 R507, R512, R513). -/

namespace Sys2Proof.Machine

/-- BLOCK_ID of a configuration block (15 R512). -/
def cfgBlockId (b : CfgBlock) : Nat := leField b.bytes 0 2

/-- The check of a configuration block passes: CHECK is the CRC-32C over its header, with CHECK read as 0, and then its LENGTH bytes of data (15 R512,
R513; log entry 5). -/
def cfgBlockOk (b : CfgBlock) : Bool :=
  leField b.bytes 4 4 + 32 == b.bytes.length && leField b.bytes 8 4 == crc32c (patchBytes b.bytes 8 (leBytes 4 0))

/-- The block of an ID that is present and whose check passes (15 R513). -/
def goodBlock (s : State) (id : Nat) : Option CfgBlock := s.cfgBlocks.find? (fun b => cfgBlockId b == id && cfgBlockOk b)

/-- The image version of a firmware image, which GLB_ID.FW_VERSION returns while it runs (15 R507). -/
def imageVersion (i : Image) : Nat := leField i.header 0 4
/-- The security version number of a firmware image (15 R507). -/
def imageSvn (i : Image) : Nat := leField i.header 4 2
/-- FW_RED_VERSION of a firmware image (15 R507). -/
def imageRed (i : Image) : Nat := leField i.header 6 2
/-- The SHA-384 of the body that the header of a firmware image gives (15 R507). -/
def imageDigest (i : Image) : List Byte := (i.header.drop 24).take 48

/-- The boot ROM accepts an image, the SVN aside: its signature verifies, its body has the length and the digest of the header, and the stepping is B1
(15 R507). -/
def imageGood (i : Image) : Bool :=
  i.sigOk && leField i.header 16 8 == i.body.length && sha384 i.body == imageDigest i && leField i.header 8 1 == 1

end Sys2Proof.Machine
end

