-- ==== Sys2Proof/Machine/Harts.lean ====
section
/-! DEFINITION. Harts: address translation, faults, loads, stores and atomics to this package's memory and to Vat pages (08 R236 to R240,
R249, R258, 09 R279 to R282, 11 R360). Translation follows the RISC-V Privileged Architecture (log entry 8, PRESUMED). -/

namespace Sys2Proof.Machine

/-- The die of a hart. -/
def hartDie (h : Nat) : Nat := 8 + h / 48

/-! ### Translation -/

/-- The mode that a hart's memory accesses are made in: its own, or the previous one under MPRV. -/
def Hart.eff (x : Hart) : Priv :=
  if x.mode = .m && x.cfld Csr.mstatus 17 1 == 1 then privOf (x.cfld Csr.mstatus 11 2) (x.cfld Csr.mstatus 39 1 == 1) else x.mode

/-- The hart's memory accesses are a guest's. -/
def Hart.effGuest (x : Hart) : Bool := x.eff == .vs || x.eff == .vu

/-- Codes of the faults of an access: page fault, access fault and guest page fault. -/
def pageFault : Acc → Nat
  | .r | .x => 13
  | .w | .a => 15
def accFault : Acc → Nat
  | .r | .x => 5
  | .w | .a => 7
def guestFault : Acc → Nat
  | .r | .x => 21
  | .w | .a => 23

/-- The place of an address after the first stage: for a guest a guest physical address of its partition, whose G-stage tables match the
partition translation; in every other mode a core physical address, which is an Owner address (08 R237, 15 R490 to R492, R562). -/
def hartPlace (s : State) (h : Nat) (acc : Acc) (a : Nat) : Option Place :=
  if !(hartOf s h).effGuest then (xlateOwner s a).map .mem
  else match hartPart s h with
  | some p => if a < 2 ^ 48 then xlate s p acc a else none
  | none => none

/-- The state as if the hart's party, its partition or the Owner, owned every SRAM bank. -/
def ownBanks (s : State) (h : Nat) : State :=
  let all := (if (hartOf s h).effGuest then (hartPart s h).getD 15 else 8) * 0x1111111111111111
  [0, 1, 2, 3].foldl (fun s w => setReg (setReg s (okey (Reg.prtPbankOwner + 8 * w)) all) (okey (Reg.prtPbankOwner + 0x40 + 8 * w)) all) s

/-- An address after the first stage would reach a P-die SRAM bank if the requester owned it; an AMO is judged as a load (08 R258). -/
def bankAt (s : State) (h : Nat) (acc : Acc) (a : Nat) : Bool :=
  let isBank := fun (x : Option Place) => match x with | some (.mem k) => decide (0xE000000000 ≤ k) && decide (k < 0xE008000000) | _ => false
  let c := if acc = .a then .r else acc
  !isBank (hartPlace s h c a) && isBank (hartPlace (ownBanks s h) h c a)

/-- The cause of an address that leads nowhere after the first stage, with the guest physical address of a guest page fault: an access fault for
the Owner's addresses, for a bank that another party owns, and for an AMO to a page that takes none (08 R258, 09 R279). -/
def placeFault (s : State) (h : Nat) (acc : Acc) (a : Nat) : Nat × Nat :=
  if !(hartOf s h).effGuest || bankAt s h acc a || (acc == .a && (hartPlace s h .r a).isSome) then (accFault acc, 0) else (guestFault acc, a)

/-- A leaf of an Sv48 table lets the access through: the permission, with MXR; U for user modes, SUM for the others; the accessed and dirty
bits set; zero low bits in a large page. -/
def leafAllows (x : Hart) (user : Bool) (status : Nat) (acc : Acc) (e size : Nat) : Bool :=
  let r := bitAt e 1 || (bitAt e 3 && x.cfld status 19 1 == 1)
  let ok := match acc with | .r => r | .w => bitAt e 2 | .a => bitAt e 1 && bitAt e 2 | .x => bitAt e 3
  ok && (if user then bitAt e 4 else !bitAt e 4 || x.cfld status 18 1 == 1) && bitAt e 6 && (acc == .r || bitAt e 7) && fieldOf e 10 44 * 4096 % size == 0

/-- The levels of the Sv48 walk that remain: the address after the first stage, or the cause of the fault with the guest physical address of a
guest page fault. A table entry in a bad, fenced or unreachable place is an access fault. -/
def sv48From (s : State) (h : Nat) (user : Bool) (status : Nat) (acc : Acc) (va : Nat) : Nat → Nat → Except (Nat × Nat) Nat
  | 0, _ => .error (pageFault acc, 0)
  | lvl + 1, table =>
    let at_ := table + 8 * fieldOf va (12 + 9 * lvl) 9
    match hartPlace s h .r at_ with
    | none => .error (if (placeFault s h .r at_).1 = 21 then (guestFault acc, at_) else (accFault acc, 0))
    | some (.vat _ _ _) => .error (accFault acc, 0)
    | some (.mem k) =>
      if isBad s k 8 || memFenced s k || wayOff s (some (hartDie h)) k then .error (accFault acc, 0)
      else
        let e := leNat (getBytes s k 8)
        let size := 2 ^ (12 + 9 * lvl)
        if !bitAt e 0 || (bitAt e 2 && !bitAt e 1) || fieldOf e 54 10 != 0 then .error (pageFault acc, 0)
        else if bitAt e 1 || bitAt e 3 then
          if leafAllows (hartOf s h) user status acc e size then .ok (fieldOf e 10 44 * 4096 + va % size) else .error (pageFault acc, 0)
        else sv48From s h user status acc va lvl (fieldOf e 10 44 * 4096)

/-- The first stage: machine mode and a bare satp translate nothing; MODE 9 walks Sv48 (08 R236). -/
def stageOne (s : State) (h : Nat) (acc : Acc) (va : Nat) : Except (Nat × Nat) Nat :=
  let x := hartOf s h
  let satp := x.csrw (if x.effGuest then Csr.vsatp else Csr.satp)
  if x.eff = .m || fieldOf satp 60 4 = 0 then .ok va
  else if va / 2 ^ 47 ≠ 0 ∧ va / 2 ^ 47 ≠ 2 ^ 17 - 1 then .error (pageFault acc, 0)
  else sv48From s h (x.eff == .u || x.eff == .vu) (if x.effGuest then Csr.vsstatus else Csr.mstatus) acc va 4 (fieldOf satp 0 44 * 4096)

/-- The place of a hart's virtual address. -/
def hartXlate (s : State) (h : Nat) (acc : Acc) (va : Nat) : Option Place :=
  match stageOne s h acc (va % 2 ^ 64) with
  | .ok a => hartPlace s h acc a
  | .error _ => none

/-- The byte of the store a hart's address names. -/
def hartKey (s : State) (h : Nat) (acc : Acc) (va : Nat) : Option Nat :=
  match hartXlate s h acc va with
  | some (.mem k) => some k
  | _ => none

/-- A key in P-die SRAM. -/
def isSram (k : Nat) : Bool := decide (0xE000000000 ≤ k) && decide (k < 0xE008000000)

/-! ### Faults -/

/-- The exception of a failed access at an address, with the guest physical address of a guest page fault: what its translation gives, or an
access fault for a place that may not be accessed so (08 R249, R258). -/
def faultCause (s : State) (h : Nat) (acc : Acc) (va : Nat) : Nat × Nat :=
  match stageOne s h acc (va % 2 ^ 64) with
  | .error c => c
  | .ok a => if (hartPlace s h acc a).isNone then placeFault s h acc a else (accFault acc, 0)

/-- The address names an SRAM bank that another party owns (08 R258). -/
def bankRefused (s : State) (h : Nat) (acc : Acc) (va : Nat) : Bool :=
  match stageOne s h acc (va % 2 ^ 64) with
  | .ok a => bankAt s h acc a
  | .error _ => false

/-- The hart with the mark that a trap's address is a guest's virtual one. -/
def Hart.markGva (x : Hart) : Hart :=
  match x.mode with
  | .m => x.setFlds Csr.mstatus [(38, 1, 1)]
  | .hs => x.setFlds Csr.hstatus [(6, 1, 1)]
  | _ => x

/-- A hart's access, judged in state `g`, fails at byte address `at_`: a record for an SRAM bank it does not own, to the ring of its party, and the trap,
whose value register holds `va` (08 R250, R258). -/
def faultAs (g s : State) (h : Nat) (acc : Acc) (va at_ : Nat) : State :=
  let guest := (hartOf g h).effGuest
  let s1 := if bankRefused g h acc at_ then
    report s 0x04 2 9 (unitField 9 h) (if guest then hartPart s h else none) at_ (leBytes 8 at_) else s
  let c := faultCause g h acc at_
  let y := (hartOf s1 h).trapped c.1 (BitVec.ofNat 64 va) c.2
  setHart s1 h (if guest then y.markGva else y)

/-- A hart's access fails at byte address `at_`. -/
def accessFault (s : State) (h : Nat) (acc : Acc) (va at_ : Nat) : State := faultAs s s h acc va at_

/-- The first address of a range at which an access through `tr` fails. -/
def failingAt (s : State) (tr : Nat → Option Nat) (acc : Acc) (va n : Nat) : Nat :=
  (((sectorsOf va n).find? (fun x => match tr x.1 with
    | none => true
    | some k => memFenced s k || (isBad s k x.2 && (acc == .r || decide (x.2 < 32))))).map (·.1)).getD va

/-! ### Accesses -/

/-- The hart may act: its core runs, its cluster has not been withdrawn, and it waits for no answer (08 R234). -/
def hartReady (s : State) (h : Nat) : Bool :=
  !(hartOf s h).stopped && (hartOf s h).waiting.isNone && !fenced s 9 h && domainOn s (2 + h / 48) &&
    !s.clusterGone.contains (12 * (h / 48) + h % 48 / 4)

/-- New value of a core AMO: the Lake operations, and the bitwise ones of RV64A as codes 12 AND, 13 OR and 14 XOR (08 R236). -/
def coreAmo (op n old v cmp : Nat) : Option Nat :=
  if n ≠ 4 && n ≠ 8 then lakeOp op n old v cmp
  else match op with
  | 12 => some (old &&& v)
  | 13 => some (old ||| v)
  | 14 => some (old ^^^ v)
  | _ => lakeOp op n old v cmp

/-- The hart's last access returned a value. -/
def hartReturns (s : State) (h v : Nat) : State := setHart s h { hartOf s h with reply := BitVec.ofNat 128 v }

/-- A value reaches its destination, and the instruction that asked for it ends (08 R247). -/
def hartGive (s : State) (h : Nat) (dest : HartDest) (v : Nat) : State :=
  match dest with
  | .value => hartReturns s h v
  | _ => setHart s h (((hartOf s h).put dest v).skip dest.len)

/-- A store of an instruction is done, and the instruction ends. -/
def hartDone (s : State) (h : Nat) (dest : HartDest) : State :=
  match dest with
  | .value => s
  | _ => setHart s h ((hartOf s h).skip dest.len)

/-- A load's bytes reach the hart. -/
def hartGot (s : State) (h : Nat) (dest : HartDest) (bs : List Byte) : State := hartGive s h dest (leNat bs)

/-- An access cut at the 4 KiB boundary that it crosses, as (address, length) parts, each within one page (08 R247). -/
def pageParts (a n : Nat) : List (Nat × Nat) :=
  let m := min n (4096 - a % 4096)
  if m < n then [(a, m), ((a + m) % 2 ^ 64, n - m)] else [(a, n)]

/-- The offset of a part within the access at `a`. -/
def partOff (a x : Nat) : Nat := (x + 2 ^ 64 - a) % 2 ^ 64

/-- The parts of an access that lie on Vat pages, each with the offset of the part, its length, and the node, offset and PRIO of its page. -/
def vatParts (s : State) (h : Nat) (acc : Acc) (a n : Nat) : List (Nat × Nat × Nat × Nat × Bool) :=
  (pageParts a n).filterMap (fun x => match hartXlate s h acc x.1 with
    | some (.vat node off prio) => some (partOff a x.1, x.2, node, off, prio)
    | _ => none)

/-- The parts of an access that lie on no Vat page. -/
def localParts (s : State) (h : Nat) (acc : Acc) (a n : Nat) : List (Nat × Nat) :=
  (pageParts a n).filter (fun x => match hartXlate s h acc x.1 with | some (.vat _ _ _) => false | _ => true)

/-- The F-die of a hart's Vat requests takes them: its domain is on and does not switch (02 R51). -/
def fdieOpen (s : State) (h : Nat) : Bool := domainOpen s (4 + h / 48)

/-- Vat requests of a hart for parts of an access at `a` (11 R360, R366). -/
def hartAsk (s : State) (h a op : Nat) (parts : List (Nat × Nat × Nat × Nat × Bool)) (data : Nat → Nat → List Byte) : State :=
  match hartPart s h with
  | none => s
  | some p => { s with vatQueue := s.vatQueue ++ parts.map (fun x =>
      ⟨p, .hart h a x.1, h / 48, x.2.2.1, x.2.2.2.1, x.2.2.2.2, op, x.2.1, data x.1 x.2.1⟩) }

/-- The hart waits for the answers of its access at `a`, past the instruction that asked for it; a QLD has made XS Dirty. -/
def hartWaits (s : State) (h a : Nat) (dest : HartDest) (left : Nat) (bytes : List Byte) : State :=
  let x := hartOf s h
  let y := match dest with
    | .value => x
    | .q _ => x.dirty.next
    | _ => x.skip dest.len
  setHart s h { y with waiting := some ⟨dest, left, a, bytes⟩ }

/-- A hart's read through `tr`: a domain that is off answers with all-ones bytes, noted by the address (02 R51). -/
def readOnes (s : State) (h : Nat) (tr : Nat → Option Nat) (a n : Nat) : Except MemErr (List Byte × List Nat) :=
  match readVia s tr a n (some (hartDie h)) with
  | .ok bs => .ok (bs, [])
  | .error (.off x _) => .ok (List.replicate n 0xFF#8, [x])
  | .error e => .error e

/-- A hart's write through `tr` fails; one to a domain that is off does not, and is dropped (02 R51). -/
def writeFails (s : State) (h : Nat) (tr : Nat → Option Nat) (a n : Nat) : Bool :=
  match writeError s tr (some (hartDie h)) (sectorsOf a n) with
  | none => false
  | some (.off _ _) => false
  | some _ => true

/-- The state `s` after a hart's write through `tr`, judged in state `s0`, that does not fail. -/
def writeOrDrop (s0 : State) (h : Nat) (tr : Nat → Option Nat) (s : State) (a : Nat) (bs : List Byte) : State :=
  match writeError s0 tr (some (hartDie h)) (sectorsOf a bs.length) with
  | some e => offRecord s e.at_
  | none => putPieces tr (sectorsOf a bs.length) bs s

/-- A load that does not find all its bytes in this package's memory at once: a part that fails traps; a part on a Vat page becomes a request, for
whose answer the hart waits; a domain that is off answers with all-ones bytes and a record (02 R51, 08 R247, 11 R360). -/
def hartLoadParts (s : State) (h a n : Nat) (dest : HartDest) : State :=
  let tr := hartKey s h .r
  match (localParts s h .r a n).find? (fun y => !(readOnes s h tr y.1 y.2).isOk) with
  | some y =>
    let x := failingAt s tr .r y.1 y.2
    accessFault s h .r x x
  | none =>
    let got := (localParts s h .r a n).map (fun y => (partOff a y.1, match readOnes s h tr y.1 y.2 with | .ok b => b | .error _ => ([], [])))
    let bs := got.foldl (fun bs g => patchBytes bs g.1 g.2.1) (List.replicate n 0#8)
    let s1 := (got.flatMap (·.2.2)).foldl offRecord s
    match vatParts s h .r a n with
    | [] => hartGot s1 h dest bs
    | vs =>
      if fdieOpen s h then hartWaits (hartAsk s1 h a 0 vs (fun _ _ => [])) h a dest vs.length bs
      else hartGot (offRecord s1 a) h dest (List.replicate n 0xFF#8)

/-- A load of `n` bytes into its destination (08 R247, 11 R360). -/
def hartLoad (s : State) (h a n : Nat) (dest : HartDest) : State :=
  match readVia s (hartKey s h .r) a n (some (hartDie h)) with
  | .ok bs => hartGot s h dest bs
  | .error _ => hartLoadParts s h a n dest

/-- A store that this package's memory does not take whole: every part is checked before any is written or sent; a domain that is off drops its
part with a record (02 R51, 08 R247, 11 R360). -/
def hartStoreParts (s : State) (h a : Nat) (bs : List Byte) : Except State State :=
  let tr := hartKey s h .w
  match (localParts s h .w a bs.length).find? (fun y => writeFails s h tr y.1 y.2) with
  | some y =>
    let x := failingAt s tr .w y.1 y.2
    .error (accessFault s h .w x x)
  | none =>
    let s1 := (localParts s h .w a bs.length).foldl (fun s1 y => writeOrDrop s h tr s1 y.1 ((bs.drop (partOff a y.1)).take y.2)) s
    match vatParts s h .w a bs.length with
    | [] => .ok s1
    | vs => if fdieOpen s h then .ok (hartAsk s1 h a 1 vs (fun at_ m => (bs.drop at_).take m)) else .ok (offRecord s1 a)

/-- A store of bytes: the state after it, or after the trap (08 R247, 11 R360). -/
def hartStore (s : State) (h a : Nat) (bs : List Byte) : Except State State :=
  match writeVia s (hartKey s h .w) a bs (some (hartDie h)) with
  | .ok s1 => .ok s1
  | .error _ => hartStoreParts s h a bs

/-- A single-place access of an AMO, LR or SC: aligned, in the store and readable. -/
def lineKey (s : State) (h size a : Nat) (acc : Acc) : Option Nat :=
  if a % size != 0 then none
  else match hartKey s h acc a with
  | some k => if isBad s k size || memFenced s k then none else some k
  | none => none

/-- An AMO: at the home Lake of an HBM address, where it invalidates every core's copy of the line, or a Vat request; an access fault for a
misaligned one or one to any other memory (09 R279 to R282, 11 R360). -/
def hartAmo (s : State) (h code : Nat) (dest : HartDest) (a size v cmp : Nat) : State :=
  match (if a % size = 0 then hartXlate s h .a a else none) with
  | some (.vat node off prio) =>
    if code < 2 || 15 < code then illegal s h
    else if !fdieOpen s h then hartGive (offRecord s a) h dest (2 ^ (8 * size) - 1)
    else hartWaits (hartAsk s h a code [(0, size, node, off, prio)] (fun _ _ => leBytes size v ++ if code = 11 then leBytes size cmp else []))
      h a dest 1 (List.replicate size 0#8)
  | _ =>
    match lineKey s h size a .a with
    | none => accessFault s h .a a a
    | some k =>
      if wayOff s (some (hartDie h)) k then hartGive (offRecord s a) h dest (2 ^ (8 * size) - 1)
      else
        let old := leNat (getBytes s k size)
        match coreAmo code size old v cmp with
        | none => illegal s h
        | some w => if isHbm k then hartGive (putAtomic s k (leBytes size w)) h dest old else accessFault s h .a a a

/-- An LR or SC; one on a Vat page faults (09 R282, 11 R360). -/
def hartLrSc (s : State) (h : Nat) (sc : Bool) (dest : HartDest) (a size v : Nat) : State :=
  let acc : Acc := if sc then .w else .r
  match lineKey s h size a acc with
  | none => accessFault s h acc a a
  | some k =>
    let s1 := { s with resvs := s.resvs.filter (fun x => x.1 != h) }
    if wayOff s (some (hartDie h)) k then hartGive (offRecord s1 a) h dest (if sc then 1 else 2 ^ (8 * size) - 1)
    else if !sc then { hartGive s h dest (leNat (getBytes s k size)) with resvs := s1.resvs ++ [(h, k / 64)] }
    else if s.resvs.contains (h, k / 64) then hartGive (putBytes s1 k (leBytes size v)) h dest 0
    else hartGive s1 h dest 1

/-- A hart's operation, its value for the destination (08 R236, R239, 09 R279 to R282). Scalar instructions are carried out over these (Scalar.lean). -/
def hartDo (h : Nat) (op : HartOp) (dest : HartDest) (addr : Word) (size : Nat) (data cmp : BitVec 128) (s : State) : State :=
  let a := addr.toNat
  let v := data.toNat % 2 ^ (8 * size)
  let sized := fun (t : State) => if [1, 2, 4, 8, 16].contains size then t else s
  if !hartReady s h then s
  else match op with
  | .load => sized (hartLoad s h a size dest)
  | .store => sized (match hartStore s h a (leBytes size v) with | .ok t => hartDone t h dest | .error t => t)
  | .amo code => sized (hartAmo s h code dest a size v (cmp.toNat % 2 ^ (8 * size)))
  | .lr => sized (hartLrSc s h false dest a size v)
  | .sc => sized (hartLrSc s h true dest a size v)
  | .csr n how => hartCsr s h n how data.toNat
  | .mret => hartSystem s h .mret
  | .sret => hartSystem s h .sret
  | .hfence => hartSystem s h .hfence
  | .scalar _ => s

/-- The hart exists. -/
def isHart (h : Nat) : Bool := decide (h < 96)

end Sys2Proof.Machine
end

