-- ==== Sys2Proof/Machine/LakeHbm.lean ====
section
/-! DEFINITION. Bank handover and the measurement, patrol scrub, row repair, the stack test port, Lake spare ways and the
initialisation of memory (08 R258 to R261, 09 R277 to R301, 15 R500, 16 R561). -/

namespace Sys2Proof.Machine

/-- The action bit of a register reads `g` and its RESULT field of `n` bits at `lo` reads `v`. -/
def setResult (s : State) (off bit g lo n v : Nat) : State := setRfld (setRfld s (okey off) bit 1 g) (okey off) lo n v

/-! ### The measurement -/

/-- The registers marked C, as (offset, stride, instances, words each), by offset (15 R500, 17 Tables 2 to 5). -/
def measuredRegs : List (Nat × Nat × Nat × Nat) := [
  (Reg.hifPortCfg, 8, 4, 1), (Reg.prtPartCfg, 64, 8, 3), (Reg.prtTgroups, 32, 8, 3), (Reg.prtRegions, 8, 8, 1),
  (Reg.scuQuota, 8, 8, 1), (Reg.lakWays, 8, 8, 1), (Reg.hmcRegion, 16, 64, 2), (Reg.fabId, 8, 1, 1), (Reg.fabVatCfg, 8, 1, 1),
  (Reg.fabJob, 32, 64, 4), (Reg.fabPartJob, 8, 8, 1), (Reg.morAdmit, 16, 8, 2), (Reg.morGroup, 32, 256, 4), (Reg.ethQpQuota, 8, 8, 1)]

/-- The offsets of the words in the image (15 R500). -/
def measuredWords : List Nat :=
  measuredRegs.flatMap (fun r => (List.range r.2.2.1).flatMap (fun i => (List.range r.2.2.2).map (fun w => r.1 + r.2.1 * i + 8 * w))) ++
    (List.range 2).flatMap (fun d => (List.range 4).map (fun w => Reg.prtPbankOwner + 0x40 * d + 8 * w))

/-- A word of the image: the live value, with action bits 0 (15 R500). -/
def measuredWord (s : State) (off : Nat) : Nat :=
  reg s (okey off) &&& (2 ^ 64 - 1 - (match regRow off with | some r => r.w1s | none => 0))

/-- The image (15 R500). -/
def measureImage (s : State) : List Byte := measuredWords.flatMap (fun off => leBytes 8 (measuredWord s off))

/-- PRT_MEAS as 48 bytes. -/
def measBytes (s : State) : List Byte := (List.range 6).flatMap (fun w => leBytes 8 (reg s (okey (Reg.prtMeas + 8 * w))))

/-- PRT_MEAS replaced. -/
def setMeas (s : State) (bs : List Byte) : State :=
  (List.range 6).foldl (fun s w => setReg s (okey (Reg.prtMeas + 8 * w)) (leField bs (8 * w) 8)) s

/-- PRT_MEAS is extended (15 R500). -/
def extendMeas (s : State) : State :=
  setMeas s (sha384 (measBytes s ++ sha384 (measureImage s) ++ leBytes 2 (ofld s Reg.prtEpoch 0 16)))

/-- PRT_EPOCH increments (15 R495, 08 R259). -/
def bumpPrtEpoch (s : State) : State := setRfld s (okey Reg.prtEpoch) 0 16 (ofld s Reg.prtEpoch 0 16 + 1)

/-! ### Bank handover -/

/-- A P-die's handover. -/
def handoverOf (s : State) (d : Nat) : Option Handover := sget (fun _ => none) s.handovers d

/-- The state with a P-die's handover replaced. -/
def setHandover (s : State) (d : Nat) (h : Option Handover) : State := { s with handovers := sset (fun _ => none) s.handovers d h }

/-- A protection commit or a bank handover is in progress (15 R497). -/
def grantBusy (s : State) : Bool := ofld s Reg.prtCommit 0 1 == 1 || (handoverOf s 0).isSome || (handoverOf s 1).isSome

/-- A bank's owner recorded (08 R259). -/
def setBankOwner (s : State) (d b o : Nat) : State :=
  setRfld s (okey (Reg.prtPbankOwner + 0x40 * d + 8 * (b / 16))) (4 * (b % 16)) 4 o

/-- A byte range, translated, touches the banks `first` to `last` of P-die `d`; it is looked at once in each 64 KiB page. -/
def touchesBanks (tr : Nat → Option Nat) (a n d first last : Nat) : Bool :=
  (List.range ((a % 0x10000 + n + 0xFFFF) / 0x10000)).any (fun i =>
    match tr (if i = 0 then a else a / 0x10000 * 0x10000 + 0x10000 * i) with
    | some k => decide (sramKey d (first * 0x100000) ≤ k) && decide (k < sramKey d ((last + 1) * 0x100000))
    | none => false)

/-- An enabled ring, completion ring or error ring lies in a bank of the range (08 R260). -/
def ringInBanks (s : State) (d first last : Nat) : Bool :=
  s.rings.any (fun e => e.2.enabled && (match ringPart s e.1 with
    | none => false
    | some p =>
      let n := ringEntries s e.1
      touchesBanks (xlateMem s p .r) (ofld s (Reg.rngSqBase + 64 * e.1) 12 36 * 4096) (64 * n) d first last ||
        touchesBanks (xlateMem s p .w) (ofld s (Reg.rngCqBase + 64 * e.1) 12 36 * 4096) (32 * n) d first last)) ||
  (List.range 9).any (fun w =>
    let cfg := reg s (pkey w (Reg.errRing + 8))
    bitAt cfg 9 && touchesBanks (if w = 8 then xlateOwner s else xlateMem s w .w) (rfld s (pkey w Reg.errRing) 6 42 * 64)
      (64 * 2 ^ fieldOf cfg 0 5) d first last)

/-- RESULT of a handover request, 1 where it starts (08 R260). -/
def handoverResult (s : State) (d first count owner : Nat) : Nat :=
  if 60 ≤ first ∨ owner = 9 ∨ (10 ≤ owner ∧ owner ≤ 14) then 2
  else if 59 < first + count then 5
  else if ringInBanks s d first (first + count) then 3
  else if grantBusy s then 4
  else 1

/-- PBANK_HANDOVER: the range is refused, or its banks answer no one and start to drain (08 R259, R260). -/
def pbankHandover (view d : Nat) (v : Word) (s : State) : State :=
  let off := Reg.prtPbankCtrl + 0x40 * d
  if !bitAt v.toNat 24 || !alive s then s
  else match actionWrite s view off v with
  | none => s
  | some s1 =>
    let first := fieldOf v.toNat 0 6
    let last := first + fieldOf v.toNat 8 6
    let res := handoverResult s d first (fieldOf v.toNat 8 6) (fieldOf v.toNat 16 4)
    if res = 1 then
      let banks := (List.range (last + 1 - first)).map (· + first)
      setHandover (setResult (banks.foldl (fun s b => setBankOwner s d b 15) s1) off 24 1 28 3 1) d
        (some ⟨first, last, fieldOf v.toNat 16 4, banks, []⟩)
    else setResult s1 off 24 0 28 3 res

/-- PBANK_DRAIN_DONE: a bank starts to zero, at most 4 of one P-die at a time (08 R259). -/
def pbankDrainDone (d b : Nat) (s : State) : State :=
  match handoverOf s d with
  | none => s
  | some h =>
    if h.draining.contains b && decide (h.zeroing.length < 4) && alive s then
      setHandover s d (some { h with draining := h.draining.filter (· != b), zeroing := h.zeroing ++ [b] })
    else s

/-- PBANK_ZERO_DONE: a bank is zero and has its new owner; after the last bank the epoch and the measurement advance and
RESULT is 0 (08 R259). -/
def pbankZeroDone (d b : Nat) (s : State) : State :=
  match handoverOf s d with
  | none => s
  | some h =>
    if !h.zeroing.contains b || !alive s then s
    else
      let h1 := { h with zeroing := h.zeroing.filter (· != b) }
      let s1 := setBankOwner (zeroRange s (sramKey d (b * 0x100000)) (sramKey d ((b + 1) * 0x100000))) d b h.owner
      if h1.draining.isEmpty && h1.zeroing.isEmpty then
        extendMeas (bumpPrtEpoch (setHandover (setResult s1 (Reg.prtPbankCtrl + 0x40 * d) 24 0 28 3 0) d none))
      else setHandover s1 d (some h1)

/-! ### Patrol scrub -/

/-- A stack is trained and initialised. -/
def stackReady (s : State) (k : Nat) : Bool := ofld s (Reg.hmcStackStatus + 8 * k) 0 1 == 1

/-- Sectors of a pseudo-channel (09 R287). -/
def pcSectors : Nat := 0x1800000

/-- The next sector to patrol of a pseudo-channel, and the count of full passes (09 R295). -/
def patrolNext (s : State) (k : Nat) : State :=
  let n := sget (fun _ => 0) s.patrolAt k + 1
  if n < pcSectors then { s with patrolAt := sset (fun _ => 0) s.patrolAt k n }
  else
    let s1 := { s with
      patrolAt := sset (fun _ => 0) s.patrolAt k 0
      patrolDone := if s.patrolDone.contains k then s.patrolDone else s.patrolDone ++ [k] }
    if (List.range 512).all (fun j => !stackReady s1 (j / 32) || s1.patrolDone.contains j) then
      setRfld { s1 with patrolDone := [] } (okey Reg.hmcScrub) 16 16 (satNat 16 (ofld s1 Reg.hmcScrub 16 16 + 1))
    else s1

/-- PATROL_READ: one sector is read and checked; a corrected sector is rewritten, an uncorrectable one is marked bad, and
either is recorded (09 R291 to R295). -/
def patrolRead (stack pc : Nat) (ecc : Ecc) (s : State) : State :=
  if ofld s Reg.hmcScrub 0 16 = 0 || !stackReady s stack || !alive s then s
  else
    let k := stack * 32 + pc
    let byte := 32 * sget (fun _ => 0) s.patrolAt k
    let sec := hbmKey stack pc byte / 32
    let st := Reg.hmcStackStatus + 8 * stack
    let s1 := match ecc with
      | .good => s
      | .corrected =>
        report (setRfld s (okey st) 48 16 (satNat 16 (ofld s st 48 16 + 1))) 0x02 1 8 (unitField 8 stack) none 0 (eccDetail stack pc byte)
      | .uncorrectable =>
        report { s with bad := if s.bad.contains sec then s.bad else s.bad ++ [sec] } 0x02 2 8 (unitField 8 stack) none 0
          (eccDetail stack pc byte)
    patrolNext s1 k

/-! ### Row repair -/

/-- A test-port operation runs on a stack. -/
def testRuns (s : State) (stack : Nat) : Bool := match s.testPort with | some (k, _) => k == stack | none => false

/-- RESULT of a row repair request, 1 where it starts (09 R300). -/
def repairResult (s : State) (stack pc bank row : Nat) : Nat :=
  if 2 ≤ stage s then 2
  else if bank < 32 ∧ rowsLeft s (bankGroup stack pc bank) = 0 then 3
  else if 32 ≤ bank ∨ 24576 ≤ row then 4
  else if testRuns s stack then 5
  else 1

/-- HMC_REPAIR; a row that cannot be repaired for want of a replacement shows in the health level (09 R298, R300, 14 R467). -/
def hmcRepair (view : Nat) (v : Word) (s : State) : State :=
  let w := v.toNat
  if !bitAt w 52 || !alive s then s
  else match actionWrite s view Reg.hmcRepairCtrl v with
  | none => s
  | some s1 =>
    let res := repairResult s (fieldOf w 0 4) (fieldOf w 8 5) (fieldOf w 16 6) (fieldOf w 24 18)
    if res = 1 then
      { setResult s1 Reg.hmcRepairCtrl 52 1 56 3 1 with repair := some ⟨fieldOf w 0 4, fieldOf w 8 5, fieldOf w 16 6, fieldOf w 24 18, bitAt w 48⟩ }
    else
      let s2 := setResult s1 Reg.hmcRepairCtrl 52 0 56 3 res
      if res = 3 then healthRefresh { s2 with rowFailed := true } else s2

/-- HMC_REPAIR_DONE: the row's replacement holds its data, or the row cannot be repaired, which a HEALTH record reports (09
R298 to R300, 14 R467; log entry 12). -/
def hmcRepairDone (repaired : Bool) (s : State) : State :=
  match s.repair with
  | none => s
  | some w =>
    let s0 := { s with repair := none }
    let g := bankGroup w.stack w.pc w.bank
    let st := Reg.hmcStackStatus + 8 * w.stack
    if repaired then
      let s1 := { setRfld s0 (okey st) 16 16 (ofld s0 st 16 16 + 1) with
        repairUsed := sset (fun _ => 0) s0.repairUsed g (sget (fun _ => 0) s0.repairUsed g + 1)
        hardRepairs := if w.hard then s0.hardRepairs ++ [(w.stack, w.pc, w.bank, w.row)] else s0.hardRepairs
        freeCount := s0.freeCount + 1 }
      healthRefresh (spareRecord (setResult s1 Reg.hmcRepairCtrl 52 0 56 3 0) 5 w.row w.row
        (fieldOf (Config.freeValue s0.freeCount).toNat 0 16) (rowsLeft s1 g) 8 (unitField 8 w.stack) none)
    else healthRefresh { setResult s0 Reg.hmcRepairCtrl 52 0 56 3 3 with rowFailed := true }

/-! ### The stack test port -/

/-- A valid region has a footprint in a stack (09 R288). -/
def stackUsed (s : State) (stack : Nat) : Bool :=
  (List.range 64).any (fun n =>
    let w := regionWord s n
    let f := modeFirstStack (fieldOf w 1 3) (fieldOf w 8 4)
    bitAt w 0 && decide (f ≤ stack) && decide (stack < f + modeStacks (fieldOf w 1 3)))

/-- RESULT of a test-port request, 1 where it starts (09 HMC_1500_CTRL). -/
def testResult (s : State) (stack op : Nat) : Nat :=
  if 4 < op then 2 else if op = 4 ∧ stackUsed s stack then 3 else if !stackReady s stack then 4 else 1

/-- A write of GO to HMC_1500_CTRL with an operation code that `ops` allows (09 R301). -/
def testStart (ops : Nat → Bool) (view : Nat) (v : Word) (s : State) : State :=
  let w := v.toNat
  let op := fieldOf w 8 4
  if !bitAt w 16 || !ops op || !alive s then s
  else match actionWrite s view Reg.hmc1500Ctrl v with
  | none => s
  | some s1 =>
    let res := testResult s (fieldOf w 0 4) op
    if res = 1 then { setResult s1 Reg.hmc1500Ctrl 16 1 20 3 1 with testPort := some (fieldOf w 0 4, op) }
    else setResult s1 Reg.hmc1500Ctrl 16 0 20 3 res

/-- The bytes of a stack zeroed, and its bad marks gone (16 R561; after a self-test log entry 24). -/
def zeroStack (s : State) (k : Nat) : State :=
  let s1 := zeroRange s (hbmKey k 0 0) (hbmKey (k + 1) 0 0)
  { s1 with bad := s1.bad.filter (fun x => decide (x < hbmKey k 0 0 / 32) || decide (hbmKey (k + 1) 0 0 / 32 ≤ x)) }

/-- What operation 3 returns: for bank group i of the stack, in 4 bits from bit 4 i, the replacement rows left, at most 15, in the pseudo-channel
that `Config.repairView` picks; the spec gives one value a bank group and not which of the 32 pseudo-channels it is of (log entry 12). -/
def repairData (s : State) (k : Nat) : Nat :=
  (List.range 8).foldl (fun w i => w + min 15 (rowsLeft s (bankGroup k (Config.repairView k % 32) (4 * i))) * 16 ^ i) 0

/-- The on-die ECC log of a stack: the errors counted and the last failing row (09 Table 7). -/
def eccLogOf (s : State) (k : Nat) : Nat × Nat := sget (fun _ => (0, 0)) s.eccLog k

/-- TEST_PORT_DONE: HMC_1500_DATA holds the operation's data: the log and the repair resources that the model keeps, or the word that the stack gives for its
identity, its temperature or its self-test (09 Table 7). -/
def testPortDone (reading : Word) (s : State) : State :=
  match s.testPort with
  | none => s
  | some (k, op) =>
    let s1 := setResult { s with testPort := none } Reg.hmc1500Ctrl 16 0 20 3 0
    let v := match op with
      | 1 => reading.toNat % 256
      | 2 => (eccLogOf s k).1 % 2 ^ 32 + (eccLogOf s k).2 % 2 ^ 32 * 2 ^ 32
      | 3 => repairData s k
      | _ => reading.toNat
    let s2 := setReg s1 (okey Reg.hmc1500Data) v
    match op with
    | 1 => setRfld s2 (okey (Reg.hmcStackStatus + 8 * k)) 8 8 v
    | 2 => { s2 with eccLog := sset (fun _ => (0, 0)) s2.eccLog k (0, 0) }
    | 4 => zeroStack s2 k
    | _ => s2

/-! ### Lake spare ways -/

/-- The partition that holds a Lake way on an A-die (09 R274). -/
def wayPart (s : State) (die way : Nat) : Option Nat :=
  (List.range 8).find? (fun p => partValid s p && bitAt (ofld s (Reg.lakWays + 8 * p) 0 16) way && (partDies s p).contains die)

/-- A way array is withdrawn: its set group runs with one way fewer (09 R278). -/
def wayWithdraw (s : State) (die array : Nat) : State :=
  let k := Reg.lakWayStatus + 8 * die
  let s1 := setRfld { s with wayGone := s.wayGone ++ [(die, array)] } (okey k) 16 8 (satNat 8 (ofld s k 16 8 + 1))
  healthRefresh (withdrawnRecord (spareEnd s1 4 die array) 4 array 0 (die * 4096) (wayPart s die (array % 16)))

/-- LAKE_WAY_SPARE_IN: a worn array starts being copied to its set group's spare, or is withdrawn where the spare is used (09
R277, R278, 14 R463). -/
def lakeWaySpareIn (die array : Nat) (s : State) : State :=
  if !withdrawMay s 4 die array || s.wayGone.contains (die, array) || (sget (fun _ => none) s.wayMove die).isSome then s
  else if bitAt (ofld s (Reg.lakWayStatus + 8 * die) 0 16) (array / 16) then wayWithdraw s die array
  else if !spareMay s 4 die array then s
  else { s with wayMove := sset (fun _ => none) s.wayMove die (some array) }

/-- LAKE_WAY_COPY_DONE: the spare replaces the array (09 R277). -/
def lakeWayCopyDone (die array : Nat) (s : State) : State :=
  if sget (fun _ => none) s.wayMove die ≠ some array then s
  else
    let k := Reg.lakWayStatus + 8 * die
    let s1 := setRfld { s with wayMove := sset (fun _ => none) s.wayMove die none } (okey k) (array / 16) 1 1
    healthRefresh (spareRecord (spareEnd s1 4 die array) 4 array (array / 16 * 17 + array % 16) (array / 16 * 17 + 16)
      (16 - popcount 16 (ofld s1 k 0 16)) 0 (die * 4096) (wayPart s die (array % 16)))

/-! ### Memory initialisation -/

/-- The memory of a power domain that came on, initialised (16 R561): an A-die uncore's two stacks, a P-die's SRAM, a tile
array's scratchpads and accumulator sets; a Lake has no content of its own here. -/
def initDomain (s : State) (d : Nat) : State :=
  if 14 ≤ d ∧ d < 22 then
    let k := 2 * (d - 14)
    [k, k + 1].foldl (fun s j => setRfld (zeroStack s j) (okey (Reg.hmcStackStatus + 8 * j)) 0 1 1) s
  else if d < 2 then zeroRange s (sramKey d 0) (sramKey (d + 1) 0)
  else if 22 ≤ d then
    let k := d - 22
    let s1 := zeroRange s (spKey (168 * k) 0) (spKey (168 * (k + 1)) 0)
    { s1 with tiles := sclear s1.tiles (168 * k) (168 * (k + 1)) }
  else s

/-- MEMORY_INIT_DONE: the domain's memory may be granted; at boot the last domain ends the boot's memory phase (16 R527, R561). -/
def memoryInitDone (d : Nat) (s : State) : State :=
  if !s.initing.contains d || !alive s then s
  else
    let s1 := initDomain { s with initing := s.initing.filter (· != d) } d
    if s1.boot == .memInit && s1.initing.isEmpty then { s1 with boot := .done } else s1

/-! ### Meanings -/

/-- PBANK_HANDOVER. -/
def execPbankHandover (view d : Nat) (v : Word) (s : State) : Host.Outcome State Fault Refusal := onUnit (d < 2) (pbankHandover view d v s)
/-- PBANK_DRAIN_DONE. -/
def execPbankDrainDone (d b : Nat) (s : State) : Host.Outcome State Fault Refusal := onUnit (d < 2 && b < 64) (pbankDrainDone d b s)
/-- PATROL_READ. -/
def execPatrolRead (stack pc : Nat) (ecc : Ecc) (s : State) : Host.Outcome State Fault Refusal := onUnit (stack < 16 && pc < 32) (patrolRead stack pc ecc s)
/-- HMC_REPAIR_DONE. -/
def execHmcRepairDone (repaired : Bool) (s : State) : Host.Outcome State Fault Refusal := .next (hmcRepairDone repaired s)
/-- READ_DEVICE_IDENTITY, and the refusal of an undefined operation code. -/
def execReadDeviceIdentity (view : Nat) (v : Word) (s : State) : Host.Outcome State Fault Refusal := .next (testStart (fun op => op == 0 || decide (4 < op)) view v s)
/-- READ_TEMPERATURE. -/
def execReadTemperature (view : Nat) (v : Word) (s : State) : Host.Outcome State Fault Refusal := .next (testStart (· == 1) view v s)
/-- READ_CLEAR_ECC_LOG. -/
def execReadClearEccLog (view : Nat) (v : Word) (s : State) : Host.Outcome State Fault Refusal := .next (testStart (· == 2) view v s)
/-- READ_REPAIR_RESOURCES. -/
def execReadRepairResources (view : Nat) (v : Word) (s : State) : Host.Outcome State Fault Refusal := .next (testStart (· == 3) view v s)
/-- MEMORY_BIST. -/
def execMemoryBist (view : Nat) (v : Word) (s : State) : Host.Outcome State Fault Refusal := .next (testStart (· == 4) view v s)
/-- TEST_PORT_DONE. -/
def execTestPortDone (reading : Word) (s : State) : Host.Outcome State Fault Refusal := .next (testPortDone reading s)
/-- LAKE_WAY_SPARE_IN. -/
def execLakeWaySpareIn (die array : Nat) (s : State) : Host.Outcome State Fault Refusal := onUnit (die < 8 && array < 256) (lakeWaySpareIn die array s)
/-- LAKE_WAY_COPY_DONE. -/
def execLakeWayCopyDone (die array : Nat) (s : State) : Host.Outcome State Fault Refusal := onUnit (die < 8 && array < 256) (lakeWayCopyDone die array s)

end Sys2Proof.Machine
end

