-- ==== Sys2Proof/Machine/HostAtt.lean ====
section
/-! DEFINITION. Host attachment: memory windows, the HBM window, links, partition reset and the reduction signature (10 R302
to R312, R340, 13 R433, R434). -/

namespace Sys2Proof.Machine

/-! ### Host memory windows -/

/-- A page table maps an address of the range, as far as its valid entries say: `lvls` gives the index shift and the index
bits of each level below (15 R491). -/
def tableMaps (s : State) (lo hi : Nat) : List (Nat × Nat) → Nat → Nat → Bool
  | [], _, _ => false
  | (sh, n) :: rest, table, base =>
    (List.range (2 ^ n)).any (fun i =>
      let a := base + i * 2 ^ sh
      decide (a < hi) && decide (lo < a + 2 ^ sh) && (match pteAt s (table + 8 * i) with
        | none => false
        | some e => bitAt e 0 && (bitAt e 1 || tableMaps s lo hi rest (fieldOf e 12 28 * 4096) a)))

/-- A partition's page table maps part of an address range. -/
def deviceMaps (s : State) (p lo hi : Nat) : Bool :=
  tableMaps s lo hi [(39, 9), (30, 9), (21, 9), (16, 5)] (ofld s (Reg.prtPartCfg + 0x40 * p + 8) 0 28 * 4096) 0

/-- First address and end of a host memory window. -/
def hmwRange (s : State) (p n : Nat) : Nat × Nat :=
  let w := reg s (pkey p (Reg.hifHmw + 16 * n + 8))
  (fieldOf w 0 32 * 0x10000, (fieldOf w 0 32 + fieldOf w 32 32) * 0x10000)

/-- A window that is valid does not fit: it has no size, or overlaps another window or a device mapping (10 R310). -/
def hmwClash (s : State) (p n : Nat) : Bool :=
  let (lo, hi) := hmwRange s p n
  decide (hi ≤ lo) || (List.range 16).any (fun m =>
      m != n && rfld s (pkey p (Reg.hifHmw + 16 * m)) 0 1 == 1 && decide ((hmwRange s p m).1 < hi) && decide (lo < (hmwRange s p m).2)) ||
    deviceMaps s p lo hi

/-- HMW_WRITE: the word is stored; a window that would overlap is refused and its VALID reads 0 (10 R310, R311). -/
def hmwWrite (p n word : Nat) (v : Word) (s : State) : State :=
  if !alive s then s
  else
    let s1 := storeWord s p (Reg.hifHmw + 16 * n + 8 * word) v.toNat
    let k := pkey p (Reg.hifHmw + 16 * n)
    if rfld s1 k 0 1 = 1 && hmwClash s1 p n then setRfld s k 0 1 0 else s1

/-! ### The HBM window -/

/-- The region of a slot's HBM window, when it is enabled (10 R309). -/
def slotRegion (s : State) (sl : Nat) : Option Nat :=
  let w := reg s (okey (Reg.hifPortCfg + 8 * (sl / 2)))
  if bitAt w (14 + sl % 2) then some (fieldOf w (16 + 8 * (sl % 2)) 6) else none

/-- A slot runs CXL (10 R312). -/
def slotCxl (s : State) (sl : Nat) : Bool := bitAt (reg s (okey (Reg.hifPortCfg + 8 * (sl / 2)))) (12 + sl % 2)

/-- The size of a window over a region of `n` units of 64 MiB, in the same units: a power of two, or with CXL a multiple of
256 MiB (10 R309). -/
def windowUnits (cxl : Bool) (n : Nat) : Nat := if cxl then (n + 3) / 4 * 4 else if n ≤ 1 then 1 else 2 ^ (Nat.log2 (n - 1) + 1)

/-- Unsupported Request is logged in the function's AER status: bit 20 of the base specification (10 R304, R309; log entry 39). -/
def aerNote (s : State) (sl : Nat) : State := setSlot s sl { slotOf s sl with aer := (slotOf s sl).aer ||| 2 ^ 20 }

/-- An access of a window that reaches no memory: all-ones data with CXL, and a report through AER and an error record to the partition (10 R309). -/
def windowMiss (s0 : State) (p off n : Nat) (cxl write : Bool) : State :=
  let s := match partSlot s0 p with | some sl => aerNote s0 sl | none => s0
  report { s with hostReply := if write then s.hostReply else if cxl then List.replicate n 0xFF#8 else [] } 0x04 2 0 0 (some p) off (leBytes 8 off)

/-- An access of a window whose memory fails: an uncorrectable sector gives an ECC record, a domain that is off or a fenced unit an ADDRESS record, and a
read returns all-ones bytes (02 R51, 09 R293; log entry 36). -/
def windowFail (s : State) (p off n : Nat) (write : Bool) (e : MemErr) : State :=
  let s1 := { s with hostReply := if write then s.hostReply else List.replicate n 0xFF#8 }
  match e with
  | .bad _ k => (errEmit s1 { eccEvent off k with part := some p }).1
  | _ => report s1 0x04 2 0 0 (some p) off (leBytes 8 off)

/-- HOST_WINDOW_ACCESS (10 R309). -/
def hostWindowAccess (p : Nat) (write : Bool) (off len : Nat) (data : List Byte) (s : State) : State :=
  match partSlot s p with
  | none => s
  | some sl => match slotRegion s sl with
    | none => s
    | some n =>
      let w := regionWord s n
      let cxl := slotCxl s sl
      let size := len.max (if write then data.length else 0)
      if !linkUsable s p || !alive s || windowUnits cxl (fieldOf w 32 13) * 0x4000000 < off + size then s
      else if !(bitAt w 0 && holdsRegion s p n) || fieldOf w 32 13 * 0x4000000 < off + size then windowMiss s p off len cxl write
      else
        let base := fieldOf w 16 13 * 0x4000000
        let tr := fun a => some (regionKey s n (base + a))
        if write then
          match writeVia s tr off data (some (8 + sl / 4)) with
          | .ok s1 => s1
          | .error e => windowFail s p off len write e
        else
          match readVia s tr off len (some (8 + sl / 4)) with
          | .ok bs => { s with hostReply := bs }
          | .error e => windowFail s p off len write e

/-! ### Links -/

/-- HIF_PART_STATUS follows the slot of a partition. -/
def linkStatus (s : State) (p sl : Nat) : State :=
  let x := slotOf s sl
  let k := pkey p Reg.hifPartStatus
  setRfld (setRfld (setRfld (setRfld s k 4 3 p) k 8 3 sl) k 16 5 x.width) k 24 3 x.speed

/-- The P-die uncore of a slot is on. -/
def slotPowered (s : State) (sl : Nat) : Bool := domainOpen s (sl / 4)

/-- PCIE_LINK_UP: a slot bound to a committed partition trains once PERST_N is deasserted (16 R527, 10 R303). -/
def pcieLinkUp (sl width speed : Nat) (s : State) : State :=
  match slotPart s sl with
  | none => s
  | some p =>
    let x := slotOf s sl
    let most := if bitAt (reg s (okey (Reg.hifPortCfg + 8 * (sl / 2)))) 0 then 8 else 16
    if x.perst || x.up || !partValid s p || !alive s || s.tapHeld || s.boot != .done || !slotPowered s sl ||
        !([1, 2, 4, 8, 16].contains width) || decide (most < width) || speed = 0 || decide (6 < speed) then s
    else linkStatus (setSlot s sl { x with up := true, width := width, speed := speed, d3hot := false }) p sl

/-- PERST_DEASSERT. -/
def perstDeassert (sl : Nat) (s : State) : State := setSlot s sl { slotOf s sl with perst := false }

/-- A partition is reset because of its link (10 R306). -/
def resetBySlot (s : State) (sl : Nat) : State :=
  match slotPart s sl with
  | some p => if partValid s p && alive s then partitionReset s p else s
  | none => s

/-- LINK_DOWN: LINK_LOSS is set and the partition is reset (10 R306). -/
def slotDown (sl : Nat) (s : State) : State :=
  let x := slotOf s sl
  if !x.up then s
  else
    let s1 := setSlot s sl { Slot.init with perst := x.perst }
    match slotPart s1 sl with
    | some p => resetBySlot (setRfld (linkStatus s1 p sl) (pkey p Reg.hifPartStatus) 1 1 1) sl
    | none => s1

/-- A function's configuration at its defaults, its link as it is (PCI Express base specification; log entry 39). -/
def Slot.fresh (x : Slot) : Slot := { Slot.init with perst := x.perst, up := x.up, width := x.width, speed := x.speed }

/-- FLR and hot reset: the partition is reset, and the function is in D0 with its configuration at its defaults (10 R306; log entries 20, 39). -/
def functionReset (sl : Nat) (s : State) : State :=
  if (slotOf s sl).up then resetBySlot (setSlot s sl (slotOf s sl).fresh) sl else s

/-- D3HOT_ENTRY (10 R306). -/
def d3hotEntry (sl : Nat) (s : State) : State :=
  if (slotOf s sl).up && !(slotOf s sl).d3hot then resetBySlot (setSlot s sl { slotOf s sl with d3hot := true }) sl else s

/-! ### The configuration of a function -/

/-- Views of REGISTER_WRITE that name the function of a slot: 16 plus the slot. Its registers are 64-bit words at the places below; the BARs lie
where a Type 0 header has them, and the places of the others are the model's (10 Tables 2 to 4; log entry 39). -/
def Fn.bar0 : Nat := 0x10
def Fn.bar2 : Nat := 0x18
def Fn.bar4 : Nat := 0x20
/-- Power state: 0 returns the function to D0. -/
def Fn.power : Nat := 0x40
/-- MSI-X: [15] enable, [14] function mask. -/
def Fn.msix : Nat := 0x48
/-- AER uncorrectable status, cleared by writing 1. -/
def Fn.aer : Nat := 0x50
/-- The HDM decoder: [63:28] base, [0] committed. -/
def Fn.hdm : Nat := 0x60
/-- Bit 0 of the word of vector `v`, at 8 v from here, masks it. -/
def Fn.vectors : Nat := 0x1000

/-- Bytes that BAR0, BAR2 and BAR4 of a slot's function ask for (10 Table 3): BAR4 shows the HBM window where it is enabled without CXL. -/
def barSize (s : State) (sl bar : Nat) : Nat :=
  match bar, slotRegion s sl with
  | 0, _ => 0x4000000
  | 2, _ => 0x1000000
  | _, some n => if slotCxl s sl then 0 else windowUnits false (fieldOf (regionWord s n) 32 13) * 0x4000000
  | _, none => 0

/-- Bytes of the HDM range of a slot that runs CXL (10 R309). -/
def hdmSize (s : State) (sl : Nat) : Nat :=
  match slotRegion s sl with
  | some n => if slotCxl s sl then windowUnits true (fieldOf (regionWord s n) 32 13) * 0x4000000 else 0
  | none => 0

/-- An address rounded down to a size, 0 where the size is 0: what a BAR keeps of a write. -/
def alignTo (size v : Nat) : Nat := if size = 0 then 0 else v / size * size

/-- Pending vectors that are masked no longer are raised (10 R333). -/
def fireVectors (s : State) (sl : Nat) : State :=
  match slotPart s sl with
  | none => s
  | some p =>
    let x := slotOf s sl
    x.pend.foldl (fun s v => raiseVector s p v) (setSlot s sl { x with pend := [] })

/-- A host writes a register of its own function (10 R304, R307, R312, R333). D3hot is entered by a command of its own. -/
def functionWrite (who : Party) (sl off : Nat) (v : Word) (s : State) : State :=
  let x := slotOf s sl
  let n := v.toNat
  if (match who, slotPart s sl with | .host p, some q => p != q | _, _ => true) || !x.up then s
  else if off = Fn.bar0 then setSlot s sl { x with bar0 := alignTo (barSize s sl 0) n }
  else if off = Fn.bar2 then setSlot s sl { x with bar2 := alignTo (barSize s sl 2) n }
  else if off = Fn.bar4 then setSlot s sl { x with bar4 := alignTo (barSize s sl 4) n }
  else if off = Fn.power then (if fieldOf n 0 2 = 0 then setSlot s sl { x with d3hot := false } else s)
  else if off = Fn.msix then fireVectors (setSlot s sl { x with msixOn := bitAt n 15, fmask := bitAt n 14 }) sl
  else if off = Fn.aer then setSlot s sl { x with aer := x.aer &&& (2 ^ 64 - 1 - n) }
  else if off = Fn.hdm then
    (if x.hdmOn || !slotCxl s sl then s else setSlot s sl { x with hdm := alignTo 0x10000000 n, hdmOn := bitAt n 0 })
  else if Fn.vectors ≤ off ∧ off < Fn.vectors + 8 * 2048 ∧ off % 8 = 0 then
    (let i := (off - Fn.vectors) / 8
     let rest := x.clear.filter (· != i)
     fireVectors (setSlot s sl { x with clear := if bitAt n 0 then rest else rest ++ [i] }) sl)
  else s

/-- What a read of a function's register returns. -/
def functionRead (s : State) (sl off : Nat) : Nat :=
  let x := slotOf s sl
  if off = Fn.bar0 then x.bar0 + 4
  else if off = Fn.bar2 then x.bar2 + 4
  else if off = Fn.bar4 then (if barSize s sl 4 = 0 then 0 else x.bar4 + 12)
  else if off = Fn.power then 3 * b2n x.d3hot
  else if off = Fn.msix then b2n x.msixOn * 2 ^ 15 + b2n x.fmask * 2 ^ 14 + 2047
  else if off = Fn.aer then x.aer
  else if off = Fn.hdm then x.hdm + b2n x.hdmOn
  else if off = Fn.hdm + 8 then hdmSize s sl
  else if Fn.vectors ≤ off ∧ off < Fn.vectors + 8 * 2048 then
    b2n (!x.clear.contains ((off - Fn.vectors) / 8)) + 2 * b2n (x.pend.contains ((off - Fn.vectors) / 8))
  else 0

/-- A register write through a view, or to the configuration of a slot's function. -/
def registerStore (who : Party) (view off size : Nat) (v : Word) (s : State) : State :=
  if 16 ≤ view then functionWrite who (view - 16) off v s else registerWrite who view off size v s

/-! ### Partition reset -/

/-- PARTITION_RESET: the RESET bit of PRT_PART_CFG_p (10 R340, 15 PRT_PART_CFG_p). -/
def partReset (view p : Nat) (v : Word) (s : State) : State :=
  let off := Reg.prtPartCfg + 0x40 * p
  if !bitAt v.toNat 1 || !alive s then s
  else match actionWrite s view off v with
  | none => s
  | some s1 => if partValid s1 p then partitionReset (setRfld s1 (okey off) 1 1 1) p else s1

/-- PARTITION_RESET_END: once the partition's tile groups are zero, RESET reads 0 and READY returns to 1 if the partition is
still VALID (10 R305, R340). -/
def partitionResetEnd (p : Nat) (s : State) : State :=
  if s.resetting.contains p && (partGroups s p).all (fun g => !(groupOf s g).zeroing) && alive s then
    setRfld (setRfld { s with resetting := s.resetting.filter (· != p) } (okey (Reg.prtPartCfg + 0x40 * p)) 1 1 0)
      (pkey p Reg.hifPartStatus) 0 1 (b2n (partValid s p))
  else s

/-! ### The reduction signature -/

/-- Tiles of a partition: 8 for each tile group it holds. -/
def activeTiles (s : State) (p : Nat) : Nat := 8 * (partGroups s p).length

/-- FW_RED_VERSION of the running firmware image (15 R507). -/
def fwRedVersion (s : State) : Nat := match s.running with | some i => imageRed i | none => 0

/-- The signature record (13 Table 3). -/
def signatureRecord (s : State) (p : Nat) : List Byte :=
  layoutBytes 64 ([(0, 2, activeTiles s p), (2, 1, pfld s p Reg.detCtrl 0 1), (4, 2, fwRedVersion s),
    (8, 4, pfld s p Reg.detTableVersion 0 32), (16, 8, pfld s p Reg.detStep 0 64)] ++
    (List.range 4).map (fun i => (24 + 8 * i, 8, pfld s p (Reg.detSeed + 8 * i) 0 64)))

/-- DET_SIGNATURE (13 R433). -/
def detSignature (s : State) (p : Nat) : Nat := crc64 0 (signatureRecord s p)

/-- DET_SIGNATURE_READ: from the partition's view or the Owner's copy (13 R434). -/
def detSignatureRead (view p : Nat) (s : State) : State :=
  if (view = p || view = 8) && alive s then { s with hostReply := leBytes 8 (detSignature s p) } else s

/-! ### Meanings -/

/-- HMW_WRITE. -/
def execHmwWrite (p n word : Nat) (v : Word) (s : State) : Host.Outcome State Fault Refusal :=
  onUnit (p < 8 && n < 16 && word < 2) (hmwWrite p n word v s)
/-- REGISTER_WRITE. -/
def execRegisterWrite (who : Party) (view off size : Nat) (v : Word) (s : State) : Host.Outcome State Fault Refusal :=
  onUnit (view ≤ 8 || (decide (16 ≤ view) && decide (view < 24))) (registerStore who view off size v s)
/-- HOST_WINDOW_ACCESS. -/
def execHostWindowAccess (p : Nat) (write : Bool) (off len : Nat) (data : List Byte) (s : State) : Host.Outcome State Fault Refusal :=
  onUnit (p < 8) (hostWindowAccess p write off len data s)
/-- PCIE_LINK_UP. -/
def execPcieLinkUp (sl width speed : Nat) (s : State) : Host.Outcome State Fault Refusal := onUnit (sl < 8) (pcieLinkUp sl width speed s)
/-- PERST_DEASSERT. -/
def execPerstDeassert (sl : Nat) (s : State) : Host.Outcome State Fault Refusal := onUnit (sl < 8) (perstDeassert sl s)
/-- LINK_DOWN. -/
def execLinkDown (sl : Nat) (s : State) : Host.Outcome State Fault Refusal := onUnit (sl < 8) (slotDown sl s)
/-- FLR. -/
def execFlr (sl : Nat) (s : State) : Host.Outcome State Fault Refusal := onUnit (sl < 8) (functionReset sl s)
/-- HOT_RESET. -/
def execHotReset (sl : Nat) (s : State) : Host.Outcome State Fault Refusal := onUnit (decide (sl < 8)) (functionReset sl s)
/-- D3HOT_ENTRY. -/
def execD3hotEntry (sl : Nat) (s : State) : Host.Outcome State Fault Refusal := onUnit (sl < 8) (d3hotEntry sl s)
/-- PARTITION_RESET. -/
def execPartitionReset (view p : Nat) (v : Word) (s : State) : Host.Outcome State Fault Refusal := onUnit (p < 8) (partReset view p v s)
/-- PARTITION_RESET_END. -/
def execPartitionResetEnd (p : Nat) (s : State) : Host.Outcome State Fault Refusal := onUnit (p < 8) (partitionResetEnd p s)
/-- DET_SIGNATURE_READ. -/
def execDetSignatureRead (view p : Nat) (s : State) : Host.Outcome State Fault Refusal := onUnit (p < 8) (detSignatureRead view p s)

end Sys2Proof.Machine
end

