-- ==== Sys2Proof/Machine/Commit.lean ====
section
/-! DEFINITION. The protection commit: its checks, the shadow made live, the releases and the measurement (15 R487 to R500). -/

namespace Sys2Proof.Machine

/-! ### The shadow made live -/

/-- The key is that of a shadowed register word (15 R494). -/
def shadowedKey (k : Nat) : Bool := decide (k < 2 ^ 24) && (match regRow (8 * k) with | some r => r.shadow | none => false)

/-- The live value that a commit gives a shadowed word: its RW fields from the shadow, the others as they are (15 R494). -/
def committed (s : State) (k : Nat) : Nat :=
  let rw := match regRow (8 * k) with | some r => r.rw | none => 0
  (reg s k &&& (2 ^ 64 - 1 - rw)) ||| (shadowReg s k &&& rw)

/-- TAG of an entry that holds zeros. -/
def tagEmpty : Nat := tagOf 0 0

/-- TAG of every group entry, as committed (12 MOR_GROUP_n). -/
def setTags (s : State) : State :=
  let tag := fun w0 w1 => if w0 = 0 ∧ w1 = 0 then tagEmpty else tagOf w0 w1
  { s with regs := (List.range 256).foldr (fun g m => sset regReset m (okey (Reg.morGroup + 32 * g + 16))
      (BitVec.ofNat 64 (tag (groupWord s g) (reg s (okey (Reg.morGroup + 32 * g + 8)))))) s.regs }

/-- Every shadowed word live. -/
def makeLive (s : State) : State :=
  setTags ((((s.shadow.map (·.1)) ++ (s.regs.map (·.1))).eraseDups.filter shadowedKey).foldl (fun t k => setReg t k (committed s k)) s)

/-- A group entry that differs between two states. -/
def groupChanged (a b : State) (g : Nat) : Bool :=
  groupWord a g != groupWord b g || reg a (okey (Reg.morGroup + 32 * g + 8)) != reg b (okey (Reg.morGroup + 32 * g + 8))

/-- A group entry that a commit changes starts at OPSEQ 0 with no context of an operation not entered (12 R403; log entry 27). -/
def resetGroups (old s : State) : State :=
  let ch := (List.range 256).filter (groupChanged old s)
  { s with
    morSeq := s.morSeq.filter (fun e => !ch.contains e.1)
    mctxs := s.mctxs.filter (fun c => c.own.isSome || !ch.contains c.group) }

/-! ### The rules of Table 3, each giving the index concerned in the candidate state -/

/-- The VALID partitions. -/
def partsOf (c : State) : List Nat := (List.range 8).filter (partValid c)

/-- The first partition whose mask meets what was seen before it. -/
def overlapAt : List (Nat × Nat) → Nat → Option Nat
  | [], _ => none
  | (p, m) :: rest, seen => if m &&& seen ≠ 0 then some p else overlapAt rest (seen ||| m)

/-- A mask of the listed bits. -/
def maskOf (l : List Nat) : Nat := l.foldl (fun m i => m ||| 2 ^ i) 0

/-- The clusters of a partition: cluster c of P-die d at bit 12 d + c. -/
def clusterMask (c : State) (p : Nat) : Nat := ofld c (Reg.prtPartCfg + 0x40 * p) 8 24

/-- First ring and number of rings of a partition. -/
def ringRange (c : State) (p : Nat) : Nat × Nat :=
  (ofld c (Reg.prtPartCfg + 0x40 * p + 16) 0 12, ofld c (Reg.prtPartCfg + 0x40 * p + 16) 16 11)

/-- Rule 1: tile groups are disjoint and none is withdrawn. -/
def rule1 (c : State) : Option Nat :=
  overlapAt ((partsOf c).map (fun p => (p, groupMask c p))) (maskOf ((List.range 168).filter (fun g => (groupOf c g).withdrawn)))

/-- Rule 2: clusters are disjoint, not withdrawn, and not cluster 0 of P0. -/
def rule2 (c : State) : Option Nat := overlapAt ((partsOf c).map (fun p => (p, clusterMask c p))) (maskOf c.clusterGone ||| 1)

/-- Rule 3: ring ranges are disjoint, of at most 1,024 rings, and within 0 to 4,095. -/
def rule3 (c : State) : Option Nat :=
  overlapAt ((partsOf c).map (fun p =>
    let r := ringRange c p
    (p, if 1024 < r.2 || 4096 < r.1 + r.2 then 2 ^ 4096 else (2 ^ r.2 - 1) * 2 ^ r.1))) (2 ^ 4096)

/-- Rule 4: way masks are disjoint, and a partition with a tile group has a way (09 R274). -/
def rule4 (c : State) : Option Nat :=
  overlapAt ((partsOf c).map (fun p =>
    let w := ofld c (Reg.lakWays + 8 * p) 0 16
    (p, if groupMask c p ≠ 0 ∧ w = 0 then 2 ^ 16 else w))) (2 ^ 16)

/-- Two regions overlap in DPA or in a stack. -/
def regionsClash (c : State) (m n : Nat) : Bool :=
  let a := regionWord c m
  let b := regionWord c n
  let fa := footprint c m
  let fb := footprint c n
  (decide (fieldOf a 16 13 < fieldOf b 16 13 + fieldOf b 32 13) && decide (fieldOf b 16 13 < fieldOf a 16 13 + fieldOf a 32 13)) ||
    (fa.1.any fb.1.contains && decide (fa.2.1 < fb.2.1 + fb.2.2) && decide (fb.2.1 < fa.2.1 + fa.2.2))

/-- A valid region breaks R288, alone or with an earlier one. -/
def regionBad (c : State) (n : Nat) : Bool :=
  let w := regionWord c n
  let mode := fieldOf w 1 3
  let t := fieldOf w 8 4
  let size := fieldOf w 32 13
  let f := footprint c n
  bitAt w 0 && (decide (4 ≤ mode) || size == 0 || size % modeStacks mode != 0 || decide (6144 < fieldOf w 16 13 + size) ||
    (mode == 1 && decide (8 ≤ t)) || ((mode == 0 || mode == 2) && t != 0) || decide (384 < f.2.1 + f.2.2) ||
    (List.range n).any (fun m => bitAt (regionWord c m) 0 && regionsClash c m n))

/-- Rule 5: regions follow R288, and each lies in at most one partition. -/
def rule5 (c : State) : Option Nat :=
  match (List.range 64).find? (regionBad c) with
  | some n => some n
  | none => (List.range 64).find? (fun n => bitAt (regionWord c n) 0 && decide (1 < ((partsOf c).filter (fun p => holdsRegion c p n)).length))

/-- QUOTA of a partition. -/
def quotaOf (c : State) (p : Nat) : Nat := ofld c (Reg.scuQuota + 8 * p) 0 13

/-- Rule 6: quotas total at most 4,096, and that of a partition that holds a tile group does not change (05 R156). -/
def rule6 (s c : State) : Option Nat :=
  (partsOf c).find? (fun p => decide (4096 < (((partsOf c).filter (· ≤ p)).map (quotaOf c)).foldl (· + ·) 0) ||
    (quotaOf c p != quotaOf s p && groupMask s p != 0))

/-- First QP and number of QPs of a partition. -/
def qpRange (c : State) (p : Nat) : Nat × Nat := (ofld c (Reg.ethQpQuota + 8 * p) 0 16, ofld c (Reg.ethQpQuota + 8 * p) 32 17)

/-- Rule 7: QP ranges are disjoint and of at most 65,536; a range whose BASE + COUNT passes QP 65,535 is not refused (DESIGN CHOICE, log entry 31). -/
def rule7 (c : State) : Option Nat :=
  (partsOf c).find? (fun p =>
    let a := qpRange c p
    decide (65536 < a.2) || (partsOf c).any (fun q =>
      let b := qpRange c q
      decide (q < p) && decide (a.1 < b.1 + b.2) && decide (b.1 < a.1 + a.2)))

/-- A group entry breaks R401. -/
def groupBad (c : State) (g : Nat) : Bool :=
  let w := groupWord c g
  bitAt w 0 && (!(groupTree c g).fits c || ofld c (Reg.fabJob + 32 * fieldOf w 8 6) 0 2 != 1 || decide (4 < ofld c (Reg.morGroup + 32 * g + 8) 48 3) ||
    (bitAt w 2 && !(groupTree c g).tensorOk))

/-- Rule 8: job table entries, bindings and group entries follow R361, R362 and R401. -/
def rule8 (c : State) : Option Nat :=
  match (List.range 64).find? (fun n => ofld c (Reg.fabJob + 32 * n) 0 2 == 3) with
  | some n => some n
  | none =>
    match (partsOf c).find? (fun p =>
      let b := reg c (okey (Reg.fabPartJob + 8 * p))
      let j := reg c (okey (Reg.fabJob + 32 * fieldOf b 0 6))
      bitAt b 6 && !(fieldOf j 0 2 == 1 && fieldOf j 2 3 == p)) with
    | some p => some (ofld c (Reg.fabPartJob + 8 * p) 0 6)
    | none => (List.range 256).find? (groupBad c)

/-- The binding field of a slot that exists (10 R302, R303). -/
def slotField (c : State) (sl : Nat) : Option Nat :=
  let w := reg c (okey (Reg.hifPortCfg + 8 * (sl / 2)))
  if sl % 2 = 0 then some (fieldOf w 4 4) else if bitAt w 0 then some (fieldOf w 8 4) else none

/-- The slots that VALID partitions are bound to. -/
def boundSlots (c : State) (p : Nat) : List Nat := (List.range 8).filter (fun sl => slotField c sl == some p)

/-- Units of 64 MiB that the windows of the slots of VALID partitions span (10 R309). -/
def windowTotal (c : State) : Nat :=
  ((List.range 8).map (fun sl =>
    match slotField c sl, slotRegion c sl with
    | some p, some n => if partValid c p then windowUnits (slotCxl c sl) (if bitAt (regionWord c n) 0 then fieldOf (regionWord c n) 32 13 else 0) else 0
    | _, _ => 0)).foldl (· + ·) 0

/-- Rule 9: a partition has at most one slot, a slot field names a partition or none, and the windows span at most 64 GiB (10 R303,
R309). -/
def rule9 (c : State) : Option Nat :=
  match (partsOf c).find? (fun p => decide (1 < (boundSlots c p).length)) with
  | some p => some p
  | none =>
    match (List.range 8).find? (fun sl => match slotField c sl with | some p => decide (8 ≤ p) && p != 15 | none => false) with
    | some sl => some sl
    | none => if 1024 < windowTotal c then some 0 else none

/-- The A-dies whose engine a running descriptor occupies (06 R206, 07, 05 R141). -/
def engineDies (s : State) (d : Desc) : List Nat :=
  match d.work with
  | .sie w => indicesWhere 8 (fun k => bitAt (leField w.inp.ctrl 7 1) k)
  | .fxe w => w.dies.map (·.die)
  | .scu _ => partDies s d.part
  | _ => []

/-- Rule 10 for one partition: a started descriptor uses a tile group or the engine of a die that leaves, a ring leaves while it is
enabled, or a hart of the partition runs on a cluster that leaves. -/
def inUse (s c : State) (p : Nat) : Bool :=
  let lost := groupMask s p &&& (2 ^ 168 - 1 - groupMask c p)
  let dies := (partDies s p).filter (fun k => !(partDies c p).contains k)
  let r := ringRange c p
  partValid s p &&
    ((runningAll s).any (fun x => x.2.part == p && ((descGroups x.2 &&& lost) != 0 || (engineDies s x.2).any dies.contains)) ||
      (partRings s p).any (fun i => (ringOf s i).enabled && !(partValid c p && decide (r.1 ≤ i) && decide (i < r.1 + r.2))) ||
      (List.range 96).any (fun h => hartPart s h == some p && hartPart c h != some p && !(hartOf s h).stopped && (hartOf s h).guest))

/-- A domain is on, not ramping, and its memory is initialised (02 R54, 16 R561). -/
def domainOk (c : State) (d : Nat) : Bool :=
  ofld c Reg.pwrDomainStatus d 1 == 1 && ofld c Reg.pwrDomainStatus (32 + d) 1 == 0 && !c.initing.contains d

/-- The power domains of a partition's resources: tile arrays, cores, the uncore of its regions' stacks, and that of its slot. -/
def domainsOf (c : State) (p : Nat) : List Nat :=
  (partDies c p).map (· + 22) ++ (List.range 2).filterMap (fun d => if fieldOf (clusterMask c p) (12 * d) 12 = 0 then none else some (2 + d)) ++
    ((List.range 64).filter (fun n => holdsRegion c p n && bitAt (regionWord c n) 0)).flatMap (fun n => (footprint c n).1.map (fun k => 14 + k / 2)) ++
    (boundSlots c p).map (· / 4)

/-- Rule 11. -/
def rule11 (c : State) : Option Nat := (partsOf c).find? (fun p => (domainsOf c p).any (fun d => !domainOk c d))

/-- An address resolves for writing, its link aside (14 R460). -/
def stillMaps (c : State) (w a : Nat) : Bool :=
  if w = 8 then (xlateOwner c a).isSome
  else match windowOf c w a with
    | some n => bitAt (reg c (pkey w (Reg.hifHmw + 16 * n))) 1
    | none => (xlateMem c w .w a).isSome

/-- An enabled error ring, or a heartbeat word, of a view does not translate (14 R460). -/
def ringLost (c : State) (w : Nat) : Bool :=
  let cfg := reg c (pkey w (Reg.errRing + 8))
  let a := rfld c (pkey w Reg.errRing) 6 42 * 64
  let hb := rfld c (pkey w Reg.errHeartbeat) 3 45 * 8
  (bitAt cfg 9 && (List.range (2 ^ fieldOf cfg 0 5 / 1024 + 1)).any (fun i =>
    let x := a + min (65536 * i) (64 * 2 ^ fieldOf cfg 0 5 - 64)
    !stillMaps c w x)) || (hb != 0 && !stillMaps c w hb)

/-- Rule 12. -/
def rule12 (c : State) : Option Nat := (partsOf c ++ [8]).find? (ringLost c)

/-- Rule 13: reservations on each die total at most 100 % (15 R503). -/
def rule13 (c : State) : Option Nat :=
  (partsOf c).find? (fun p => (List.range 8).any (fun k =>
    decide (100 < (((partsOf c).filter (· ≤ p)).map (fun q =>
      let w := reg c (okey (Reg.prtPartCfg + 0x40 * q))
      if bitAt w (40 + k) then fieldOf w 32 7 else 0)).foldl (· + ·) 0)))

/-- The life-cycle state. -/
def lifeCycle (s : State) : Nat := ofld s Reg.secStatus 0 2

/-- The first rule of Table 3 that the candidate breaks, with the index concerned (15 R495). -/
def commitRefusal (s c : State) : Option (Nat × Nat) :=
  [rule1 c, rule2 c, rule3 c, rule4 c, rule5 c, rule6 s c, rule7 c, rule8 c, rule9 c, (List.range 8).find? (inUse s c), rule11 c, rule12 c, rule13 c,
    if lifeCycle s = 1 then none else some 0, if (handoverOf s 0).isSome || (handoverOf s 1).isSome then some 0 else none].zipIdx.findSome?
    (fun x => x.1.map (fun i => (x.2 + 1, i)))

/-! ### The releases -/

/-- The byte belonged to a region of a partition that the commit takes from it (15 R498). -/
def byteLost (s c : State) (held : List (Nat × Nat)) (key : Nat) : Bool :=
  isHbm key && held.any (fun x => inFootprint s x.2 key && !(holdsRegion c x.1 x.2 && inFootprint c x.2 key))

/-- Regions that partitions lost are zeroed (15 R498). -/
def zeroLost (s c : State) : State :=
  let held := ((List.range 8).flatMap (fun p => (List.range 64).map (fun n => (p, n)))).filter (fun x => holdsRegion s x.1 x.2)
  { c with
    mem := c.mem.filter (fun e => !byteLost s c held e.1)
    bad := c.bad.filter (fun x => !byteLost s c held (32 * x)) }

/-- QUOTA follows the grant, and NSLOTS stays within it (05 R156). -/
def setQuotas (c : State) : State :=
  (List.range 8).foldl (fun c p =>
    let q := if partValid c p then quotaOf c p else 0
    let k := pkey p Reg.scuSlots
    setRfld (setRfld c k 16 13 q) k 0 13 (min (rfld c k 0 13) q)) c

/-- A link whose slot serves its partition no longer goes down, and that partition, if it stays VALID, is reset (10 R303, R306). -/
def dropSlots (s c : State) : State :=
  (List.range 8).foldl (fun c sl =>
    if (slotOf c sl).up && slotPart s sl != slotPart c sl then
      let c1 := setSlot c sl { slotOf c sl with up := false, width := 0, speed := 0, d3hot := false }
      match slotPart s sl with
      | some p => if partValid c1 p then partitionReset (setRfld c1 (pkey p Reg.hifPartStatus) 1 1 1) p else c1
      | none => c1
    else c) c

/-- A partition that is VALID no longer: READY clears, and what its engines held is discarded. -/
def dropParts (s c : State) : State :=
  ((partsOf s).filter (fun p => !partValid c p)).foldl (fun c p => purgePart (setRfld c (pkey p Reg.hifPartStatus) 0 1 0) p) c

/-- The tile groups that partitions lost. -/
def lostGroups (s c : State) : List Nat := (List.range 168).filter (fun g => (groupPart s g).isSome && groupPart s g != groupPart c g)

/-- The Lake ways that partitions lost (09 R275). -/
def lostWays (s c : State) : List Nat :=
  (List.range 16).filter (fun w => (List.range 8).any (fun p => bitAt (ofld s (Reg.lakWays + 8 * p) 0 16) w && !bitAt (ofld c (Reg.lakWays + 8 * p) 0 16) w))

/-- SIGNATURE records of partitions whose active tiles fell (13 R438). -/
def signatureChanges (s c : State) : State :=
  ((partsOf c).filter (fun p => partValid s p && decide (activeTiles c p < activeTiles s p))).foldl (fun t p =>
    report t 0x0B 0 0 0 (some p) 0 (leBytes 8 (detSignature s p) ++ leBytes 8 (detSignature c p))) c

/-- Requests that wait in the Lakes' inbound queues are performed under the old grants (15 R496). -/
def drainLakes (s : State) : State :=
  let n := ((List.range 8).map (fun k => (sget (fun _ => []) s.lakeQ k).length)).sum
  (List.range n).foldl (fun s _ => (List.range 8).foldl (fun s k => lakePerform k s) s) s

/-- Steps 1 to 3 of a commit (15 R495): the epoch, the grants and what leaves with them. -/
def commitApply (s0 : State) : State :=
  let s := drainLakes s0
  let c := makeLive s
  let g := lostGroups s c
  let t := signatureChanges s (dropSlots s (dropParts s (setQuotas (startZeroing (resetGroups s (zeroLost s (bumpPrtEpoch c))) g))))
  { t with commit := some ⟨false, g, lostWays s c, (partsOf c).filter (fun p => !partValid s p)⟩ }

/-- The end of a commit (15 R489, R495, R499, R500). -/
def commitEnd (s : State) (w : CommitWork) : State :=
  let s1 := w.fresh.foldl (fun s p => if s.resetting.contains p then s else setRfld s (pkey p Reg.hifPartStatus) 0 1 (b2n (partValid s p)))
    { s with commit := none, locked := true }
  setReg (extendMeas s1) (okey Reg.prtCommit) 0

/-- The commit is refused with a rule and an index. -/
def commitRefuse (s : State) (x : Nat × Nat) : State := setReg s (okey Reg.prtCommit) (4 + x.1 * 256 + x.2 * 65536)

/-- What GO does, by the first rule broken: the refusal is reported, or the commit starts (15 R495). -/
def commitAnswer (s : State) : Option (Nat × Nat) → State
  | some x => commitRefuse s x
  | none => setReg (commitApply s) (okey Reg.prtCommit) 3

/-- PRT_COMMIT: GO starts a commit, or the first rule broken is reported (15 R495, R497). -/
def prtCommit (view : Nat) (v : Word) (s : State) : State :=
  if !bitAt v.toNat 0 || !alive s then s
  else match actionWrite s view Reg.prtCommit v with
  | none => s
  | some s1 => commitAnswer s1 (commitRefusal s1 (makeLive s1))

/-- COMMIT_DRAIN_DONE: no request of the previous epoch remains, and the releases start (15 R495 step 3). -/
def commitDrainDone (s : State) : State :=
  match s.commit with
  | some w => if alive s then { s with commit := some { w with drained := true } } else s
  | none => s

/-- COMMIT_RELEASE_DONE: the dirty sectors of the ways that left are in HBM and the ways are invalid (their bytes are the store's, log entry 36; 09 R275); once
the lost tile groups are zero the measurement is extended and RESULT is 0 (15 R495 steps 4 and 5). -/
def commitReleaseDone (s : State) : State :=
  match s.commit with
  | some w => if w.drained && w.groups.all (fun g => !(groupOf s g).zeroing) && alive s then commitEnd s w else s
  | none => s

/-! ### The commit of configuration block 3 at boot -/

/-- The register words that the data of a configuration block set, into the shadow where they are shadowed (15 R513). -/
def applyBlock (s : State) (id : Nat) : State :=
  match goodBlock s id with
  | none => s
  | some b => b.sets.foldl (fun s x =>
    if shadowedKey x.1 then setShadow s x.1 x.2 else setReg s x.1 x.2) s

/-- Configuration block 3 is committed at boot, where it sets anything (16 R527, 15 Table 9). -/
def bootCommit (s : State) : State :=
  if !(goodBlock s 3).any (fun b => !b.sets.isEmpty) then s
  else
    let s1 := applyBlock s 3
    match commitRefusal s1 (makeLive s1) with
    | some x => commitRefuse s1 x
    | none =>
      let s2 := commitApply s1
      match s2.commit with
      | some w => commitEnd s2 w
      | none => s2

/-- PRT_COMMIT. -/
def execPrtCommit (view : Nat) (v : Word) (s : State) : Host.Outcome State Fault Refusal := .next (prtCommit view v s)
/-- COMMIT_DRAIN_DONE. -/
def execCommitDrainDone (s : State) : Host.Outcome State Fault Refusal := .next (commitDrainDone s)

end Sys2Proof.Machine
end

