-- ==== Sys2Proof/Machine/Net.lean ====
section
/-! DEFINITION. The Network Endpoint Engines: RoCEv2 queue pairs, NET descriptors, received frames and congestion control (11
R385 to R391). A frame stands for a whole message: it takes as many PSNs as its packets (log entry 18). -/

namespace Sys2Proof.Machine

def St.netQp : BitVec 16 := 0x0F01
def St.netRemote : BitVec 16 := 0x0F02

/-- Key of a partition's QP. -/
def qpKey (p qpn : Nat) : Nat := p * 131072 + qpn
/-- A QP. -/
def qpOf (s : State) (p qpn : Nat) : Qp := sget (fun _ => Qp.init) s.qps (qpKey p qpn)
/-- The state with a QP replaced. -/
def setQp (s : State) (p qpn : Nat) (v : Qp) : State := { s with qps := sset (fun _ => Qp.init) s.qps (qpKey p qpn) v }

/-- The partition's QP quota and first package QP (11 ETH_QP_QUOTA). -/
def qpCount (s : State) (p : Nat) : Nat := ofld s (Reg.ethQpQuota + 8 * p) 32 17
def qpBase (s : State) (p : Nat) : Nat := ofld s (Reg.ethQpQuota + 8 * p) 0 16

/-- Fields of a QP context (11 Table 13). -/
def Qp.port (q : Qp) : Nat := leField q.ctx 1 1 % 16
def Qp.mac (q : Qp) : Nat := fieldOf (leField q.ctx 1 1) 4 1
def Qp.mtu (q : Qp) : Nat := match leField q.ctx 2 1 with | 3 => 1024 | 4 => 2048 | _ => 4096
def Qp.retryMax (q : Qp) : Nat := leField q.ctx 3 1 % 8
def Qp.rnrMax (q : Qp) : Nat := fieldOf (leField q.ctx 3 1) 4 3
def Qp.sring (q : Qp) : Nat := leField q.ctx 4 2
def Qp.rring (q : Qp) : Nat := leField q.ctx 6 2
def Qp.dqpn (q : Qp) : Nat := leField q.ctx 8 3

/-- Packets of a message. -/
def Qp.packets (q : Qp) (n : Nat) : Nat := max 1 ((n + q.mtu - 1) / q.mtu)

/-- Rate of the QP's port in Mb/s (11 Table 1). -/
def portRate (s : State) (port : Nat) : Rat := if portRole s port = 4 then 800000 else 1600000

/-- A frame of a QP goes out, through the MAC that PORT [4] names, when its port carries frames (11 Table 13). -/
def sendFrame (s : State) (q : Qp) (psn : Nat) (op : RoceOp) (data : List Byte) : State :=
  if portState s q.port = 7 then emit s (.frame q.port q.mac q.dqpn ⟨true, true, false, q.dqpn, BitVec.ofNat 24 psn, op, data⟩) else s

/-- The bytes 64 to 127 of a QP's context, whose layout the NEE owns, take free values (11 R388; log entry 18). -/
def qpTouch (s : State) (p qpn : Nat) : State :=
  match writeVa s p (pfld s p Reg.ethQpcBase 7 41 * 128 + 128 * qpn + 64) (freeBytes s.freeCount 64) with
  | .ok s1 => { s1 with freeCount := s1.freeCount + 64 }
  | .error _ => s

/-- The message that an outstanding operation sends, read from its local buffer (11 R389). -/
def netMessage (s : State) (d : Desc) (op : Nat) : Except MemErr (RoceOp × List Byte) :=
  let va := BitVec.ofNat 64 (d.fld 36 8)
  let key := BitVec.ofNat 32 (d.fld 44 4)
  let imm := BitVec.ofNat 32 (d.fld 48 4)
  if op = 4 then .ok (.readReq va key (d.fld 32 4), [])
  else match readVa s d.part (d.fld 24 6) (d.fld 32 4) with
  | .error e => .error e
  | .ok bs => .ok (match op with | 0 => .write va key | 1 => .writeImm va key imm | 2 => .send | _ => .sendImm imm, bs)

/-- Lowest failing offset of a local buffer, rounded down to 4 KiB (10 R330, 11 R387). -/
def netFailOff (s : State) (p a n : Nat) (acc : Acc) : Nat :=
  (((sectorsOf a n).find? (fun x => match xlateMem s p acc x.1 with
    | some k => isBad s k x.2
    | none => true)).map (fun x => (x.1 - a) / 4096 * 4096)).getD 0

/-- Every outstanding descriptor of a QP ends: the first as the move's cause gives, the others with FAILED_NET_QP (11 R390). -/
def qpFlush (s : State) (p qpn : Nat) (first : BitVec 16) (dest : Nat) : State :=
  let q := qpOf s p qpn
  let s1 := setQp s p qpn { q with st := dest, ops := [], recvs := [] }
  let end_ := fun (s : State) (r : Nat) (seq : BitVec 32) (st : BitVec 16) => match findDesc s r seq with
    | some d => endDesc s r d st 0
    | none => s
  let s2 := match q.ops with
    | [] => s1
    | o :: rest => rest.foldl (fun s o => end_ s o.ring o.seq St.netQp) (end_ s1 o.ring o.seq first)
  qpTouch (q.recvs.foldl (fun s x => end_ s x.1 x.2 St.netQp) s2) p qpn

/-- The NEE of the QP's port is fenced: the QP enters ERROR (14 Table 2). -/
def neeFenced (s : State) (q : Qp) : Bool := fenced s 6 (q.port / 8)

/-- Start of a NET descriptor that names a QP in RTS on its own ring (11 R389). -/
def netStart (op : Nat) (r : Nat) (seq : BitVec 32) (s : State) (k : Desc → Nat → Qp → State) : State :=
  match startable s r seq 7 op with
  | none => s
  | some d =>
    let qpn := d.fld 20 2
    let q := qpOf s d.part qpn
    if qpCount s d.part ≤ qpn || q.st ≠ 3 || neeFenced s q || (if op = 5 then q.rring else q.sring) ≠ r then endDesc s r d St.netQp 0
    else k d qpn q

/-- WRITE, WRITE_IMM, SEND, SEND_IMM and READ (11 R387, R389); a QP keeps at most 16 READs outstanding (11 Table 11). -/
def netSend (op : Nat) (r : Nat) (seq : BitVec 32) (s : State) : State :=
  netStart op r seq s (fun d qpn q =>
    if op = 4 && 16 ≤ (q.ops.filter (fun o => o.op == 4)).length then s
    else match netMessage s d op with
    | .error e => endMem s r d St.dmaAddress e (netFailOff s d.part (d.fld 24 6) (d.fld 32 4) .r)
    | .ok (o, bs) =>
      let n := q.packets (d.fld 32 4)
      let s1 := startWork s r d (.net qpn)
      let s2 := setQp s1 d.part qpn { q with sendPsn := (q.sendPsn + n) % 2 ^ 24, ops := q.ops ++ [⟨r, seq, op, q.sendPsn, n⟩] }
      sendFrame s2 q q.sendPsn o bs)

/-- RECV: its buffer waits for a message (11 R389). -/
def netRecv (r : Nat) (seq : BitVec 32) (s : State) : State :=
  netStart 5 r seq s (fun d qpn q => setQp (startWork s r d (.net qpn)) d.part qpn { q with recvs := q.recvs ++ [(r, seq)] })

/-- MODIFY: the QP moves to the STATE written in its context, if the move is legal (11 R388, R389). -/
def netModify (r : Nat) (seq : BitVec 32) (s : State) : State :=
  match startable s r seq 7 6 with
  | none => s
  | some d =>
    let p := d.part
    let qpn := d.fld 20 2
    let q := qpOf s p qpn
    let a := pfld s p Reg.ethQpcBase 7 41 * 128 + 128 * qpn
    if qpCount s p ≤ qpn then endDesc s r d St.netQp 0
    else match readVa s p a 64 with
    | .error e => endMem s r d St.dmaAddress e 0
    | .ok ctx =>
      let dest := leField ctx 0 1
      if q.sring ≠ r && q.st ≠ 0 && leField ctx 4 2 ≠ r then endDesc s r d St.netQp 0
      else if !(dest == 0 || dest == 4 || (decide (1 ≤ dest) && decide (dest ≤ 3) && q.st + 1 == dest)) then endDesc s r d St.netQp 0
      else
        let s1 := if dest = 0 || dest = 4 then qpFlush s p qpn St.netQp dest else s
        let q1 := { qpOf s1 p qpn with st := dest, ctx := ctx }
        let rate := portRate s1 q1.port
        let q2 := match dest with
          | 0 => { Qp.init with ctx := ctx }
          | 2 => { q1 with recvPsn := leField ctx 16 3 }
          | 3 => { q1 with sendPsn := leField ctx 12 3, rate := rate, target := rate, alpha := 1, periods := 0 }
          | _ => q1
        let s2 := qpTouch (setQp s1 p qpn q2) p qpn
        match findDesc s2 r seq with
        | some d1 => settleAll (completeOne s2 r d1 St.ok 0 false)
        | none => s2

/-- The descriptor of an operation ends with OK. -/
def netOk (s : State) (r : Nat) (seq : BitVec 32) (detail : Nat) : State :=
  match findDesc s r seq with
  | some d => settleAll (completeOne s r d St.ok detail false)
  | none => s

/-- Every outstanding operation from a PSN on is sent again (11 Table 11). -/
def resendFrom (s : State) (p qpn psn : Nat) : State :=
  let q := qpOf s p qpn
  (q.ops.filter (fun o => decide ((o.psn + o.pkts + 2 ^ 24 - 1 - psn) % 2 ^ 24 < 2 ^ 23))).foldl (fun s o =>
    match findDesc s o.ring o.seq with
    | none => s
    | some d => (match netMessage s d o.op with
      | .ok (m, bs) => sendFrame s q o.psn m bs
      | .error _ => s)) s

/-- An ACK of everything up to a PSN: the operations before and at it complete in order, READs excepted (11 R389). -/
def ackTo (p qpn psn : Nat) : Nat → State → State
  | 0, s => s
  | n + 1, s =>
    let q := qpOf s p qpn
    match q.ops with
    | [] => s
    | o :: rest =>
      if o.op ≠ 4 ∧ (psn + 2 ^ 24 - (o.psn + o.pkts - 1) % 2 ^ 24) % 2 ^ 24 < 2 ^ 23 then
        ackTo p qpn psn n (netOk (setQp s p qpn { q with ops := rest, retries := 0, rnrs := 0 }) o.ring o.seq 0)
      else s

/-- The memory region check of R390: the entry of RKEY is valid, carries its tag, covers the range and grants the access. -/
def regionGrants (s : State) (p : Nat) (key : BitVec 32) (va n : Nat) (write : Bool) : Bool :=
  let i := key.toNat % 65536
  let count := pfld s p Reg.ethMrBase 0 17
  let base := pfld s p Reg.ethMrBase 48 16 + pfld s p (Reg.ethMrBase + 8) 0 32 * 65536
  match readVa s p (base + 32 * i) 32 with
  | .error _ => false
  | .ok e => decide (i < count) && bitAt (leField e 16 1) 0 && bitAt (leField e 16 1) (if write then 2 else 1) &&
      leField e 18 2 == key.toNat / 65536 && decide (leField e 0 8 ≤ va) && decide (va + n ≤ leField e 0 8 + leField e 8 8)

/-- A message lands in the oldest RECV's buffer, whose descriptor completes with the count and any immediate (11 R389); a
message longer than the buffer is an access error of the remote. -/
def landRecv (s : State) (p qpn : Nat) (q : Qp) (f : Frame) (store : Bool) (imm : Option (BitVec 32)) : State :=
  let next := { q with recvPsn := (f.psn.toNat + q.packets f.data.length) % 2 ^ 24 }
  match q.recvs with
  | [] => sendFrame s q q.recvPsn (.rnrNak f.psn) []
  | (r, seq) :: rest =>
    match findDesc s r seq with
    | none => s
    | some d =>
      if store && d.fld 32 4 < f.data.length then sendFrame s q q.recvPsn (.nakAccess f.psn) []
      else match (if store then writeVa s p (d.fld 24 6) f.data else .ok s) with
      | .error e => endMem (setQp s p qpn { q with recvs := rest }) r d St.dmaAddress e (netFailOff s p (d.fld 24 6) f.data.length .w)
      | .ok s1 =>
        let s2 := setQp s1 p qpn { next with recvs := rest }
        let last := (f.psn.toNat + q.packets f.data.length - 1) % 2 ^ 24
        netOk (sendFrame s2 q last (.ack (BitVec.ofNat 24 last)) []) r seq
          (f.data.length % 2 ^ 31 + (match imm with | some i => 2 ^ 31 + i.toNat * 2 ^ 32 | none => 0))

/-- A request that is next in sequence (11 R390). -/
def serveRequest (s : State) (p qpn : Nat) (q : Qp) (f : Frame) : State :=
  let last := (f.psn.toNat + q.packets f.data.length - 1) % 2 ^ 24
  let next := setQp s p qpn { q with recvPsn := (last + 1) % 2 ^ 24 }
  let nak := sendFrame s q f.psn.toNat (.nakAccess f.psn) []
  match f.op with
  | .write va key =>
    if !regionGrants s p key va.toNat f.data.length true then nak
    else (match writeVa next p va.toNat f.data with
      | .ok s1 => sendFrame s1 q last (.ack (BitVec.ofNat 24 last)) []
      | .error _ => nak)
  | .writeImm va key imm =>
    if !regionGrants s p key va.toNat f.data.length true then nak
    else if q.recvs.isEmpty then sendFrame s q q.recvPsn (.rnrNak f.psn) []
    else (match writeVa s p va.toNat f.data with
      | .ok s1 => landRecv s1 p qpn q f false (some imm)
      | .error _ => nak)
  | .send => landRecv s p qpn q f true none
  | .sendImm imm => landRecv s p qpn q f true (some imm)
  | .readReq va key n =>
    if !regionGrants s p key va.toNat n false then nak
    else (match readVa s p va.toNat n with
      | .ok bs => sendFrame (setQp s p qpn { q with recvPsn := (f.psn.toNat + q.packets n) % 2 ^ 24 }) q f.psn.toNat .readResp bs
      | .error _ => nak)
  | _ => s

/-- The answer to one of the QP's own operations (11 R386, R389, R390). -/
def serveAnswer (s : State) (p qpn : Nat) (q : Qp) (f : Frame) : State :=
  match f.op with
  | .ack psn => ackTo p qpn psn.toNat q.ops.length s
  | .nakSequence psn => resendFrom (ackTo p qpn ((psn.toNat + 2 ^ 24 - 1) % 2 ^ 24) q.ops.length s) p qpn psn.toNat
  | .rnrNak psn => ackTo p qpn ((psn.toNat + 2 ^ 24 - 1) % 2 ^ 24) q.ops.length s
  | .nakAccess psn =>
    (let s1 := ackTo p qpn ((psn.toNat + 2 ^ 24 - 1) % 2 ^ 24) q.ops.length s
     if (qpOf s1 p qpn).ops.isEmpty then s1 else qpFlush s1 p qpn St.netRemote 4)
  | .readResp =>
    (match q.ops.find? (fun o => o.op == 4 && o.psn == f.psn.toNat) with
    | none => s
    | some o =>
      (match findDesc s o.ring o.seq with
      | none => s
      | some d =>
        let s1 := setQp s p qpn { q with ops := q.ops.erase o, retries := 0 }
        (match writeVa s1 p (d.fld 24 6) (f.data.take (d.fld 32 4)) with
        | .error e => endMem s1 o.ring d St.dmaAddress e (netFailOff s p (d.fld 24 6) (d.fld 32 4) .w)
        | .ok s2 => netOk s2 o.ring o.seq 0)))
  | _ => s

/-- The frame is a request of the remote. -/
def isRequest (f : Frame) : Bool := match f.op with
  | .write .. | .writeImm .. | .send | .sendImm .. | .readReq .. => true
  | _ => false

/-- ROCE_FRAME_RECEIVE (11 R385, R386, R389 to R391): other frames are counted and discarded; a CE mark is answered with a CNP at
most once in 50 µs; a request ahead of sequence draws a sequence NAK and one behind is acknowledged again. -/
def roceReceive (p : Nat) (f : Frame) (s : State) : State :=
  if !f.rocev2 then { s with otherFrames := s.otherFrames + 1 }
  else
    let qpn := f.qp - qpBase s p
    let q := qpOf s p qpn
    if !f.icrcOk || f.qp < qpBase s p || qpCount s p ≤ qpn || !(q.st == 2 || q.st == 3) || !alive s || neeFenced s q then s
    else
      let due := match q.lastCnp with
        | none => true
        | some t => decide (t + 5000 ≤ s.tick)
      let s1 := if f.ce && due then emit (setQp s p qpn { q with lastCnp := some s.tick }) (.cnp q.port q.mac q.dqpn) else s
      let q1 := qpOf s1 p qpn
      if isRequest f then
        let diff := (f.psn.toNat + 2 ^ 24 - q1.recvPsn) % 2 ^ 24
        if diff = 0 then serveRequest s1 p qpn q1 f
        else if diff < 2 ^ 23 then sendFrame s1 q1 q1.recvPsn (.nakSequence (BitVec.ofNat 24 q1.recvPsn)) []
        else match f.op with
          | .readReq va key n => (if regionGrants s1 p key va.toNat n false then
              (match readVa s1 p va.toNat n with
              | .ok bs => sendFrame s1 q1 f.psn.toNat .readResp bs
              | .error _ => s1)
            else s1)
          | _ => (let a := (q1.recvPsn + 2 ^ 24 - 1) % 2 ^ 24
                  sendFrame s1 q1 a (.ack (BitVec.ofNat 24 a)) [])
      else if q1.st = 3 then serveAnswer s1 p qpn q1 f else s1

/-- QP_RETRY_TIMEOUT: the QP retries, or enters ERROR when its retries are exhausted (11 R386, R390). -/
def qpTimeout (p qpn : Nat) (rnr : Bool) (s : State) : State :=
  let q := qpOf s p qpn
  match q.ops with
  | [] => s
  | o :: _ =>
    if q.st ≠ 3 then s
    else if (if rnr then q.rnrs else q.retries) < (if rnr then q.rnrMax else q.retryMax) then
      let q1 := if rnr then { q with rnrs := q.rnrs + 1 } else { q with retries := q.retries + 1 }
      resendFrom (setQp s p qpn q1) p qpn o.psn
    else qpFlush s p qpn St.netQp 4

/-- A rate within 100 Mb/s and the port rate (11 R391). -/
def clampRate (s : State) (port : Nat) (r : Rat) : Rat := max 100 (min (portRate s port) r)

/-- CNP_RECEIVE (11 R391). -/
def cnpReceive (p qpn : Nat) (s : State) : State :=
  let q := qpOf s p qpn
  if q.st ≠ 3 then s
  else
    let g : Rat := 1 / 256
    setQp s p qpn { q with
      target := q.rate, rate := clampRate s q.port (q.rate * (1 - q.alpha / 2)), alpha := (1 - g) * q.alpha + g, periods := 0 }

/-- RATE_RECOVERY_PERIOD: 55 µs passed without a CNP (11 R391). -/
def rateRecovery (p qpn : Nat) (s : State) : State :=
  let q := qpOf s p qpn
  if q.st ≠ 3 then s
  else
    let n := q.periods + 1
    let target := if n % 5 = 0 then clampRate s q.port (q.target + 5000) else q.target
    setQp s p qpn { q with
      alpha := q.alpha * (1 - 1 / 256), rate := clampRate s q.port ((q.rate + q.target) / 2), target := target, periods := n }

/-! ### Meanings -/

/-- The partition has the QP number range of R386. -/
def isQp (p qpn : Nat) : Bool := decide (p < 8) && decide (qpn < 65536)

/-- NET_WRITE. -/
def execNetWrite (r : Nat) (seq : BitVec 32) (s : State) : Host.Outcome State Fault Refusal := onUnit (r < 4096) (netSend 0 r seq s)
/-- NET_WRITE_IMM. -/
def execNetWriteImm (r : Nat) (seq : BitVec 32) (s : State) : Host.Outcome State Fault Refusal := onUnit (r < 4096) (netSend 1 r seq s)
/-- NET_SEND. -/
def execNetSend (r : Nat) (seq : BitVec 32) (s : State) : Host.Outcome State Fault Refusal := onUnit (r < 4096) (netSend 2 r seq s)
/-- NET_SEND_IMM. -/
def execNetSendImm (r : Nat) (seq : BitVec 32) (s : State) : Host.Outcome State Fault Refusal := onUnit (r < 4096) (netSend 3 r seq s)
/-- NET_READ. -/
def execNetRead (r : Nat) (seq : BitVec 32) (s : State) : Host.Outcome State Fault Refusal := onUnit (r < 4096) (netSend 4 r seq s)
/-- NET_RECV. -/
def execNetRecv (r : Nat) (seq : BitVec 32) (s : State) : Host.Outcome State Fault Refusal := onUnit (r < 4096) (netRecv r seq s)
/-- NET_MODIFY. -/
def execNetModify (r : Nat) (seq : BitVec 32) (s : State) : Host.Outcome State Fault Refusal := onUnit (r < 4096) (netModify r seq s)
/-- ROCE_FRAME_RECEIVE. -/
def execRoceFrameReceive (p : Nat) (f : Frame) (s : State) : Host.Outcome State Fault Refusal := onUnit (p < 8) (roceReceive p f s)
/-- QP_RETRY_TIMEOUT. -/
def execQpRetryTimeout (p qpn : Nat) (rnr : Bool) (s : State) : Host.Outcome State Fault Refusal := onUnit (isQp p qpn) (qpTimeout p qpn rnr s)
/-- CNP_RECEIVE. -/
def execCnpReceive (p qpn : Nat) (s : State) : Host.Outcome State Fault Refusal := onUnit (isQp p qpn) (cnpReceive p qpn s)
/-- RATE_RECOVERY_PERIOD. -/
def execRateRecoveryPeriod (p qpn : Nat) (s : State) : Host.Outcome State Fault Refusal := onUnit (isQp p qpn) (rateRecovery p qpn s)

end Sys2Proof.Machine
end

