-- ==== Sys2Proof/Machine/Descriptors.lean ====
section
/-! DEFINITION. The checks of a descriptor's header and body that give FAILED_DESC_INVALID (10 R328). -/

namespace Sys2Proof.Machine

/-- Every byte of the body outside the (offset, length) fields listed is 0. -/
def bodyZeroBut (bs : List Byte) (used : List (Nat × Nat)) : Bool :=
  leNat ((used.foldl (fun b u => patchBytes b u.1 (List.replicate u.2 0#8)) bs).drop 20) == 0

/-- The header's reserved bits are 0 (10 Table 7). -/
def headerOk (bs : List Byte) : Bool :=
  fieldOf (leField bs 1 1) 3 5 == 0 && fieldOf (leField bs 12 2) 12 4 == 0 && fieldOf (leField bs 18 2) 12 4 == 0

/-- A 48-bit or wider address field is aligned. -/
def alignedAt (bs : List Byte) (off len a : Nat) : Bool := leField bs off len % a == 0

/-- TILE body (10 Table 9). -/
def tileBodyOk (b : List Byte) : Bool :=
  bodyZeroBut b [(20, 21), (41, 3), (44, 6), (50, 3), (54, 6)] && leField b 20 21 != 0 && alignedAt b 44 6 32 &&
    alignedAt b 54 6 64 && decide (1 ≤ leField b 50 3) && decide (leField b 50 3 ≤ 524288)

/-- OPT body (10 Table 10); only an UPDATE uses STEP (05 R158, R163). -/
def optBodyOk (op : Nat) (b : List Byte) : Bool :=
  (op == 0 || leField b 44 8 == 0) &&
  bodyZeroBut b [(20, 21), (42, 2), (44, 8), (52, 6), (58, 6)] && leField b 20 21 != 0 && leField b 42 2 != 0 &&
    alignedAt b 52 6 64 && alignedAt b 58 6 64

/-- SCU body (10 Table 12, R328, 05 R154). -/
def scuBodyOk (op : Nat) (b : List Byte) : Bool :=
  bodyZeroBut b [(20, 8), (28, 1), (29, 1), (30, 2), (32, 2), (34, 6)] && decide (leField b 29 1 ≤ 1) && alignedAt b 34 6 64 &&
    (if op = 1 then leField b 30 2 == 0 && leField b 32 2 == 0 && leField b 34 6 == 0 && (leField b 29 1 == 1 || leField b 28 1 == 0)
     else leField b 28 1 == 0 && leField b 29 1 == 0 && (op != 0 || leField b 34 6 == 0))

/-- Two byte ranges overlap. -/
def rangesOverlap (a n b m : Nat) : Bool := decide (a < b + m) && decide (b < a + n)

/-- DMA body (10 Table 13, R330). -/
def dmaBodyOk (op : Nat) (b : List Byte) : Bool :=
  bodyZeroBut b [(20, 8), (28, 8), (36, 4), (40, 8)] &&
    (op == 1 || (leField b 40 8 == 0 && !rangesOverlap (leField b 20 8) (leField b 36 4 + 1) (leField b 28 8) (leField b 36 4 + 1)))

/-- NET body (11 Table 12): a field that the operation does not use is 0. -/
def netBodyOk (op : Nat) (b : List Byte) : Bool :=
  let remote := op == 0 || op == 1 || op == 4
  let imm := op == 1 || op == 3
  bodyZeroBut b [(20, 2), (24, 6), (32, 4), (36, 8), (44, 4), (48, 4)] && decide (leField b 32 4 ≤ 2 ^ 31) &&
    (remote || (leField b 36 8 == 0 && leField b 44 4 == 0)) && (imm || leField b 48 4 == 0) &&
    (op != 6 || (leField b 24 6 == 0 && leField b 32 4 == 0))

/-- FENCE body (11 Table 9). -/
def fenceBodyOk (b : List Byte) : Bool :=
  let mode := leField b 20 1
  bodyZeroBut b [(20, 1), (22, 2), (24, 6), (30, 6)] && decide (mode ≤ 1) && alignedAt b 24 6 2 &&
    (if mode = 0 then leField b 22 2 == 0 && leField b 24 6 == 0
     else decide (1 ≤ leField b 22 2) && decide (leField b 22 2 ≤ 4096))

/-- COLLECTIVE body: only its named fields are used, ROOT by REDUCE and BROADCAST alone, and formats and addresses by no BARRIER (12 R407 to R414). The chapter's own statuses cover its ranges. -/
def collBodyOk (op : Nat) (b : List Byte) : Bool :=
  if op ≤ 3 then (op == 1 || op == 2 || leField b 26 2 == 0) && (op != 3 || (leField b 22 4 == 0 && leField b 32 12 == 0)) && bodyZeroBut b [(20, 1), (21, 1), (22, 4), (26, 2), (28, 4), (32, 6), (38, 6)] && decide (leField b 21 1 < 8) &&
    alignedAt b 32 6 16 && alignedAt b 38 6 16
  else if op = 4 then bodyZeroBut b [(20, 1), (21, 1), (24, 4), (28, 4), (32, 6), (38, 6)]
  else if op = 5 then bodyZeroBut b [(20, 1), (24, 4), (28, 4), (32, 6), (38, 6), (44, 6), (50, 6), (56, 4)]
  else if op = 6 then bodyZeroBut b [(20, 8), (28, 4), (32, 6), (38, 6)]
  else bodyZeroBut b [(20, 8), (28, 4), (32, 6)]

/-- LAUNCH body: a LAUNCH does not use SCRUB, and a TEARDOWN neither START_DEGRADED nor MAX_FAIL (12 R419, R423, R424). -/
def launchBodyOk (op : Nat) (b : List Byte) : Bool :=
  (if op = 0 then !bitAt (leField b 36 1) 4 else leField b 36 1 % 16 == 0) &&
  bodyZeroBut b [(20, 2), (24, 4), (28, 2), (30, 3), (33, 3), (36, 1), (40, 6)] && decide (leField b 36 1 < 32) &&
    decide (fieldOf (leField b 36 1) 1 3 ≤ 4)

/-- PROOF body (14 Table 8). -/
def proofBodyOk (b : List Byte) : Bool :=
  bodyZeroBut b [(20, 8), (28, 2), (30, 2), (32, 6), (38, 6), (44, 4)] && decide (leField b 28 2 < 4096) &&
    decide (1 ≤ leField b 30 2) && decide (leField b 30 2 ≤ 4096) && alignedAt b 32 6 64 && alignedAt b 38 6 64 &&
    decide (leField b 44 4 ≤ 10000000)

/-- SEPIA body (13 Table 4). -/
def sepiaBodyOk (b : List Byte) : Bool :=
  bodyZeroBut b [(20, 8), (28, 4), (32, 4), (36, 8), (44, 4), (48, 1), (50, 6)] && decide (1 ≤ leField b 44 4) &&
    decide (leField b 44 4 ≤ 2 ^ 28) && decide (leField b 48 1 < 32) && fieldOf (leField b 48 1) 2 2 != 3 && (bitAt (leField b 48 1) 4 || leField b 20 8 == 0) && alignedAt b 50 6 16

/-- The descriptor's ENGINE and OP are defined and its body passes the checks of R328. The SNAPSHOT engine names its
own status for its body (14, before R476). -/
def bodyOk (b : List Byte) : Bool :=
  let op := leField b 2 2
  match leField b 0 1 with
  | 0x00 => op == 0 && bodyZeroBut b []
  | 0x01 => op == 0 && tileBodyOk b
  | 0x02 => decide (op ≤ 2) && optBodyOk op b
  | 0x03 => op == 0 && bodyZeroBut b [(20, 6)] && alignedAt b 20 6 64
  | 0x04 => op == 0 && bodyZeroBut b [(20, 8), (28, 6)] && alignedAt b 28 6 64
  | 0x05 => decide (op ≤ 3) && scuBodyOk op b
  | 0x06 => decide (op ≤ 1) && dmaBodyOk op b
  | 0x07 => decide (op ≤ 6) && netBodyOk op b
  | 0x08 => op == 0 && fenceBodyOk b
  | 0x09 => decide (op ≤ 8) && collBodyOk op b
  | 0x0A => decide (op ≤ 1) && launchBodyOk op b
  | 0x0B => decide (op ≤ 3)
  | 0x0C => op == 0 && proofBodyOk b
  | 0x0D => op == 0 && sepiaBodyOk b
  | _ => false

/-- FAILED_DESC_INVALID applies (10 R328). -/
def descInvalid (b : List Byte) : Bool := !(headerOk b && bodyOk b)

end Sys2Proof.Machine
end

