-- ==== Sys2Proof/Machine/Launch.lean ====
section
/-! DEFINITION. Launching and tearing down a job over its tree (12 R418 to R426). -/

namespace Sys2Proof.Machine

def St.launchAborted : BitVec 16 := 0x1002

/-! ### The tree and its packets -/

/-- The launch group of a launch payload (12 Table 9), with given holes. -/
def shapeTree (bs : List Byte) (holes : List Nat) : Tree :=
  ⟨leField bs 0 2 % 4096, (List.range 3).map (fun a => leField bs (2 + a) 1 + 1), (List.range 3).map (fun a => leField bs (5 + a) 1), holes⟩

/-- The tree of a launch. -/
def LaunchSt.tree (x : LaunchSt) : Tree := shapeTree x.shape []

/-- A launch of this node. -/
def launchOf (s : State) (job key : Nat) : Option LaunchSt := s.launches.find? (fun x => x.job == job && x.key == key)

/-- The state with a launch replaced or added. -/
def setLaunch (s : State) (x : LaunchSt) : State :=
  { s with launches := (s.launches.filter (fun y => !(y.job == x.job && y.key == x.key))) ++ [x] }

/-- A launch packet of a kind: its payload is the launch's, patched (12 Table 9). -/
def launchPkt (s : State) (x : LaunchSt) (kind phase : Nat) (payload : List Byte) : MPacket :=
  ⟨BitVec.ofNat 12 (nodeId s), BitVec.ofNat 16 x.job, BitVec.ofNat 32 x.key, 0, BitVec.ofNat 4 kind, BitVec.ofNat 2 phase, 0, 0, 0, 0, 0, false, payload,
    BitVec.ofNat 3 (x.part.getD 0), false, 0, BitVec.ofNat 16 (routeEpoch s), 0, 0⟩

/-- A launch packet to a node. -/
def launchSend (s : State) (x : LaunchSt) (dest kind phase : Nat) (payload : List Byte) : State :=
  sendMordant s dest (launchPkt s x kind phase payload)

/-- Members in the subtree of a node (12 R420). -/
def underNode (s : State) (t : Tree) (n : Nat) : Nat :=
  let rec onPath : Nat → Place3 → Bool
    | 0, _ => false
    | f + 1, p => t.node s p == n || (match t.step s p with | some q => onPath f q | none => false)
  ((List.range t.size).filter (fun r => onPath 64 (t.place r))).length

/-- A child not heard of yet. -/
def LaunchKid.start (n : Nat) : LaunchKid := ⟨n, false, none⟩

/-- A child's report accounts for its whole subtree. -/
def kidDone (s : State) (x : LaunchSt) (k : LaunchKid) : Bool :=
  match k.counts with | some (p, f, _, _) => p + f == underNode s x.tree k.node | none => false

/-- The kind of packet that travels down in a phase: PREPARE, COMMIT or TEARDOWN. -/
def downKind (phase : Nat) : Nat := if phase = 0 then 8 else if phase = 1 then 12 else 14

/-- The counts of a node's subtree: prepared, failed, busy, refused (12 R421). -/
def launchCounts (x : LaunchSt) : Nat × Nat × Nat × Nat :=
  x.kids.foldl (fun c k => match k.counts with
    | some (p, f, b, r) => (c.1 + p, c.2.1 + f, c.2.2.1 + b, c.2.2.2 + r)
    | none => c)
    (b2n (x.answer == 1), b2n (3 ≤ x.answer : Bool) + x.lost, b2n x.busy, b2n (x.answer == 3))

/-! ### The commit of a launch or teardown at a node -/

/-- A shadowed word set in the shadow and live at once. -/
def setBoth (s : State) (off v : Nat) : State := setReg (setShadow s (okey off) v) (okey off) v

/-- The end of a commit that a launch makes: tags, group numbering, the epoch and the measurement (12 R423, 15 R495, R500). -/
def launchCommitEnd (old s : State) : State := extendMeas (bumpPrtEpoch { resetGroups old (setTags s) with locked := true })

/-- The two words of a group that a launch block installs (12 Table 6, MOR_GROUP_n). -/
def blockGroup (b : List Byte) (i entry : Nat) (holes : List Nat) : Nat × Nat :=
  let o := 32 + 16 * i
  let f := leField b
  (1 + f (o + 1) 1 % 4 * 2 + entry * 256 + f (o + 2) 2 % 4096 * 2 ^ 16 +
    ((List.range 3).map (fun a => f (o + 4 + a) 1 % 16 * 2 ^ (32 + 4 * a) + f (o + 7 + a) 1 % 16 * 2 ^ (44 + 4 * a))).foldl (· + ·) 0,
    (holes.zipIdx.map (fun h => h.1 * 2 ^ (12 * h.2))).foldl (· + ·) 0 + holes.length * 2 ^ 48)

/-- The node's entry becomes LIVE, the partition is bound and the block's groups are installed (12 R423). -/
def launchCommit (s : State) (x : LaunchSt) (holes : List Nat) : State :=
  match x.part, x.entry with
  | some p, some e =>
    let f := leField x.block
    let o := Reg.fabJob + 32 * e
    let s1 := setBoth (setBoth (setBoth s o (1 + 4 * p + f 3 1 % 16 * 32 + x.job * 2 ^ 16 + x.key * 2 ^ 32)) (o + 8) (f 8 8)) (o + 16) (f 16 8 / 0x200000)
    let s2 := setBoth s1 (Reg.fabPartJob + 8 * p) (e + 64)
    let s3 := (List.range (f 2 1)).foldl (fun s i =>
      let g := Reg.morGroup + 32 * f (32 + 16 * i) 1
      let w := blockGroup x.block i e holes
      setBoth (setBoth s g w.1) (g + 8) w.2) s2
    launchCommitEnd s (setRfld s3 (okey (Reg.morAdmit + 16 * p)) 17 2 2)
  | _, _ => s

/-- The LIVE entry of a job and key (12 R424). -/
def liveEntry (s : State) (job key : Nat) : Option Nat :=
  (List.range 64).find? (fun n =>
    let w := reg s (okey (Reg.fabJob + 32 * n))
    fieldOf w 0 2 == 1 && fieldOf w 16 16 == job && fieldOf w 32 32 == key)

/-- The node's entry becomes RETIRED, the partition is unbound, and the entry's groups are in use no longer (12 R424, R401; log entry 27). -/
def teardownCommit (s : State) (x : LaunchSt) : State :=
  match liveEntry s x.job x.key with
  | none => s
  | some e =>
    let w := reg s (okey (Reg.fabJob + 32 * e))
    let p := fieldOf w 2 3
    let s1 := setBoth s (Reg.fabJob + 32 * e) (setFieldOf w 0 2 2)
    let b := reg s (okey (Reg.fabPartJob + 8 * p))
    let s2 := if bitAt b 6 && fieldOf b 0 6 == e then setBoth s1 (Reg.fabPartJob + 8 * p) (setFieldOf b 6 1 0) else s1
    let s3 := (List.range 256).foldl (fun s g =>
      let v := groupWord s g
      if bitAt v 0 && fieldOf v 8 6 == e then setBoth s (Reg.morGroup + 32 * g) (setFieldOf v 0 1 0) else s) s2
    launchCommitEnd s (setRfld s3 (okey (Reg.morAdmit + 16 * p)) 17 2 (if bitAt (leField x.shape 8 1) 4 then 3 else 0))

/-- Holes of a COMMIT payload (12 Table 9). -/
def payloadHoles (bs : List Byte) : List Nat := (List.range (min 4 (leField bs 34 1))).map (fun i => leField bs (36 + 2 * i) 2 % 4096)

/-- The commit that a node owes is made, unless another one is in progress (15 R497). -/
def launchDo (s : State) (x : LaunchSt) : State × LaunchSt :=
  if grantBusy s then (s, { x with due := true })
  else
    let t := if x.phase = 1 then launchCommit s x (payloadHoles x.shape) else teardownCommit s x
    (t, { x with due := false, answer := 1 })

/-! ### Reports and decisions -/

/-- The failed nodes as a bitmap of 512 bytes (12 R419, R421). -/
def failMap (failed : List Nat) : List Byte := leBytes 512 (maskOf failed)

/-- DETAIL: the failed nodes and the nodes that were BUSY (12 R423). -/
def launchDetail (x : LaunchSt) (busy : Nat) : Nat := x.failed.length + busy * 2 ^ 32

/-- The root's descriptor ends, with FAILMAP written. -/
def launchFinish (s : State) (x : LaunchSt) (st : BitVec 16) (busy : Nat) : State :=
  match x.root with
  | none => s
  | some (r, seq) => match findDesc s r seq with
    | none => s
    | some d => match writeVa s d.part (d.fld 40 6) (failMap x.failed) with
      | .error e => endMem s r d St.dmaAddress e (launchDetail x busy)
      | .ok s1 => if st == St.ok then settleAll (completeOne s1 r d St.ok (launchDetail x busy) false) else endDesc s1 r d st (launchDetail x busy)

/-- A reservation is released. -/
def launchRelease (s : State) (x : LaunchSt) : State :=
  let s1 := { s with launches := s.launches.filter (fun y => !(y.job == x.job && y.key == x.key)) }
  match x.part with
  | some p => if x.answer = 1 then setRfld s1 (okey (Reg.morAdmit + 16 * p)) 17 2 0 else s1
  | none => s1

/-- ABORT goes down the tree, and this node releases its reservation (12 R423). -/
def launchAbortAll (s : State) (x : LaunchSt) : State :=
  x.kids.foldl (fun s k => launchSend s x k.node 13 1 x.shape) (launchRelease s x)

/-- COMMIT goes down the tree with the failed nodes as holes, and this node commits (12 R423). -/
def launchCommitAll (s : State) (x : LaunchSt) (payload : List Byte) : State × LaunchSt :=
  let kids := (shapeTree payload (payloadHoles payload)).kids s (nodeId s)
  let y := { x with phase := 1, shape := payload, kids := kids.map LaunchKid.start, lost := 0, told := false }
  let s1 := kids.foldl (fun s k => launchSend s y k 12 1 payload) s
  if x.answer = 1 then launchDo s1 { y with answer := 0 } else (s1, y)

/-- Bytes 34 to 43 of a COMMIT payload. -/
def holesPayload (shape : List Byte) (failed : List Nat) : List Byte :=
  patchBytes shape 34 ([BitVec.ofNat 8 failed.length, 0#8] ++ ((failed ++ [0, 0, 0, 0]).take 4).flatMap (leBytes 2))

/-- The launch is one of a root whose descriptor has been stopped (10 R325, R340). -/
def launchOrphan (s : State) (x : LaunchSt) : Bool :=
  x.parent.isNone && (match x.root with | some (r, seq) => (findDesc s r seq).isNone | none => true)

/-- What a node does once it has its own answer and every child's report: it reports up; the root ends the phase when every member is
accounted for and every failure has its notice (12 R421 to R424). A root whose descriptor has been stopped before COMMIT sends ABORT (log entry 27).
`f` bounds the phases that can end at once. -/
def launchUp : Nat → State → LaunchSt → State
  | 0, s, x => setLaunch s x
  | f + 1, s, x =>
    let c := launchCounts x
    if x.phase = 0 && launchOrphan s x then launchAbortAll s x
    else if x.answer = 0 || x.due || !x.kids.all (fun k => k.counts.isSome) then setLaunch s x
    else match x.parent, x.root with
    | some p, _ =>
      launchSend (setLaunch s { x with told := true }) x p 10 0
        (patchBytes x.shape 16 (leBytes 4 c.1 ++ leBytes 4 c.2.1 ++ leBytes 4 c.2.2.1 ++ leBytes 4 c.2.2.2))
    | none, none => setLaunch s x
    | none, some _ =>
      if x.phase = 1 then launchFinish (setLaunch s { x with told := true }) x St.ok x.lost
      else if c.1 + c.2.1 ≠ x.tree.size || x.failed.length ≠ c.2.1 then setLaunch s x
      else if x.phase = 2 then launchFinish (setLaunch s { x with told := true }) x St.ok c.2.2.1
      else
        let fl := leField x.shape 8 1
        if bitAt fl 0 && decide (c.2.1 ≤ fieldOf fl 1 3) then
          let r := launchCommitAll s x (holesPayload x.shape x.failed)
          launchUp f r.1 { r.2 with lost := c.2.2.1 }
        else launchFinish (launchAbortAll s x) x St.launchAborted c.2.2.1

/-- The node's launch goes on. -/
def launchGo (s : State) (x : LaunchSt) : State := launchUp 2 s x

/-- Launches whose commit waited go on once no other commit or handover is in progress (15 R497). -/
def launchWake (s : State) : State :=
  (s.launches.filter (fun x => x.due)).foldl (fun s x => if grantBusy s then s else
    let r := launchDo s x
    launchGo r.1 r.2) s

/-! ### Preparation -/

/-- The launch block is sound (12 Table 6, R401). -/
def blockOk (s : State) (b : List Byte) (job : Nat) : Bool :=
  let f := leField b
  f 0 2 == job && decide (f 2 1 ≤ 16) && decide (f 3 1 < 16) && f 8 8 % 0x200000 == 0 && decide (f 8 8 < 2 ^ 48) && f 16 8 % 0x200000 == 0 &&
    (List.range (f 2 1)).all (fun i =>
      let o := 32 + 16 * i
      let t : Tree := ⟨f (o + 2) 2, (List.range 3).map (fun a => f (o + 4 + a) 1 + 1), (List.range 3).map (fun a => f (o + 7 + a) 1), []⟩
      decide (f (o + 1) 1 < 4) && decide (f (o + 2) 2 < 4096) && t.ext.all (fun e => decide (e ≤ 16)) && t.fits s &&
        (!bitAt (f (o + 1) 1) 1 || t.tensorOk) && f (o + 10) 6 == 0)

/-- The partition that admits a job (12 R418). -/
def admitting (s : State) (job : Nat) : Option Nat :=
  (partsOf s).find? (fun p => ofld s (Reg.morAdmit + 16 * p) 0 17 == job + 65536)

/-- The FREE entry that a launch reserves: the lowest one that no launch has reserved. -/
def freeEntry (s : State) : Option Nat :=
  (List.range 64).find? (fun n => ofld s (Reg.fabJob + 32 * n) 0 2 == 0 && !s.launches.any (fun x => x.phase == 0 && x.entry == some n))

/-- A RETIRED entry has the job and key. -/
def retiredSame (s : State) (job key : Nat) : Bool :=
  (List.range 64).any (fun n =>
    let w := reg s (okey (Reg.fabJob + 32 * n))
    fieldOf w 0 2 == 2 && fieldOf w 16 16 == job && fieldOf w 32 32 == key)

/-- The answer of a node that prepares (12 R420, R422). -/
def launchAnswer (s : State) (x : LaunchSt) : LaunchSt :=
  match admitting s x.job with
  | none => { x with answer := 3 }
  | some p =>
    if retiredSame s x.job x.key then { x with answer := 3 }
    else if ofld s (Reg.morAdmit + 16 * p) 17 2 = 3 then { x with answer := 2, busy := true }
    else
      let a := ofld s (Reg.morAdmit + 16 * p + 8) 6 42 * 64
      match readVa s p a 32 with
      | .error _ => { x with answer := 3 }
      | .ok h => match readVa s p a (32 + 16 * min 16 (leField h 2 1)) with
        | .error _ => { x with answer := 3 }
        | .ok b =>
          if !blockOk s b x.job then { x with answer := 3 }
          else match freeEntry s with
            | none => { x with answer := 2, busy := true }
            | some e => { x with answer := 1, part := some p, entry := some e, block := b }

/-- A notice naming a failed node goes to the root (12 R421; a refused node names itself, log entry 27). -/
def launchNotice (s : State) (x : LaunchSt) (n : Nat) : State × LaunchSt :=
  if x.root.isSome then (s, if x.failed.contains n then x else { x with failed := x.failed ++ [n] })
  else (launchSend s x (x.tree.rootNode s) 11 0 (patchBytes x.shape 32 (leBytes 2 n)), x)

/-- LAUNCH_PREPARED: the node has prepared (12 R420). -/
def launchPrepared (job key : Nat) (s : State) : State :=
  match launchOf s job key with
  | none => s
  | some x =>
    if x.phase ≠ 0 || x.answer ≠ 0 || !alive s then s
    else
      let y := launchAnswer s x
      let s1 := match y.answer, y.part with | 1, some p => setRfld s (okey (Reg.morAdmit + 16 * p)) 17 2 1 | _, _ => s
      let r := if y.answer = 3 then launchNotice s1 y (nodeId s) else (s1, y)
      launchGo r.1 r.2

/-- A node that is BUSY and every child whose report is incomplete are asked again (12 R422). -/
def launchAgain (s : State) (x : LaunchSt) : State × LaunchSt :=
  let ask := x.kids.filter (fun k => !kidDone s x k)
  (ask.foldl (fun s k => launchSend s x k.node 8 1 x.shape) s,
    { x with answer := if x.answer = 2 then 0 else x.answer, kids := x.kids.map (fun k => if kidDone s x k then k else LaunchKid.start k.node) })

/-- A launch at this node starts in a phase: its packet goes on to the children (12 R420, R424). -/
def launchStart (s : State) (job key phase : Nat) (shape : List Byte) (parent : Option Nat) (root : Option (Nat × BitVec 32)) : State × LaunchSt :=
  let kids := (shapeTree shape []).kids s (nodeId s)
  let x : LaunchSt := ⟨job, key, shape, phase, 0, false, none, none, parent, kids.map LaunchKid.start, 0, root, [], [], false, false⟩
  (kids.foldl (fun s k => launchSend s x k (downKind phase) 1 shape) s, x)

/-- PREPARE: it goes on to the children and is acknowledged; a node asked again repeats its answer (12 R420). -/
def preparePkt (k : MPacket) (s : State) : State :=
  let src := k.src.toNat
  if !alive s || s.tapHeld || k.kind ≠ 8 || ((shapeTree k.payload []).rank s (nodeId s)).isNone || !(shapeTree k.payload []).fits s then s
  else match launchOf s k.job.toNat k.key.toNat with
    | some x =>
      if x.phase = 2 then
        let r := launchStart s k.job.toNat k.key.toNat 0 k.payload (some src) none
        launchGo (launchSend r.1 r.2 src 9 0 []) r.2
      else
        let s1 := launchSend s x src 9 0 []
        if x.phase = 0 then
          let r := launchAgain s1 { x with parent := some src }
          launchGo r.1 r.2
        else s1
    | none =>
      let r := launchStart s k.job.toNat k.key.toNat 0 k.payload (some src) none
      launchGo (launchSend r.1 r.2 src 9 0 []) r.2

/-! ### Packets from the children -/

/-- A child of a launch, by its node. -/
def updKid (x : LaunchSt) (n : Nat) (f : LaunchKid → LaunchKid) : LaunchSt :=
  { x with kids := x.kids.map (fun k => if k.node = n then f k else k) }

/-- LAUNCH_ACK (12 R420). -/
def ackLaunch (k : MPacket) (s : State) : State :=
  match launchOf s k.job.toNat k.key.toNat with
  | none => s
  | some x => if !alive s || k.kind ≠ 9 then s else setLaunch s (updKid x k.src.toNat (fun c => { c with acked := true }))

/-- REPORT (12 R421). -/
def reportPkt (k : MPacket) (s : State) : State :=
  match launchOf s k.job.toNat k.key.toNat with
  | none => s
  | some x =>
    if !alive s || k.kind ≠ 10 || !x.kids.any (fun c => c.node == k.src.toNat) then s
    else
      let f := fun o => leField k.payload o 4
      launchGo s (updKid x k.src.toNat (fun c => { c with acked := true, counts := some (f 16, f 20, f 24, f 28) }))

/-- NOTICE: the root records the failed node (12 R421). -/
def noticePkt (k : MPacket) (s : State) : State :=
  match launchOf s k.job.toNat k.key.toNat with
  | none => s
  | some x =>
    if !alive s || k.kind ≠ 11 || x.root.isNone || x.phase = 1 then s
    else
      let r := launchNotice s x (leField k.payload 32 2 % 4096)
      launchGo r.1 r.2

/-- A child is silent: the root hears of it, and its children are adopted (12 R420, R421). -/
def launchSilent (s : State) (x : LaunchSt) (n : Nat) : State :=
  let adopted := x.tree.kids s n
  let y := { x with lost := x.lost + 1, kids := x.kids.filter (fun k => k.node != n) ++ adopted.map LaunchKid.start }
  let s1 := adopted.foldl (fun s k => launchSend s y k (downKind y.phase) 1 y.shape) s
  let r := launchNotice s1 y n
  launchGo r.1 r.2

/-- A timeout of a child that satisfies a test; only PREPARE and TEARDOWN have acknowledgements (12 R420, R424). -/
def launchTimeout (job key n : Nat) (f : LaunchKid → Bool) (s : State) : State :=
  match launchOf s job key with
  | none => s
  | some x => if alive s && x.phase != 1 && x.kids.any (fun k => k.node == n && f k) then launchSilent s x n else s

/-! ### Commit, abort and teardown -/

/-- COMMIT (12 R423). -/
def commitPkt (k : MPacket) (s : State) : State :=
  match launchOf s k.job.toNat k.key.toNat with
  | none => s
  | some x =>
    if !alive s || s.tapHeld || k.kind ≠ 12 || x.phase ≠ 0 || x.answer ≠ 1 then s
    else
      let r := launchCommitAll s { x with parent := some k.src.toNat } k.payload
      launchGo r.1 r.2

/-- LAUNCH_ABORT (12 R423). -/
def abortPkt (k : MPacket) (s : State) : State :=
  match launchOf s k.job.toNat k.key.toNat with
  | none => s
  | some x => if !alive s || s.tapHeld || k.kind ≠ 13 || x.phase ≠ 0 then s else launchAbortAll s x

/-- TEARDOWN_PACKET (12 R424). -/
def teardownPkt (k : MPacket) (s : State) : State :=
  let src := k.src.toNat
  if !alive s || s.tapHeld || k.kind ≠ 14 || ((shapeTree k.payload []).rank s (nodeId s)).isNone then s
  else match launchOf s k.job.toNat k.key.toNat with
    | some x =>
      if x.phase = 2 then launchGo (launchSend s x src 9 0 []) { x with parent := some src }
      else
        let r := launchStart s k.job.toNat k.key.toNat 2 k.payload (some src) none
        let t := launchDo (launchSend r.1 r.2 src 9 0 []) r.2
        launchGo t.1 t.2
    | none =>
      let r := launchStart s k.job.toNat k.key.toNat 2 k.payload (some src) none
      let t := launchDo (launchSend r.1 r.2 src 9 0 []) r.2
      launchGo t.1 t.2

/-! ### Descriptors -/

/-- The launch payload of a descriptor (12 R419, Table 9); SCRUB travels in bit 4 of FLAGS (log entry 27). -/
def launchShape (d : Desc) : List Byte :=
  layoutBytes 64 [(0, 2, d.fld 28 2), (2, 3, d.fld 30 3), (5, 3, d.fld 33 3), (8, 1, d.fld 36 1 % 32)]

/-- The body of a LAUNCH or TEARDOWN is valid, and this package is the root of its group (12 R419). -/
def launchDescOk (s : State) (d : Desc) : Bool :=
  let t := shapeTree (launchShape d) []
  decide (d.fld 28 2 < 4096) && t.ext.all (fun e => decide (e ≤ 16)) && t.fits s && decide (d.fld 36 1 < 32) && decide (fieldOf (d.fld 36 1) 1 3 ≤ 4) &&
    t.rootNode s == nodeId s

/-- LAUNCH: PREPARE leaves the root (12 R419, R420). -/
def launchDescriptor (r : Nat) (seq : BitVec 32) (s : State) : State :=
  match startable s r seq 0x0A 0 with
  | none => s
  | some d =>
    if !launchDescOk s d then endDesc s r d St.collInvalid 0
    else
      let t := launchStart (startWork s r d .idle) (d.fld 20 2) (d.fld 24 4) 0 (launchShape d) none (some (r, seq))
      launchGo t.1 t.2

/-- TEARDOWN (12 R424). -/
def teardownDescriptor (r : Nat) (seq : BitVec 32) (s : State) : State :=
  match startable s r seq 0x0A 1 with
  | none => s
  | some d =>
    if !launchDescOk s d then endDesc s r d St.collInvalid 0
    else
      let t := launchStart (startWork s r d .idle) (d.fld 20 2) (d.fld 24 4) 2 (launchShape d) none (some (r, seq))
      let u := launchDo t.1 t.2
      launchGo u.1 u.2

/-- LAUNCH_BUSY_RETRY: the root asks the busy nodes again (12 R422). -/
def busyRetry (job key : Nat) (s : State) : State :=
  match launchOf s job key with
  | none => s
  | some x =>
    if !alive s || x.parent.isSome || x.phase ≠ 0 then s
    else
      let r := launchAgain s x
      launchGo r.1 r.2

/-- LAUNCH_BUSY_EXPIRY: a node that is still BUSY after 10 ms counts as failed (12 R422). -/
def busyExpiry (job key n : Nat) (s : State) : State :=
  match launchOf s job key with
  | none => s
  | some x =>
    if !alive s || x.phase ≠ 0 || !x.busy || !(x.answer = 2 || x.answer = 0) || n ≠ nodeId s then s
    else
      let r := launchNotice s { x with answer := 4 } n
      launchGo r.1 r.2

/-! ### The scrub -/

/-- The parts of a virtual range that a partition's page table maps to this package's memory, as (in HBM, first place, bytes), HBM by DPA (15
R491). -/
def mappedParts (s : State) (p lo hi : Nat) : List (Nat × Nat × Nat) → Nat → Nat → List (Bool × Nat × Nat)
  | [], _, _ => []
  | (lvl, sh, n) :: rest, table, base =>
    (List.range (2 ^ n)).flatMap (fun i =>
      let a := base + i * 2 ^ sh
      if hi ≤ a || a + 2 ^ sh ≤ lo then []
      else match pteAt s (table + 8 * i) with
      | none => []
      | some e =>
        if !bitAt e 0 then []
        else if bitAt e 1 then
          let from' := max lo a
          let len := min hi (a + 2 ^ sh) - from'
          match leafPlace s p lvl (2 ^ sh) (e ||| 12) from' .w with
          | some (.mem k) => [if isHbm k then (true, fieldOf e 16 24 * 0x10000 + (from' - a), len) else (false, k, len)]
          | _ => []
        else mappedParts s p lo hi rest (fieldOf e 12 28 * 4096) a)

/-- The bytes of a partition's virtual range zeroed (12 R424). -/
def zeroWindow (s : State) (p lo hi : Nat) : State :=
  let parts := mappedParts s p lo hi [(0, 39, 9), (1, 30, 9), (2, 21, 9), (3, 16, 5)] (ofld s (Reg.prtPartCfg + 0x40 * p + 8) 0 28 * 4096) 0
  let hit := fun key =>
    match (if isHbm key then dpaOf s key else none) with
    | some (n, dpa) => holdsRegion s p n && parts.any (fun x => x.1 && decide (x.2.1 ≤ dpa) && decide (dpa < x.2.1 + x.2.2))
    | none => parts.any (fun x => !x.1 && decide (x.2.1 ≤ key) && decide (key < x.2.1 + x.2.2))
  { s with mem := s.mem.filter (fun e => !hit e.1), bad := s.bad.filter (fun x => !hit (32 * x)) }

/-- The partition of an entry, while it is RETIRED. -/
def retiredPart (s : State) (e : Nat) : Option Nat :=
  let w := reg s (okey (Reg.fabJob + 32 * e))
  if fieldOf w 0 2 = 2 then some (fieldOf w 2 3) else none

/-- JOB_SCRUB_DONE: the exported window of a retired entry is zero (12 R424). -/
def jobScrubDone (e : Nat) (s : State) : State :=
  match retiredPart s e with
  | none => s
  | some p =>
    if ofld s (Reg.morAdmit + 16 * p) 17 2 ≠ 3 || !alive s then s
    else
      let lo := ofld s (Reg.fabJob + 32 * e + 8) 21 27 * 0x200000
      setRfld (zeroWindow s p lo (lo + ofld s (Reg.fabJob + 32 * e + 16) 0 27 * 0x200000)) (okey (Reg.morAdmit + 16 * p)) 17 2 0

/-- JOB_ENTRY_FREE: 10 ms after its retirement, its scrub ended, an entry becomes FREE (12 R424). -/
def jobEntryFree (e : Nat) (s : State) : State :=
  match retiredPart s e with
  | none => s
  | some p =>
    if ofld s (Reg.morAdmit + 16 * p) 17 2 = 3 || !alive s then s
    else setBoth s (Reg.fabJob + 32 * e) (setFieldOf (reg s (okey (Reg.fabJob + 32 * e))) 0 2 0)

/-! ### Meanings -/

/-- LAUNCH. -/
def execLaunch (r : Nat) (seq : BitVec 32) (s : State) : Host.Outcome State Fault Refusal := onUnit (r < 4096) (launchDescriptor r seq s)
/-- TEARDOWN. -/
def execTeardown (r : Nat) (seq : BitVec 32) (s : State) : Host.Outcome State Fault Refusal := onUnit (r < 4096) (teardownDescriptor r seq s)
/-- LAUNCH_PREPARED. -/
def execLaunchPrepared (job : BitVec 16) (key : BitVec 32) (s : State) : Host.Outcome State Fault Refusal := .next (launchPrepared job.toNat key.toNat s)
/-- LAUNCH_ACK_TIMEOUT: no acknowledgement within 50 µs (12 R420). -/
def execLaunchAckTimeout (job : BitVec 16) (key : BitVec 32) (node : BitVec 12) (s : State) : Host.Outcome State Fault Refusal :=
  .next (launchTimeout job.toNat key.toNat node.toNat (fun k => !k.acked) s)
/-- LAUNCH_REPORT_TIMEOUT: no report within the limit (12 R420). -/
def execLaunchReportTimeout (job : BitVec 16) (key : BitVec 32) (node : BitVec 12) (s : State) : Host.Outcome State Fault Refusal :=
  .next (launchTimeout job.toNat key.toNat node.toNat (fun k => k.counts.isNone) s)
/-- LAUNCH_BUSY_RETRY. -/
def execLaunchBusyRetry (job : BitVec 16) (key : BitVec 32) (s : State) : Host.Outcome State Fault Refusal := .next (busyRetry job.toNat key.toNat s)
/-- LAUNCH_BUSY_EXPIRY. -/
def execLaunchBusyExpiry (job : BitVec 16) (key : BitVec 32) (node : BitVec 12) (s : State) : Host.Outcome State Fault Refusal :=
  .next (busyExpiry job.toNat key.toNat node.toNat s)
/-- JOB_SCRUB_DONE. -/
def execJobScrubDone (e : Nat) (s : State) : Host.Outcome State Fault Refusal := onUnit (e < 64) (jobScrubDone e s)
/-- JOB_ENTRY_FREE. -/
def execJobEntryFree (e : Nat) (s : State) : Host.Outcome State Fault Refusal := onUnit (e < 64) (jobEntryFree e s)
/-- COMMIT_RELEASE_DONE; launches that waited for the commit go on. -/
def execCommitReleaseDone (s : State) : Host.Outcome State Fault Refusal := .next (launchWake (commitReleaseDone s))
/-- PBANK_ZERO_DONE; launches that waited for the handover go on. -/
def execPbankZeroDone (d b : Nat) (s : State) : Host.Outcome State Fault Refusal := onUnit (d < 2 && b < 64) (launchWake (pbankZeroDone d b s))

end Sys2Proof.Machine
end

