-- ==== Sys2Proof/Machine/Snap.lean ====
section
/-! DEFINITION. The copy engines' bursts, snapshots to a buddy, digests and signatures, and Proof (10 R330, 14 R468 to R482). -/

namespace Sys2Proof.Machine

def St.proofMismatch : BitVec 16 := 0x1200
def St.proofShape : BitVec 16 := 0x1201
def St.proofTimeout : BitVec 16 := 0x1202
def St.slotInvalid : BitVec 16 := 0x1204
def St.snapshotInvalid : BitVec 16 := 0x1205

/-- The snapshot work of a descriptor. -/
def snapWorkOf (d : Desc) : Option SnapWork := match d.work with | .snap w => some w | _ => none

/-- The state with a descriptor's snapshot work replaced. -/
def setSnapWork (s : State) (r : Nat) (d : Desc) (w : SnapWork) : State := setDesc s r { d with work := .snap w }

/-- A SNAPSHOT descriptor ends OK. -/
def snapOk (s : State) (r : Nat) (d : Desc) : State := settleAll (completeOne s r d St.ok 0 false)

/-- Bytes for the slot of another node, or of this node's own window (11 R360). -/
def slotSend (s : State) (r : Nat) (d : Desc) (w : SnapWork) (off : Nat) (bs : List Byte) : Except MemErr (State × SnapWork) :=
  let node := d.fld 28 2 % 4096
  if node = nodeId s then (writeVa s d.part (exportVa s d.part + slotOffset d + off) bs).map (fun t => (t, w))
  else .ok ({ s with vatQueue := s.vatQueue ++ [⟨d.part, .engine r d.seq, w.engine / 4, node, slotOffset d + off, false, 1, bs.length, bs⟩] },
    { w with acks := w.acks + 1 })

/-- SNAP copies to a local slot, and to a remote one. -/
def snapToLocal (d : Desc) : Bool := bitAt (d.fld 30 1) 0
def snapToRemote (d : Desc) : Bool := bitAt (d.fld 30 1) 1

/-- Bytes for the slots that a SNAP writes. -/
def slotPut (s : State) (r : Nat) (d : Desc) (w : SnapWork) (loc rem : Bool) (off : Nat) (bs : List Byte) : Except MemErr (State × SnapWork) := do
  let s1 ← if loc then writeVa s d.part (slotLocal d + off) bs else .ok s
  if rem then slotSend s1 r d w off bs else .ok (s1, w)

/-- The slot fields that a SNAP or RESTORE does not use are 0: LSLOT without a local slot, NODE and RSLOT of a SNAP without a remote one, RSLOT of a RESTORE from
a local slot (14 Table 10, 10 R328). -/
def snapUnusedZero (d : Desc) : Bool :=
  let loc := bitAt (d.fld 30 1) 0
  let rem := if d.op = 0 then bitAt (d.fld 30 1) 1 else !loc
  (loc || d.fld 40 6 == 0) && (rem || d.fld 46 6 == 0) && (rem || d.op == 1 || d.fld 28 2 == 0)

/-- The body of a SNAP or RESTORE keeps to Table 10; a local slot is of this node. -/
def snapBodyOk (s : State) (d : Desc) : Bool :=
  let fl := d.fld 30 1
  bodyZeroBut d.bytes [(20, 8), (28, 2), (30, 1), (32, 6), (38, 2), (40, 6), (46, 6), (52, 4)] && snapUnusedZero d &&
    decide (d.fld 28 2 < 4096) && (if d.op = 0 then decide (1 ≤ fl) && decide (fl ≤ 3) else decide (fl = 0) || (decide (fl = 1) && d.fld 28 2 == nodeId s)) &&
    d.fld 32 6 % 16 == 0 && decide (1 ≤ d.fld 38 2) && decide (d.fld 38 2 ≤ 256)

/-- The region list keeps to R476, and its data fit a slot. -/
def partsOk (d : Desc) (l : List (Nat × Nat)) : Bool :=
  l.all (fun x => x.1 % 65536 == 0 && x.2 % 65536 == 0) && decide (65536 + partTotal l ≤ d.fld 52 4 * 65536)

/-- The data of the regions. -/
def readParts (s : State) (p : Nat) : List (Nat × Nat) → Except MemErr (List Byte)
  | [] => .ok []
  | (a, n) :: rest => match readVa s p a n, readParts s p rest with
    | .ok b, .ok bs => .ok (b ++ bs)
    | .error e, _ => .error e
    | _, .error e => .error e

/-- The start of a SNAP or RESTORE: its region list is read. -/
def snapBegin (r : Nat) (seq : BitVec 32) (op : Nat) (s : State) (k : Desc → Nat → List (Nat × Nat) → State) : State :=
  match startable s r seq 0x0B op with
  | none => s
  | some d =>
    if !snapBodyOk s d then endDesc s r d St.snapshotInvalid 0
    else match readVa s d.part (d.fld 32 6) (16 * d.fld 38 2) with
    | .error e => endMem s r d St.dmaAddress e 0
    | .ok bs =>
      let l := regionList (d.fld 38 2) bs
      if !partsOk d l then endDesc s r d St.snapshotInvalid 0
      else match copyPlace s d.part with
        | none => endFenced s r d
        | some e => k d e l

/-- SNAP: the target slot becomes invalid, and every block of the regions is protected with the data it holds now (14 R477, R478; the
engine copies that data, log entry 29). A second SNAP of a partition waits (14 R479). -/
def snapStart (r : Nat) (seq : BitVec 32) (s : State) : State :=
  match startable s r seq 0x0B 0 with
  | none => s
  | some d0 =>
    if (snapOf s d0.part).isSome then s
    else snapBegin r seq 0 s (fun d e l =>
      match readParts s d.part l with
      | .error er => endMem s r d St.dmaAddress er 0
      | .ok data =>
        let h := slotHeader (snapStep d) (detSignature s d.part) (ofld s Reg.fabId 0 18) l data
        let s1 := setSnap (startWork s r d .idle) d.part (some ⟨r, seq, List.range (data.length / 65536), []⟩)
        match findDesc s1 r seq with
        | none => s
        | some d1 => match slotPut s1 r d1 ⟨e, 0, l, data, [], h, 0, 0⟩ (snapToLocal d) (snapToRemote d) commitOff (leBytes 8 0) with
          | .error er => endMem s1 r d1 St.dmaAddress er 0
          | .ok (s2, w) => setSnapWork s2 r d1 w)

/-- The header and COMMIT of a slot whose data are there; COMMIT of a remote slot follows the fence (14 R477, R479). -/
def snapCommit (s : State) (r : Nat) (d : Desc) (w : SnapWork) : Except MemErr (State × SnapWork) := do
  let x ← slotPut s r d w (snapToLocal d) (snapToRemote d) 0 w.header
  let y ← slotPut x.1 r d x.2 (snapToLocal d) false commitOff (commitWord d)
  .ok (y.1, { y.2 with stage := 2 })

/-- The block that the engine copies next: one that a write waits for, oldest first, or the next in list order (14 R478). -/
def nextBlock (w : Snap) (parts : List (Nat × Nat)) : Option Nat :=
  match w.stalled.findSome? (fun x => w.blocks.find? (fun b =>
    let a := partAddr parts (65536 * b)
    decide (x.1 < a + 65536) && decide (a < x.1 + x.2.length))) with
  | some b => some b
  | none => w.blocks.head?

/-- One burst of a SNAP's data: 4 KiB of the block in work; a block that is copied is protected no longer. -/
def snapData (s : State) (r : Nat) (d : Desc) (w : SnapWork) (n : Snap) : Except MemErr (State × SnapWork) :=
  let b := if w.done % 65536 = 0 then (nextBlock n w.parts).getD 0 else n.blocks.headD 0
  let off := 65536 * b + w.done % 65536
  match slotPut s r d w (snapToLocal d) (snapToRemote d) (65536 + off) ((w.data.drop off).take 4096) with
  | .error e => .error e
  | .ok (s1, w1) =>
    let left := b :: n.blocks.filter (· != b)
    .ok (setSnap s1 d.part (some { n with blocks := if (w.done + 4096) % 65536 = 0 then left.drop 1 else left }), { w1 with done := w1.done + 4096 })

/-- One step of a SNAP on its engine (14 R477 to R479). -/
def snapTurn (s : State) (r : Nat) (d : Desc) (w : SnapWork) : State :=
  let settle := fun (x : Except MemErr (State × SnapWork)) => match x with
    | .error e => endMem s r d St.dmaAddress e 0
    | .ok (s1, w1) => if w1.stage = 2 && !snapToRemote d then snapOk s1 r d else setSnapWork s1 r d w1
  if d.abort then endDesc s r d St.aborted 0
  else if w.stage = 0 then
    (if w.acks ≠ 0 then s else if w.data.isEmpty then settle (snapCommit s r d w) else setSnapWork s r d { w with stage := 1 })
  else if w.stage = 1 then
    (match snapOf s d.part with
    | none => s
    | some n => match snapData s r d w n with
      | .error e => endMem s r d St.dmaAddress e 0
      | .ok (s1, w1) => if w1.done < w1.data.length then setSnapWork s1 r d w1 else settle (snapCommit s1 r d w1))
  else if w.acks ≠ 0 then s
  else if w.stage = 2 then
    (match slotPut s r d w false true commitOff (commitWord d) with
    | .error e => endMem s r d St.dmaAddress e 0
    | .ok (s1, w1) => setSnapWork s1 r d { w1 with stage := 3 })
  else snapOk s r d

/-- A RESTORE reads a slot of this package. -/
def restoreLocal (s : State) (d : Desc) : Option Nat :=
  if bitAt (d.fld 30 1) 0 then some (slotLocal d)
  else if d.fld 28 2 % 4096 = nodeId s then some (exportVa s d.part + slotOffset d)
  else none

/-- Bytes of a slot header with `n` regions, COMMIT aside. -/
def headerBytes (n : Nat) : Nat := 32 + 24 * n

/-- RESTORE: the slot's header is read (14 R480). -/
def restoreStart (r : Nat) (seq : BitVec 32) (s : State) : State :=
  snapBegin r seq 1 s (fun d e l =>
    let w : SnapWork := ⟨e, 0, l, [], [], [], 0, 0⟩
    let s1 := startWork s r d .idle
    let d1 := { d with phase := .running, work := .snap w, cf := pfld s d.part Reg.detCtrl 0 1 == 1 }
    match restoreLocal s d with
    | some a =>
      match readVa s d.part a (headerBytes l.length), readVa s d.part (a + commitOff) 8 with
      | .ok h, .ok c => setSnapWork s1 r d1 { w with got := [(0, h), (commitOff, c)] }
      | .error er, _ => endMem s1 r d1 St.dmaAddress er 0
      | _, .error er => endMem s1 r d1 St.dmaAddress er 0
    | none =>
      let req := fun off n => VatReq.mk d.part (.engine r seq) (e / 4) (d.fld 28 2 % 4096) (slotOffset d + off) false 0 n []
      setSnapWork { s1 with vatQueue := s1.vatQueue ++ [req 0 (headerBytes l.length), req commitOff 8] } r d1 { w with acks := 2 })

/-- The slot is valid for the descriptor: COMMIT, STEP and the region list (14 R480). -/
def slotValid (d : Desc) (w : SnapWork) : Bool :=
  let img := w.got.foldl (fun h x => if x.1 < 16384 then patchBytes h x.1 x.2 else h) (List.replicate (headerBytes w.parts.length) 0#8)
  let f := leField img
  let c := (w.got.find? (fun x => x.1 == commitOff)).map (fun x => leNat x.2)
  c == some ((snapStep d + 1) % 2 ^ 64) && f 0 8 == snapStep d && f 24 8 == w.parts.length &&
    (List.range w.parts.length).all (fun i => (f (32 + 24 * i) 8, f (40 + 24 * i) 8) == w.parts.getD i (0, 0))

/-- CRC-64 of a region, as the header gives it. -/
def slotCrc (w : SnapWork) (i : Nat) : Nat :=
  leField (w.got.foldl (fun h x => if x.1 < 16384 then patchBytes h x.1 x.2 else h) (List.replicate (headerBytes w.parts.length) 0#8)) (48 + 24 * i) 8

/-- A RESTORE whose check fails leaves its regions undefined (14 R480). -/
def restoreBad (s : State) (r : Nat) (d : Desc) (w : SnapWork) : State :=
  endDesc (scramble s (storeRanges s d.part w.parts)) r d St.slotInvalid 0

/-- Every region of a RESTORE has the CRC-64 of the header. -/
def restoreChecks (s : State) (d : Desc) (w : SnapWork) : Bool :=
  (List.range w.parts.length).all (fun i =>
    let x := w.parts.getD i (0, 0)
    match readVa s d.part x.1 x.2 with | .ok b => crc64 0 b == slotCrc w i | .error _ => false)

/-- One step of a RESTORE on its engine (14 R480). -/
def restoreTurn (s : State) (r : Nat) (d : Desc) (w : SnapWork) : State :=
  let total := partTotal w.parts
  if w.stage = 0 then
    (if w.acks ≠ 0 then s else if slotValid d w then setSnapWork s r d { w with stage := 1 } else restoreBad s r d w)
  else if w.done < total then
    let w1 := { w with done := w.done + 4096 }
    match restoreLocal s d with
    | some a =>
      (match readVa s d.part (a + 65536 + w.done) 4096 with
      | .error e => endMem s r d St.dmaAddress e 0
      | .ok bs => match writeVa s d.part (partAddr w.parts w.done) bs with
        | .error e => endMem s r d St.dmaAddress e 0
        | .ok s1 => setSnapWork s1 r d w1)
    | none =>
      setSnapWork { s with vatQueue := s.vatQueue ++ [⟨d.part, .engine r d.seq, w.engine / 4, d.fld 28 2 % 4096, slotOffset d + 65536 + w.done, false, 0, 4096, []⟩] }
        r d { w1 with acks := w1.acks + 1 }
  else if w.acks ≠ 0 then s
  else if restoreChecks s d w then snapOk s r d else restoreBad s r d w

/-- DIGEST: LEN bytes are hashed on a copy engine (14 R482). -/
def digestStart (r : Nat) (seq : BitVec 32) (s : State) : State :=
  match startable s r seq 0x0B 2 with
  | none => s
  | some d =>
    if !bodyZeroBut d.bytes [(20, 6), (26, 6), (32, 8)] || d.fld 32 8 = 0 || 2 ^ 40 < d.fld 32 8 then endDesc s r d St.snapshotInvalid 0
    else match copyPlace s d.part with
      | none => endFenced s r d
      | some e => startWork s r d (.snap ⟨e, 0, [], [], [], [], 0, 0⟩)

/-- One burst of a DIGEST, translated when it is issued; after the last one the SHA-384 of the data is written (10 R330, 14 R482). -/
def digestTurn (s : State) (r : Nat) (d : Desc) (w : SnapWork) : State :=
  let n := min 4096 (d.fld 32 8 - w.done)
  match readVa s d.part (d.fld 20 6 + w.done) n with
  | .error e => endMem s r d St.dmaAddress e 0
  | .ok bs =>
    let w1 := { w with done := w.done + n, data := w.data ++ bs }
    if w1.done < d.fld 32 8 then setSnapWork s r d w1
    else match writeVa s d.part (d.fld 26 6) (sha384 w1.data) with
      | .error e => endMem s r d St.dmaAddress e 0
      | .ok s1 => snapOk s1 r d

/-! ### Bursts -/

/-- The copy engine that a Vat request serves. -/
def vatEngine (s : State) : VatFrom → Option Nat
  | .dma r seq _ _ => (findDesc s r seq).bind engineOf
  | .engine r seq => (findDesc s r seq).bind engineOf
  | _ => none

/-- Read requests of a copy engine in flight over all its descriptors: its Vat reads, since reads of this package's memory return within
their burst (10 R330). -/
def readsFlying (s : State) (e : Nat) : Nat :=
  (s.vatQueue.filter (fun q => q.op == 0 && vatEngine s q.src == some e)).length +
    (s.srcPairs.map (fun x => (x.2.reqs.filter (fun q => q.pkt.ptype == 0 && vatEngine s q.src == some e)).length)).sum

/-- A descriptor has something for its engine to do; a COPY issues no read while 1,024 are in flight (10 R330). -/
def engineWants (s : State) (d : Desc) : Bool :=
  match d.work with
  | .copy w => w.fail.isNone && (if d.abort then w.flying.isEmpty
      else decide (w.next < w.total) && (d.engine != 6 || d.op != 0 || decide (readsFlying s w.engine < 1024)))
  | .snap w => (decide (d.op < 2) && (w.acks == 0 || w.stage == 1)) || d.op == 2 || d.abort
  | _ => false

/-- The partition's descriptor that an engine serves. -/
def engineReady (s : State) (e p : Nat) : Option (Nat × Desc) :=
  (runningAll s).find? (fun x => engineOf x.2 == some e && x.2.part == p && engineWants s x.2)

/-- The partitions in service order after the one served last (10 R330). -/
def turnOrder (last : Nat) : List Nat := (List.range 8).map (fun i => (last + 1 + i) % 8)

/-- One turn of a SNAPSHOT descriptor; a burst whose path check fails ends it (14 R447). -/
def snapTurnOf (s : State) (r : Nat) (d : Desc) (w : SnapWork) (check : PathCheck) : State :=
  if check = .persistent then endDesc s r d St.parity 0
  else
    let d1 := if check = .replayed then { d with corrected := true } else d
    let s1 := if check = .replayed then
      report (setDesc s r d1) 0x01 1 5 (unitField 5 w.engine) (some d.part) 0 [11#8, 1#8] else s
    match d.op with
    | 0 => snapTurn s1 r d1 w
    | 1 => restoreTurn s1 r d1 w
    | _ => digestTurn s1 r d1 w

/-- DMA_BURST_DONE: the engine serves the next partition in turn with one burst; an abort ends the descriptor at its burst
boundary (10 R330). -/
def dmaBurst (e : Nat) (check : PathCheck) (s : State) : State :=
  if !alive s then s
  else match (turnOrder (sget (fun _ => 7) s.copyTurn e)).findSome? (fun p => engineReady s e p) with
  | none => s
  | some (r, d) =>
    let s1 := { s with copyTurn := sset (fun _ => 7) s.copyTurn e d.part }
    match d.work with
    | .copy w => if d.abort then copySettle s1 r d w else copyBurst s1 r d w check
    | .snap w => snapTurnOf s1 r d w check
    | _ => s

/-! ### Stalled writes -/

/-- A byte range touches a block of the regions that is still protected (14 R478). -/
def protectedBy (parts : List (Nat × Nat)) (blocks : List Nat) (va n : Nat) : Bool :=
  blocks.any (fun b =>
    let a := partAddr parts (65536 * b)
    decide (va < a + 65536) && decide (a < va + n))

/-- The regions of a partition's running SNAP. -/
def snapParts (s : State) (n : Snap) : List (Nat × Nat) :=
  match (findDesc s n.ring n.seq).bind snapWorkOf with | some w => w.parts | none => []

/-- SNAP_WRITE_STALL: a write to a protected block stalls (14 R478). -/
def snapStall (p va : Nat) (bs : List Byte) (s : State) : State :=
  match snapOf s p with
  | none => s
  | some n => if protectedBy (snapParts s n) n.blocks va bs.length then setSnap s p (some { n with stalled := n.stalled ++ [(va, bs)] }) else s

/-- SNAP_STALL_RESUME: the stalled writes whose blocks are copied proceed, oldest first (14 R478). -/
def snapResume (p : Nat) (s : State) : State :=
  match snapOf s p with
  | none => s
  | some n =>
    let stays := fun (x : Nat × List Byte) => protectedBy (snapParts s n) n.blocks x.1 x.2.length
    (n.stalled.filter (fun x => !stays x)).foldl (resumeWrite p) (setSnap s p (some { n with stalled := n.stalled.filter stays }))

/-! ### Signing -/

/-- Bytes of a manifest's header and entries (14 R483). -/
def manifestBytes (d : Desc) : Nat := 128 + 96 * d.fld 28 4

/-- SIGN: the manifest is checked and SIGNER written; the SMC signs one manifest at a time (14 R482). -/
def signStart (r : Nat) (seq : BitVec 32) (s : State) : State :=
  match startable s r seq 0x0B 3 with
  | none => s
  | some d =>
    if s.signing.isSome then s
    else if !bodyZeroBut d.bytes [(20, 6), (28, 4)] then endDesc s r d St.snapshotInvalid 0
    else match readVa s d.part (d.fld 20 6) 128 with
    | .error e => endMem s r d St.dmaAddress e 0
    | .ok h =>
      if leField h 0 4 ≠ 1 || leField h 4 1 ≠ 0 || leField h 32 4 ≠ d.fld 28 4 || d.fld 28 4 = 0 || 65535 < d.fld 28 4 then
        endDesc s r d St.snapshotInvalid 0
      else match copyPlace s d.part with
      | none => endFenced s r d
      | some e => match writeVa s d.part (d.fld 20 6 + 36) (leBytes 4 (ofld s Reg.fabId 0 18)) with
        | .error er => endMem s r d St.dmaAddress er 0
        | .ok s1 => match readVa s1 d.part (d.fld 20 6) (manifestBytes d) with
          | .error er => endMem s1 r d St.dmaAddress er 0
          | .ok m => startWork { s1 with signing := some (r, seq) } r d (.snap ⟨e, 0, [], [], [], sha384 m, 0, 0⟩)

/-- SIGN_DONE: the signature, a free value of 96 bytes (log entry 2), is written behind the entries (14 R482, R483). -/
def signDone (r : Nat) (seq : BitVec 32) (s : State) : State :=
  if s.signing ≠ some (r, seq) || !alive s then s
  else
    let s0 := { s with signing := none }
    match runningDesc s0 r seq 0x0B with
    | none => s0
    | some d => match writeVa { s0 with freeCount := s0.freeCount + 96 } d.part (d.fld 20 6 + manifestBytes d) (freeBytes s0.freeCount 96) with
      | .error e => endMem s0 r d St.dmaAddress e 0
      | .ok s1 => snapOk s1 r d

/-! ### Proof -/

/-- The body of a PROOF keeps to Table 8. -/
def proofDescOk (d : Desc) : Bool :=
  decide (d.fld 28 2 < 4096) && decide (1 ≤ d.fld 30 2) && decide (d.fld 30 2 ≤ 4096) && d.fld 32 6 % 64 == 0 && d.fld 38 6 % 64 == 0 &&
    decide (d.fld 44 4 ≤ 10000000)

/-- PROOF starts below supply stage S2 and waits for the buddy's list (14 R470). -/
def proofStart (r : Nat) (seq : BitVec 32) (s : State) : State :=
  match startable s r seq 0x0C 0 with
  | none => s
  | some d =>
    if 2 ≤ stage s then s
    else if proofDescOk d then startWork s r d .idle else endDesc s r d St.descInvalid 0

/-- Indices at which two digest lists differ. -/
def proofDiffs (a b : List Byte) (n : Nat) : List Nat := (List.range n).filter (fun i => leField a (64 + 8 * i) 8 != leField b (64 + 8 * i) 8)

/-- PROOF_READY: once READY of INBOX equals STEP + 1 the lists are compared (14 R470). -/
def proofReady (r : Nat) (seq : BitVec 32) (s : State) : State :=
  match runningDesc s r seq 0x0C with
  | none => s
  | some d =>
    let n := d.fld 30 2
    if !alive s then s
    else match readVa s d.part (d.fld 38 6) (64 + 8 * n) with
    | .error e => endMem s r d St.dmaAddress e 0
    | .ok inbox =>
      if leField inbox 56 8 ≠ (d.fld 20 8 + 1) % 2 ^ 64 then s
      else match readVa s d.part (d.fld 32 6) (64 + 8 * n) with
      | .error e => endMem s r d St.dmaAddress e 0
      | .ok own =>
        if leField own 8 8 ≠ leField inbox 8 8 || leField own 16 4 ≠ leField inbox 16 4 then endDesc s r d St.proofShape 0
        else match proofDiffs own inbox n with
        | [] => snapOk s r d
        | i :: rest =>
          endWith s r d St.proofMismatch (i + (rest.length + 1) * 65536)
            (mkErr 0x0C 2 0 0 none 0 (leBytes 2 i ++ leBytes 2 (rest.length + 1) ++ leBytes 2 (d.fld 28 2)))

/-- PROOF_TIMEOUT; at supply stage S2 or worse the timeout does not count (14 R470). -/
def proofTimeout (r : Nat) (seq : BitVec 32) (s : State) : State :=
  match runningDesc s r seq 0x0C with
  | none => s
  | some d => if 2 ≤ stage s || !alive s then s else endDesc s r d St.proofTimeout 0

/-! ### Meanings -/

/-- DMA_BURST_DONE. -/
def execDmaBurstDone (e : Nat) (check : PathCheck) (s : State) : Host.Outcome State Fault Refusal := onUnit (e < 8) (collGo (dmaBurst e check s))
/-- SNAP. -/
def execSnap (r : Nat) (seq : BitVec 32) (s : State) : Host.Outcome State Fault Refusal := onUnit (r < 4096) (snapStart r seq s)
/-- RESTORE. -/
def execRestore (r : Nat) (seq : BitVec 32) (s : State) : Host.Outcome State Fault Refusal := onUnit (r < 4096) (restoreStart r seq s)
/-- DIGEST. -/
def execDigest (r : Nat) (seq : BitVec 32) (s : State) : Host.Outcome State Fault Refusal := onUnit (r < 4096) (digestStart r seq s)
/-- SIGN. -/
def execSign (r : Nat) (seq : BitVec 32) (s : State) : Host.Outcome State Fault Refusal := onUnit (r < 4096) (signStart r seq s)
/-- SIGN_DONE. -/
def execSignDone (r : Nat) (seq : BitVec 32) (s : State) : Host.Outcome State Fault Refusal := onUnit (r < 4096) (signDone r seq s)
/-- SNAP_WRITE_STALL. -/
def execSnapWriteStall (p : Nat) (va : Word) (data : List Byte) (s : State) : Host.Outcome State Fault Refusal := onUnit (p < 8) (snapStall p va.toNat data s)
/-- SNAP_STALL_RESUME. -/
def execSnapStallResume (p : Nat) (s : State) : Host.Outcome State Fault Refusal := onUnit (p < 8) (snapResume p s)
/-- PROOF. -/
def execProof (r : Nat) (seq : BitVec 32) (s : State) : Host.Outcome State Fault Refusal := onUnit (r < 4096) (proofStart r seq s)
/-- PROOF_READY. -/
def execProofReady (r : Nat) (seq : BitVec 32) (s : State) : Host.Outcome State Fault Refusal := onUnit (r < 4096) (proofReady r seq s)
/-- PROOF_TIMEOUT. -/
def execProofTimeout (r : Nat) (seq : BitVec 32) (s : State) : Host.Outcome State Fault Refusal := onUnit (r < 4096) (proofTimeout r seq s)

end Sys2Proof.Machine
end

