-- ==== Sys2Proof/Machine/Faults.lean ====
section
/-! DEFINITION. Errors of units, fences and self-tests, merge windows, wear and spare-in, Swatch and the heartbeat (14 R443 to R475,
15 R502). -/

namespace Sys2Proof.Machine

/-! ### Units -/

/-- Units of a type (14 Table 2); tiles and cores by logical number. -/
def unitCount (ty : Nat) : Nat :=
  match ty with | 1 => 1344 | 2 => 8 | 3 => 8 | 4 => 8 | 5 => 8 | 6 => 2 | 7 => 256 | 8 => 16 | 9 => 96 | 10 => 16 | _ => 0

/-- The index of a unit from the UNIT field of a record (14 Table 4). -/
def unitIndex (u : Nat) : Nat := u % 4096

/-- A running descriptor is in flight on a unit. -/
def onTheUnit (s : State) (d : Desc) (ty ix : Nat) : Bool :=
  match ty with
  | 1 => bitAt (descGroups d) (ix / 8)
  | 2 => (match d.work with | .sie _ => (engineDies s d).contains ix | _ => false)
  | 3 => (match d.work with | .fxe _ => (engineDies s d).contains ix | _ => false)
  | 4 => (match d.work with | .scu _ => (engineDies s d).contains ix | _ => false)
  | 5 => engineOf d == some ix
  | _ => false

/-- A partition uses a unit that it shares with others (14 R457). -/
def usesUnit (s : State) (p ty ix : Nat) : Bool :=
  match ty with
  | 1 => groupPart s (ix / 8) == some p
  | 2 => (partDies s p).contains ix
  | 3 => (partDies s p).contains ix
  | 4 => (partDies s p).contains ix
  | 5 => partValid s p && copyDie s p == ix / 4
  | 6 => (qpsOf s p).any (fun q => q.2.port / 8 == ix)
  | 7 => (List.range 64).any (fun n => holdsRegion s p n && bitAt (regionWord s n) 0 && (footprint s n).1.any (fun k => k / 2 == ix / 32))
  | 8 => (List.range 64).any (fun n => holdsRegion s p n && bitAt (regionWord s n) 0 && (footprint s n).1.contains ix)
  | 9 => hartPart s ix == some p
  | _ => (boundJob s p).isSome
where
  /-- The QPs of a partition, with their numbers. -/
  qpsOf (s : State) (p : Nat) : List (Nat × Qp) := s.qps.filter (fun e => e.1 / 2 ^ 17 == p && e.2.st != 0)

/-- The FENCED record of a unit: to the Owner, and to every partition that uses the unit (14 R448, R457). -/
def fenceRecord (s : State) (ty ix : Nat) (first : Nat × Nat) : State :=
  let own := if ty = 1 then groupPart s (ix / 8) else if ty = 9 then hartPart s ix else none
  let e : ErrEvent := mkErr 0x08 3 ty (unitField ty ix) none 0 (leBytes 1 first.1 ++ leBytes 2 first.2)
  let s1 := (errPost s { e with part := own } 1 (stamp s 18)).1
  ((partsOf s).filter (fun p => usesUnit s p ty ix && own != some p)).foldl (fun s p => (errWrite s p e 1 (stamp s 18)).1) s1

/-- A descriptor in flight on a unit that is fenced: a tile descriptor stops, and any other ends, with FAILED_UNIT_FENCED or the error that
struck it (14 R449). -/
def fenceDesc (s : State) (x : Nat × BitVec 32) : State :=
  match findDesc s x.1 x.2 with
  | none => s
  | some d =>
    if d.engine = 1 then
      if d.struck.isSome then s
      else
        let r := errEmit s { failRecord d St.unitFenced 0 with part := some d.part, ring := x.1, seq := d.seq, status := St.unitFenced, struck := true }
        stopTiles (setDesc r.1 x.1 { d with struck := some St.unitFenced, errec := d.errec || r.2 }) x.1 x.2
    else match d.struck with
      | some st => settleAll (completeOne (workStopped s x.1 d st) x.1 d st 0 false)
      | none => endFenced (workStopped s x.1 d St.unitFenced) x.1 d

/-- The QPs of an NEE's ports enter ERROR (14 Table 2, 11 R390). -/
def fenceNee (s : State) (f : Nat) : State :=
  (s.qps.filter (fun e => e.2.st != 0 && e.2.st != 4 && e.2.port / 8 == f)).foldl (fun s e => qpFlush s (e.1 / 2 ^ 17) (e.1 % 2 ^ 17) St.netQp 4) s

/-- A unit is fenced: its record, and the end of what is in flight on it (14 R448, R449). -/
def fenceUnit (s : State) (ty ix : Nat) (first : Nat × Nat) : State :=
  let s1 := fenceRecord (setUnit s ty ix { unitOf s ty ix with st := 2, first := some first }) ty ix first
  let s2 := (((runningAll s1).filter (fun x => onTheUnit s1 x.2 ty ix)).map (fun x => (x.1, x.2.seq))).foldl fenceDesc s1
  let s3 := match ty with
    | 6 => fenceNee s2 ix
    | 9 => setHart s2 ix { hartOf s2 ix with stopped := true }
    | 10 => if portState s2 ix = 0 then s2 else replayDown (drainPort s2 ix)
    | _ => s2
  sieWake s3

/-- What the class of an error does to the descriptor it struck (14 R443, R445). -/
def strike (s : State) (e : ErrEvent) (wrote : Bool) : State :=
  match (if e.struck then findDesc s e.ring e.seq else none) with
  | none => s
  | some d =>
    if e.cls = 1 then setDesc s e.ring { d with corrected := true }
    else if e.cls ≠ 2 && e.cls ≠ 3 then s
    else if d.engine = 1 && d.phase == .running then
      stopTiles (setDesc s e.ring { d with struck := some (d.struck.getD e.status), errec := d.errec || wrote }) e.ring e.seq
    else settleAll (completeOne (workStopped s e.ring d e.status) e.ring d e.status 0 wrote)

/-- A completion record that failed its path check after every replay, which an ADDRESS error of class PARTITION names by ring, sequence number and status: its
descriptor has no record (10 R565). -/
def recordLost (s : State) (e : ErrEvent) : State :=
  match (if e.kind = 4 && e.struck then findDesc s e.ring e.seq else none) with
  | some d => if some d.part = e.part then dropDesc (workStopped s e.ring d e.status) e.ring d St.partReset else s
  | none => s

/-- The action of an error's class (14 Table 1). -/
def classAction (s : State) (e : ErrEvent) (wrote : Bool) : State :=
  if e.cls = 4 then (match e.part with | some p => if partValid s p then partitionReset (recordLost s e) p else s | none => s)
  else if e.cls = 5 then deviceFatal s ((e.detail.headD 5#8).toNat)
  else sieWake (strike s e wrote)

/-- The place of the store of the address of an ECC record: a partition's address, else a DPA (log entry 36). -/
def eccKey (s : State) (e : ErrEvent) : Option Nat :=
  match e.part with
  | some p => xlateMem s p .r e.addr.toNat
  | none => (regionOf s e.addr.toNat).map (fun n => regionKey s n e.addr.toNat)

/-- What an ECC error leaves behind: a correction of a stack's on-die code or of the controller's counts in HMC_STACK_STATUS, and the first in the stack's log;
an uncorrectable HBM or Lake sector is marked bad, and the 64-bit word of a tile's scratchpad cannot be read until it is written (09 R291 to R294, R301;
log entry 36). -/
def eccEffect (e : ErrEvent) (s : State) : State :=
  let byte := fun i n => leField e.detail i n
  let stack := byte 1 1 % 16
  let st := Reg.hmcStackStatus + 8 * stack
  if e.kind ≠ 2 then s
  else if e.cls = 1 then
    (if byte 0 1 = 0 then { setRfld s (okey st) 32 16 (satNat 16 (ofld s st 32 16 + 1)) with
        eccLog := sset (fun _ => (0, 0)) s.eccLog stack ((eccLogOf s stack).1 + 1, byte 4 4) }
      else if byte 0 1 = 1 then setRfld s (okey st) 48 16 (satNat 16 (ofld s st 48 16 + 1)) else s)
  else if e.cls < 2 then s
  else if byte 0 1 = 3 then
    let w := spKey (unitIndex e.unit) (e.addr.toNat / 8 * 8)
    if e.unitType = 1 then { s with poison := s.poison ++ ((List.range 8).map (w + ·)).filter (fun b => !s.poison.contains b) } else s
  else match eccKey s e with
    | some k => if isHbm k && !s.bad.contains (k / 32) then { s with bad := s.bad ++ [k / 32] } else s
    | none => s

/-- A core's load that meets a double error or a parity error that no replay cures takes a load access fault (09 R293, R294, 14 R447). -/
def coreLoadFault (e : ErrEvent) (s : State) : State :=
  if e.unitType = 9 && e.cls == 2 && !e.struck && (e.kind == 1 || e.kind == 2) && hartReady s (unitIndex e.unit) then
    setHart s (unitIndex e.unit) ((hartOf s (unitIndex e.unit)).trapped 5 e.addr 0)
  else s

/-- UNIT_ERROR: the record is written, and a unit in RUN acts by its class; a second error while it is handling one fences it; a record
that cannot be written makes the device fatal (14 R443, R448, R451, R456). -/
def unitError (e : ErrEvent) (s0 : State) : State :=
  let ix := unitIndex e.unit
  let u := unitOf s0 e.unitType ix
  if !alive s0 || u.st = 2 then s0
  else if !e.writable then deviceFatal s0 1
  else
    let s := eccEffect e s0
    let (s1, w) := errEmit s e
    if e.unitType ≠ 0 && u.st = 1 then fenceUnit (strike s1 { e with cls := min e.cls 2 } w) e.unitType ix (u.first.getD (e.unitType, e.unit))
    else
      let s2 := if e.unitType = 0 then s1 else setUnit s1 e.unitType ix { u with st := 1, first := some (e.unitType, e.unit) }
      if e.cls = 3 then fenceUnit (strike s2 e w) e.unitType ix (e.unitType, e.unit) else coreLoadFault e (classAction s2 e w)

/-- UNIT_HANDLING_DONE: the unit leaves HANDLING (14 R448). -/
def handlingDone (ty ix : Nat) (s : State) : State :=
  if (unitOf s ty ix).st = 1 then setUnit s ty ix { unitOf s ty ix with st := 0, first := none } else s

/-- UNIT_CLEAR: a fenced unit starts its self-test (14 R450). -/
def unitClear (view : Nat) (v : Word) (s : State) : State :=
  if !bitAt v.toNat 24 || !alive s then s
  else match actionWrite s view Reg.errUnitCtrl v with
  | none => s
  | some s1 =>
    let ty := fieldOf v.toNat 0 4
    let ix := fieldOf v.toNat 8 11
    if fenced s1 ty ix && decide (ix < unitCount ty) then setUnit (setResult s1 Reg.errUnitCtrl 24 1 25 3 1) ty ix { unitOf s1 ty ix with testing := true }
    else setResult s1 Reg.errUnitCtrl 24 0 25 3 3

/-- The spare class of a unit that fails its self-test, with its A-die or P-die. -/
def wornClass (ty ix : Nat) : Option (Nat × Nat × Nat) :=
  if ty = 1 then some (1, ix / 168, ix) else if ty = 9 then some (2, ix / 48, ix) else none

/-- UNIT_SELF_TEST_DONE: a unit that passes returns to RUN; one that fails stays fenced and counts as worn (14 R450, R467). -/
def selfTestDone (pass : Bool) (s : State) : State :=
  let ty := ofld s Reg.errUnitCtrl 0 4
  let ix := ofld s Reg.errUnitCtrl 8 11
  if ofld s Reg.errUnitCtrl 24 1 = 0 || !(unitOf s ty ix).testing || !alive s then s
  else if pass then
    let s1 := setUnit (setResult s Reg.errUnitCtrl 24 0 25 3 0) ty ix UnitSt.init
    healthRefresh (if ty = 9 then setHart s1 ix { hartOf s1 ix with stopped := false } else s1)
  else
    let s1 := setUnit (setResult s Reg.errUnitCtrl 24 0 25 3 2) ty ix { unitOf s ty ix with testing := false, failed := true }
    healthRefresh (match wornClass ty ix with
      | some x => if s1.worn.contains x then s1 else { s1 with worn := s1.worn ++ [x] }
      | none => s1)

/-- ERROR_RING_ENABLE: a write of ENABLE = 1 to an error ring (14 R454). -/
def ringEnableErr (view : Nat) (v : Word) (s : State) : State :=
  if !bitAt v.toNat 8 || !alive s then s
  else
    let before := bitAt (reg s (pkey view (Reg.errRing + 8))) 9
    errRingEnable (storeWord s view (Reg.errRing + 8) v.toNat) view before

/-- MERGE_WINDOW_EXPIRY: one record for the events of the window (14 R458). -/
def mergeExpiry (kind ty unit : Nat) (s : State) : State :=
  let this := fun (w : Window) => w.kind == kind && w.utype == ty && w.unit == unit
  match s.windows.find? this with
  | none => s
  | some w =>
    let s1 := { s with windows := s.windows.filter (fun x => !this x) }
    match w.first with
    | some (e, t) => if alive s1 then (errPost s1 e w.count t).1 else s1
    | none => s1

/-! ### Precedence -/

/-- A PRECEDENCE record to a partition and the Owner: rank 1 is served, and the time lost is a free value (15 R502; log entry 2). -/
def precedence (s : State) (q broken cause benef die ty : Nat) : State :=
  let (x, s1) := fresh s
  report s1 0x0F 0 ty (die * 4096) (some q) 0 ([BitVec.ofNat 8 broken, 1#8, BitVec.ofNat 8 cause, BitVec.ofNat 8 benef] ++ leBytes 4 x.toNat ++
    [BitVec.ofNat 8 die, BitVec.ofNat 8 ty])

/-- The other partitions with a reservation and a running solve on a die (15 R502, Table 4). -/
def reservedOthers (s : State) (p : Option Nat) (die : Nat) : List Nat :=
  (partsOf s).filter (fun q => some q != p && bitAt (reg s (okey (Reg.prtPartCfg + 0x40 * q))) (40 + die) &&
    ofld s (Reg.prtPartCfg + 0x40 * q) 32 7 != 0 &&
    (runningAll s).any (fun x => x.2.part == q && (match x.2.work with | .sie _ => (engineDies s x.2).contains die | _ => false)))

/-- Reserved time of others that a spare-in or repair for a partition takes. -/
def takesReserved (s : State) (p : Option Nat) (die cause : Nat) : State :=
  (reservedOthers s p die).foldl (fun s q => precedence s q 4 cause (p.getD 0xF) die 2) s

/-- HMC_REPAIR; a repair that starts for one partition takes reserved time of others (09 R298, 15 Table 4). -/
def rowRepair (view : Nat) (v : Word) (s : State) : State :=
  let t := hmcRepair view v s
  match s.repair, t.repair with
  | none, some w =>
    let own := (dpaOf t (hbmKey w.stack w.pc ((w.row * 32 + w.bank) * 1024))).bind (fun x => regionPart t x.1)
    takesReserved t own (w.stack / 2) 2
  | _, _ => t

/-! ### Wear and spare-in -/

/-- PART_WEAR: a part meets its wear criterion; with AUTO clear a WEAR record tells the Owner, and with AUTO set the firmware spares it in: an HBM row by
HMC_REPAIR, a lane by LANE_WEAR (14 R462, R463, Table 6). -/
def partWear (cls die ix events : Nat) (s : State) : State :=
  if !alive s then s
  else
    let s1 := if cls = 3 || cls = 5 || s.worn.contains (cls, die, ix) then s else { s with worn := s.worn ++ [(cls, die, ix)] }
    if ofld s Reg.errSpareCtrl 0 1 = 1 then s1
    else report s1 0x0E 0 0 (die * 4096) none 0 (leBytes 1 cls ++ leBytes 2 ix ++ leBytes 4 events)

/-- Spares left for a part. -/
def sparesFor (s : State) (cls die ix : Nat) : Nat :=
  if cls = 1 then (if ix < 1344 then ofld s (Reg.tilDieInfo + 8 * tileDie ix) 8 8 else 0)
  else if cls = 2 then (if ix < 96 then ofld s (Reg.glbPdieInfo + 8 * (ix / 48)) 8 2 else 0)
  else if ix < 256 && !bitAt (ofld s (Reg.lakWayStatus + 8 * die) 0 16) (ix / 16) then 1 else 0

/-- SPARE_IN_REQUEST (14 R463). -/
def spareRequest (view : Nat) (v : Word) (s : State) : State :=
  let w := v.toNat
  if !bitAt w 24 || !alive s then s
  else match actionWrite s view Reg.errSpareCtrl v with
  | none => s
  | some s1 =>
    let cls := fieldOf w 4 3
    if !(cls == 1 || cls == 2 || cls == 4) then setResult s1 Reg.errSpareCtrl 24 0 25 3 4
    else if 2 ≤ stage s1 then setResult s1 Reg.errSpareCtrl 24 0 25 3 2
    else if sparesFor s1 cls (fieldOf w 20 3) (fieldOf w 8 11) = 0 then setResult s1 Reg.errSpareCtrl 24 0 25 3 3
    else setResult s1 Reg.errSpareCtrl 24 1 25 3 1

/-- A tile group is withdrawn (03 R60, 15 R502). -/
def groupWithdraw (s : State) (t : Nat) : State :=
  let g := t / 8
  let k := okey (Reg.tilDieInfo + 8 * tileDie t)
  let p := groupPart s g
  let s1 := setRfld (setRfld (setGroup s g { groupOf s g with withdrawn := true }) k 16 5 (rfld s k 16 5 - 1)) k 24 1 1
  let s2 := withdrawnRecord (spareEnd s1 1 (tileDie t) t) 1 g 1 (tileUnit t) p
  healthRefresh (match p with | some q => precedence s2 q 3 5 0xF (tileDie t) 1 | none => s2)

/-- Banks of a tile that could not be copied are zero in the spare, and their loss is reported (14 R465). -/
def loseBanks (s : State) (t mask : Nat) : State :=
  if mask = 0 then s
  else
    let s1 := (indicesWhere 24 (bitAt mask)).foldl (fun s j => zeroRange s (spKey t (0x10000 * j)) (spKey t (0x10000 * (j + 1)))) s
    let s2 := setGroup s1 (t / 8) { groupOf s1 (t / 8) with lost := (groupOf s1 (t / 8)).lost ++ [(t, mask)] }
    report s2 0x10 2 1 (tileUnit t) (groupPart s (t / 8)) 0 (leBytes 2 t ++ leBytes 3 mask)

/-- The banks of a tile that hold a word which cannot be read correctly, as a mask (14 R465, 09 R294). -/
def unreadBanks (s : State) (t : Nat) : Nat :=
  maskOf (indicesWhere 24 (fun j => s.poison.any (fun b => decide (spKey t (0x10000 * j) ≤ b) && decide (b < spKey t (0x10000 * (j + 1))))))

/-- TILE_SPARE_IN: once its group runs no descriptor the worn tile is copied to a spare; with none left its group is withdrawn (14
R463 to R465, 03 R60). -/
def tileSpareIn (t mask : Nat) (s : State) : State :=
  let g := t / 8
  let x := groupOf s g
  if !withdrawMay s 1 (tileDie t) t || bitAt (busyGroups s) g || x.zeroing || x.withdrawn || x.sparing.isSome || x.swatch.isSome ||
      !domainOpen s (22 + tileDie t) then s
  else if sparesFor s 1 0 t = 0 then groupWithdraw s t
  else if !spareMay s 1 (tileDie t) t then s
  else loseBanks (takesReserved (setGroup s g { x with sparing := some t }) (groupPart s g) (tileDie t) 1) t (mask ||| unreadBanks s t)

/-- The free spare tiles of a die (03 R58). -/
def spareTiles (s : State) (die : Nat) : List Nat :=
  (List.range 176).filter (fun q => !s.tileGone.contains (die * 256 + q) && !(List.range 168).any (fun j => tilePhys s (168 * die + j) == q))

/-- TILE_SPARE_DONE: the remap table names a spare, which of the free ones is a free value, and the group is released (14 R464). -/
def tileSpareDone (t : Nat) (s : State) : State :=
  let g := t / 8
  let die := tileDie t
  let k := okey (Reg.tilDieInfo + 8 * die)
  if (groupOf s g).sparing ≠ some t || !alive s then s
  else
    let (x, s0) := fresh (setGroup s g { groupOf s g with sparing := none })
    let free := spareTiles s die
    let old := tilePhys s t
    let new := free.getD (x.toNat % free.length) 0
    let s1 := setRfld { s0 with tileGone := s0.tileGone ++ [die * 256 + old] } (okey (Reg.tilRemap + 0x100 * die + 8 * (t % 168 / 8))) (8 * (t % 8)) 8 new
    let s2 := setUnit (setRfld s1 k 8 8 (rfld s1 k 8 8 - 1)) 1 t UnitSt.init
    healthRefresh (spareRecord (spareEnd s2 1 die t) 1 t old new (rfld s2 k 8 8) 1 (tileUnit t) (groupPart s g))

/-- The free spare cores of a P-die (08 R232). -/
def spareCores (s : State) (d : Nat) : List Nat :=
  (List.range 50).filter (fun q => !s.coreGone.contains (64 * d + q) && !(List.range 48).any (fun j => corePhys s (48 * d + j) == q))

/-- A core cluster is withdrawn: its harts stop (08 R234). -/
def clusterWithdraw (s : State) (h : Nat) : State :=
  let d := h / 48
  let c := h % 48 / 4
  let k := okey (Reg.glbPdieInfo + 8 * d)
  let s1 := setRfld (setRfld { s with clusterGone := s.clusterGone ++ [12 * d + c] } k 16 4 (rfld s k 16 4 - 1)) k 24 1 1
  let s2 := (List.range 4).foldl (fun s j => setHart s (48 * d + 4 * c + j) { hartOf s (48 * d + 4 * c + j) with stopped := true }) s1
  healthRefresh (withdrawnRecord (spareEnd s2 2 d h) 2 c 9 (unitField 9 h) (hartPart s h))

/-- CORE_SPARE_IN: the hart's state moves to a spare core and stays as it is; with none left its cluster is withdrawn (14 R466, 08 R233,
R234). -/
def coreSpareIn (h : Nat) (s : State) : State :=
  let d := h / 48
  let k := okey (Reg.glbPdieInfo + 8 * d)
  if !withdrawMay s 2 d h || s.clusterGone.contains (12 * d + h % 48 / 4) then s
  else if sparesFor s 2 d h = 0 then clusterWithdraw s h
  else if !spareMay s 2 d h then s
  else
    let (x, s0) := fresh s
    let free := spareCores s d
    let old := corePhys s h
    let new := free.getD (x.toNat % free.length) 0
    let s1 := { s0 with coreGone := s0.coreGone ++ [64 * d + old], coreMap := sset (fun k => k % 48) s0.coreMap h new }
    let s2 := setHart (setUnit (setRfld s1 k 8 2 (rfld s1 k 8 2 - 1)) 9 h UnitSt.init) h
      { hartOf s1 h with stopped := (hartOf s1 h).stopped && !fenced s 9 h }
    healthRefresh (spareRecord (spareEnd s2 2 d h) 2 h old new (rfld s2 k 8 2) 9 (unitField 9 h) (hartPart s h))

/-! ### Swatch -/

/-- SWATCH_LOAD (14 R472). -/
def swatchLoad (view : Nat) (v : Word) (s : State) : State :=
  if !bitAt v.toNat 48 || !alive s then s
  else match actionWrite s view Reg.errSwatchCtrl v with
  | none => s
  | some s1 => setResult s1 Reg.errSwatchCtrl 48 1 49 3 1

/-- SWATCH_LOAD_DONE: the package is refused for its signature, its stepping or its serial, or is the one loaded (14 R472). -/
def swatchLoaded (k : SwatchPackage) (s : State) : State :=
  if ofld s Reg.errSwatchCtrl 48 1 = 0 || !alive s then s
  else
    let res := if !k.sigOk then 2 else if k.stepping ≠ 1 then 3 else if k.serial.toNat < ofld s Reg.errSwatchCtrl 16 32 then 4 else 0
    let s1 := setResult s Reg.errSwatchCtrl 48 0 49 3 res
    if res = 0 then { setRfld s1 (okey Reg.errSwatchCtrl) 16 32 k.serial.toNat with swPkg := some k } else s1

/-- A waiting descriptor names a tile group. -/
def groupAwaited (s : State) (g : Nat) : Bool :=
  s.rings.any (fun e => e.2.descs.any (fun d => d.phase == .waiting && bitAt (descGroups d) g))

/-- SWATCH_PATTERN_RUN: a group that is idle, with no descriptor waiting for it, runs a pattern below stage S2 (14 R473, R474). The
banks and the set that the pattern uses are saved and restored bit for bit, so the group's memory is unchanged. -/
def swatchRun (g pat : Nat) (s : State) : State :=
  let w := reg s (okey Reg.errSwatchCtrl)
  let known := match s.swPkg with | some k => decide (pat < k.patterns.length) | none => false
  if alive s && bitAt w 0 && fieldOf w 1 3 != 0 && known && decide (stage s < 2) && groupsIdle s (2 ^ g) && !(groupOf s g).withdrawn && !groupAwaited s g &&
      domainOpen s (22 + g / 21) then
    setGroup s g { groupOf s g with swatch := some pat, swLeft := (List.range 8).map (· + 8 * g), swFailed := [] }
  else s

/-- One tile has finished its pattern; the group is free once all have. -/
def swatchTileEnd (s : State) (g t : Nat) : State :=
  let x := groupOf s g
  let left := x.swLeft.filter (· != t)
  setGroup s g { x with swLeft := left, swFailed := x.swFailed.filter (· != t), swatch := if left.isEmpty then none else x.swatch }

/-- SWATCH_PATTERN_DONE: a difference runs the pattern once more on the tile; a second one is a SWATCH_FAIL record and wear, a single one
a WEAR record (14 R475). -/
def swatchDone (g t : Nat) (digest : Word) (s : State) : State :=
  let x := groupOf s g
  match x.swatch, s.swPkg with
  | some pat, some k =>
    if !x.swLeft.contains t || !alive s then s
    else
      let same := match k.patterns[pat]? with | some p => p.expect == digest | none => true
      let again := x.swFailed.contains t
      if same then
        let s1 := swatchTileEnd s g t
        if again then report s1 0x0E 0 1 (tileUnit t) none 0 (leBytes 1 1 ++ leBytes 2 t ++ leBytes 4 1) else s1
      else if again then
        let s1 := (errEmit (swatchTileEnd s g t) { mkErr 0x0D 2 1 (tileUnit t) (groupPart s g) 0 (leBytes 4 pat ++ leBytes 8 digest.toNat) with
          phys := tilePhys s t }).1
        partWear 1 (tileDie t) t 1 s1
      else setGroup s g { x with swFailed := x.swFailed ++ [t] }
  | _, _ => s

/-- SWATCH_PREEMPT: the pattern stops at its next command boundary (14 R474). -/
def swatchPreempt (g : Nat) (s : State) : State := setGroup s g { groupOf s g with swatch := none, swLeft := [], swFailed := [] }

/-! ### The heartbeat -/

/-- The timebase written to the heartbeat word of a view, or the failure reported at most once each second (14 R452, R459). -/
def heartbeatOf (s : State) (w : Nat) : State :=
  let a := rfld s (pkey w Reg.errHeartbeat) 3 45 * 8
  if a = 0 || (w < 8 && !partValid s w) then s
  else match writeVia s (if w = 8 then xlateOwner s else xlateMem s w .w) a (leBytes 8 (stamp s 18)) (errDie s w) with
    | .ok s1 => s1
    | .error _ =>
      let last := sget (fun _ => 0) s.hbTold w
      if last = 0 || last + 100000000 ≤ s.tick + 1 then
        let s1 := { s with hbTold := sset (fun _ => 0) s.hbTold w (s.tick + 1) }
        let e := mkErr 0x04 2 0 0 none a (leBytes 8 a)
        (errWrite s1 8 { e with part := if w = 8 then none else some w } 1 (stamp s1 18)).1
      else s

/-- HEARTBEAT: every 100 ms while the device is not fatal (14 R452). -/
def heartbeat (s : State) : State := if alive s then (List.range 9).foldl heartbeatOf s else s

/-! ### Meanings -/

/-- UNIT_ERROR. -/
def execUnitError (e : ErrEvent) (s : State) : Host.Outcome State Fault Refusal :=
  onUnit (e.unitType = 0 || unitIndex e.unit < unitCount e.unitType) (collGo (unitError e s))
/-- UNIT_HANDLING_DONE. -/
def execUnitHandlingDone (ty ix : Nat) (s : State) : Host.Outcome State Fault Refusal := onUnit (ix < unitCount ty) (handlingDone ty ix s)
/-- UNIT_CLEAR. -/
def execUnitClear (view : Nat) (v : Word) (s : State) : Host.Outcome State Fault Refusal := .next (unitClear view v s)
/-- UNIT_SELF_TEST_DONE. -/
def execUnitSelfTestDone (pass : Bool) (s : State) : Host.Outcome State Fault Refusal := .next (selfTestDone pass s)
/-- ERROR_RING_ENABLE. -/
def execErrorRingEnable (view : Nat) (v : Word) (s : State) : Host.Outcome State Fault Refusal := onUnit (view ≤ 8) (ringEnableErr view v s)
/-- MERGE_WINDOW_EXPIRY. -/
def execMergeWindowExpiry (kind ty unit : Nat) (s : State) : Host.Outcome State Fault Refusal := .next (mergeExpiry kind ty unit s)
/-- HMC_REPAIR. -/
def execHmcRepair (view : Nat) (v : Word) (s : State) : Host.Outcome State Fault Refusal := .next (rowRepair view v s)
/-- PART_WEAR. -/
def execPartWear (cls die ix events : Nat) (s : State) : Host.Outcome State Fault Refusal :=
  onUnit (1 ≤ cls && cls ≤ 5 && die < 8) (partWear cls die ix events s)
/-- SPARE_IN_REQUEST. -/
def execSpareInRequest (view : Nat) (v : Word) (s : State) : Host.Outcome State Fault Refusal := .next (spareRequest view v s)
/-- TILE_SPARE_IN. -/
def execTileSpareIn (t : Nat) (mask : BitVec 24) (s : State) : Host.Outcome State Fault Refusal := onUnit (t < 1344) (tileSpareIn t mask.toNat s)
/-- TILE_SPARE_DONE. -/
def execTileSpareDone (t : Nat) (s : State) : Host.Outcome State Fault Refusal := onUnit (t < 1344) (tileSpareDone t s)
/-- CORE_SPARE_IN. -/
def execCoreSpareIn (h : Nat) (s : State) : Host.Outcome State Fault Refusal := onUnit (h < 96) (coreSpareIn h s)
/-- SWATCH_LOAD. -/
def execSwatchLoad (view : Nat) (v : Word) (s : State) : Host.Outcome State Fault Refusal := .next (swatchLoad view v s)
/-- SWATCH_LOAD_DONE. -/
def execSwatchLoadDone (k : SwatchPackage) (s : State) : Host.Outcome State Fault Refusal := .next (swatchLoaded k s)
/-- SWATCH_PATTERN_RUN. -/
def execSwatchPatternRun (g pat : Nat) (s : State) : Host.Outcome State Fault Refusal := onUnit (g < 168) (swatchRun g pat s)
/-- SWATCH_PATTERN_DONE. -/
def execSwatchPatternDone (g t : Nat) (digest : Word) (s : State) : Host.Outcome State Fault Refusal := onUnit (g < 168) (swatchDone g t digest s)
/-- SWATCH_PREEMPT. -/
def execSwatchPreempt (g : Nat) (s : State) : Host.Outcome State Fault Refusal := onUnit (g < 168) (swatchPreempt g s)
/-- HEARTBEAT. -/
def execHeartbeat (s : State) : Host.Outcome State Fault Refusal := .next (heartbeat s)

end Sys2Proof.Machine
end

