-- ==== Sys2Proof/Machine/Fxe.lean ====
section
/-! DEFINITION. The Field Exchange Engine: GATHER, SCATTER, rows, faults and completion (07 R209 to R231). -/

namespace Sys2Proof.Machine

def St.fxeInvalid : BitVec 16 := 0x0D00
def St.fxeAddress : BitVec 16 := 0x0D01
def St.fxeNotOwned : BitVec 16 := 0x0D02
def St.partial_ : BitVec 16 := 0x0600

/-- The FXE work of a descriptor. -/
def fxeOf (d : Desc) : Option FxeWork := match d.work with | .fxe w => some w | _ => none

/-- An FXE of these dies runs a descriptor (07 R211). -/
def fxeBusy (s : State) (dies : List Nat) : Bool :=
  (runningAll s).any (fun x => match fxeOf x.2 with | some w => w.dies.any (fun d => dies.contains d.die) | none => false)

/-! ### Checks -/

/-- The control block is in range (07 Table 2, R216). -/
def fxeCtrlOk (c : List Byte) (nslots : Nat) : Bool :=
  let f := leField c
  let box := bitAt (f 4 2) 1
  decide (f 0 1 ≤ 1) && decide (f 1 1 ≤ 5) && decide (1 ≤ f 2 2) && decide (f 2 2 ≤ 1024) && decide (f 4 2 < 4) && decide (1 ≤ f 6 2) &&
    decide (f 6 2 ≤ 4096) && decide (1 ≤ f 12 4) && decide (f 12 4 ≤ 2 ^ 31) && f 16 4 % 32 == 0 && decide (f 6 2 * fxeBytes (f 1 1) ≤ f 16 4) &&
    decide (f 20 2 ≤ 32) && (f 20 2 != 0 || f 48 8 == 0) && (f 22 2 == 0xFFFF || decide (f 22 2 < nslots)) && f 36 1 != 0 && f 37 3 == 0 &&
    f 112 16 == 0 &&
    (if box then f 24 4 != 0 && f 28 4 != 0 && f 32 4 != 0 && f 40 8 == 0 && decide (f 8 4 + f 12 4 ≤ f 24 4 * f 28 4 * f 32 4)
     else f 24 12 == 0)

/-- A feature entry keeps Table 4 for the control block. -/
def fxeFeatOk (c e : List Byte) : Bool :=
  let f := leField e
  let src := f 2 1
  let mode := f 7 1
  decide (f 0 1 < 16) && f 10 6 == 0 && decide (f 8 2 < leField c 6 2) && (src == 2 || f 4 3 == 0) &&
    (if leField c 0 1 = 0 then decide (src ≤ 2) && mode == 0 && (src != 2 || bitAt (leField c 4 2) 1) else src == 0 && decide (mode ≤ 2)) &&
    (if src = 1 then decide (f 3 1 < leField c 20 2) else if mode = 2 then decide (f 3 1 < 16) else f 3 1 == 0)

/-- A field entry keeps Table 3. -/
def fxeFieldOk (e : List Byte) : Bool :=
  let f := leField e
  let sz := fxeBytes (f 24 1)
  [0, 1, 5, 6].contains (f 24 1) && decide (1 ≤ f 16 4) && decide (1 ≤ f 25 1) && decide (f 25 1 ≤ 64) && f 26 6 == 0 &&
    decide (f 25 1 * sz ≤ f 20 4) && f 20 4 % sz == 0

/-- What a feature must not share with another: the column of a gather, the field and component of a scatter (07 R215). -/
def fxeKey (c e : List Byte) : Nat := if leField c 0 1 = 0 then leField e 8 2 else leField e 0 1 * 256 + leField e 1 1

/-- The features and the fields that they name are in range (07 R214, R215). -/
def fxeTablesOk (c : List Byte) (feats fields : List (List Byte)) : Bool :=
  feats.all (fxeFeatOk c) && (feats.map (fxeKey c)).Nodup &&
    feats.all (fun e =>
      let fld := fields.getD (leField e 0 1) []
      let base := fields.getD (leField e 3 1) []
      fxeFieldOk fld && decide (leField e 1 1 < leField fld 25 1) &&
        (leField e 7 1 != 2 || (fxeFieldOk base && decide (leField e 1 1 < leField base 25 1))))

/-- A read for a descriptor before its first row (07 R229). -/
def fxeRead (s : State) (p a n : Nat) : Except Fail (List Byte) :=
  match readVa s p a n with
  | .ok bs => .ok bs
  | .error e => .error (memFail St.fxeAddress e)

/-- A list cut into pieces of `n` bytes. -/
def cut (n count : Nat) (bs : List Byte) : List (List Byte) := (List.range count).map (fun i => (bs.drop (n * i)).take n)

/-- The shares of the dies (07 R212). -/
def fxeShares (c : List Byte) : List FxeDie :=
  let ds := maskDies (leField c 36 1)
  let n := ds.length
  let row := fun j => leField c 8 4 + j * leField c 12 4 / n
  (ds.zipIdx).map (fun x => ⟨x.1, row x.2, row (x.2 + 1), 0, 0, false⟩)

/-- What a descriptor reads once, when it starts, checked (07 R210, R213, R229). -/
def fxeGather (s : State) (p step : Nat) (c : List Byte) : Except Fail FxeWork := do
  let f := leField c
  let nslots := pfld s p Reg.scuSlots 0 13
  if !fxeCtrlOk c nslots then .error (.of St.fxeInvalid)
  else if (maskDies (f 36 1)).any (fun k => !(partDies s p).contains k) then .error (.of St.fxeNotOwned)
  else if (maskDies (f 36 1)).any (fun k => fenced s 3 k) then .error (.of St.unitFenced)
  else
    let fb ← fxeRead s p (f 72 8) (32 * f 2 2)
    let db ← fxeRead s p (f 80 8) 512
    let feats := cut 32 (f 2 2) fb
    let fields := cut 32 16 db
    let par := if bitAt (f 4 2) 0 then step % 2 else 0
    if !fxeTablesOk c feats fields then .error (.of St.fxeInvalid)
    else match writeError s (xlateMem s p .w) (fromDie s p none) (sectorsOf (f 104 8) 32) with
    | some e => .error (memFail St.fxeAddress e)
    | none =>
      let sc ← if f 22 2 = 0xFFFF then .ok one32 else
        (match fxeRead s p (pfld s p Reg.scuTableBase 6 42 * 64 + step % 2 * 16 * nslots + 16 * f 22 2) 8 with
        | .error e => .error e
        | .ok b => .ok (if f 0 1 = 0 then leField b 0 4 else leField b 4 4))
      let fp ← if f 88 8 = 0 then .ok 0 else
        (match fxeRead s p (f 88 8 + 8 * par) 8 with
        | .error e => .error e
        | .ok b => .ok (leNat b))
      .ok ⟨c, feats, fields, sc, fp, par, fxeShares c, none, (maskDies (f 36 1)).headD 0, false, 0⟩

/-- FAULT_KIND of a failed access (07 Table 5): 1 for a translation, a permission or a domain that is off, 3 for memory. -/
def fxeKind : MemErr → Nat
  | .addr _ | .off _ _ => 1
  | .bad _ _ | .fenced _ _ => 3

/-- The report of a descriptor that fails before its first row, and 0 at its FP_DST, where its control block is in range: after
FAILED_FXE_INVALID no byte is written (07 R213, R223, Table 5). -/
def fxeReject (s : State) (d : Desc) (c : List Byte) (f : Fail) : State :=
  if f.st = St.fxeInvalid then s
  else
    let par := if bitAt (leField c 4 2) 0 then d.fld 20 8 % 2 else 0
    let s1 := if leField c 96 8 = 0 then s else tryWrite s d.part (leField c 96 8 + 8 * par) (leBytes 8 0)
    let m := f.mem?.elim (0, 0) (fun e => (fxeKind e, e.at_))
    tryWrite s1 d.part (leField c 104 8) (layoutBytes 32 [(0, 2, f.st.toNat), (4, 1, m.1), (12, 4, 0xFFFFFFFF), (16, 8, m.2)])

/-- DIE_MASK of an FXE descriptor that has not started; 0 where its control block cannot be read. -/
def fxeMask (s : State) (d : Desc) : Nat :=
  if d.engine = 4 then (match fxeRead s d.part (d.fld 28 6) 128 with | .ok c => leField c 36 1 | .error _ => 0) else 0

/-- GATHER and SCATTER: a descriptor whose control block has this OP starts when its FXEs are idle and none that became ready before it
waits for one of them; it is checked then, and first writes 0 to FP_DST (07 R210, R211, R223). -/
def fxeStart (op r : Nat) (seq : BitVec 32) (s : State) : State :=
  match startable s r seq 4 0 with
  | none => s
  | some d =>
    match fxeRead s d.part (d.fld 28 6) 128 with
    | .error e => endFail s r d e 0
    | .ok c =>
      let m := leField c 36 1
      if leField c 0 1 ≠ op ∧ leField c 0 1 ≤ 1 then s
      else if fxeBusy s (maskDies m) || !firstReady s r seq (fun e => fxeMask s e &&& m != 0) then s
      else match fxeGather s d.part (d.fld 20 8) c with
        | .error e => endFail (fxeReject s d c e) r d e 0
        | .ok w =>
          if w.cb 96 8 = 0 then startWork s r d (.fxe w)
          else match writeVa s d.part (w.cb 96 8 + 8 * w.parity) (leBytes 8 0) with
            | .error e => endFail (fxeReject s d c (memFail St.fxeAddress e)) r d (memFail St.fxeAddress e) 0
            | .ok s1 => startWork s1 r d (.fxe w)

/-! ### Rows -/

/-- A fault of a memory access of a row, with the address that failed (07 R224, R226, Table 5). -/
def fxeFaultOf (row feature : Nat) (e : MemErr) : FxeFault := ⟨row, memStatus St.partial_ e, fxeKind e, feature, e.at_, some e⟩

/-- A component of an element (07 R214, R224). -/
def fxeComp (s : State) (p : Nat) (w : FxeWork) (row ix i g comp : Nat) : Except FxeFault Nat :=
  let a := w.compAddr i g comp
  if leField (w.field i) 16 4 ≤ g then .error ⟨row, St.partial_, 2, ix, a, none⟩
  else match readNat s p a (fxeBytes (leField (w.field i) 24 1)) (some w.unit) with
    | .error e => .error (fxeFaultOf row ix e)
    | .ok v => .ok v

/-- The source element of a feature of row `r`, whose own element is `e`; none when it is missing (07 R217). -/
def fxeSource (s : State) (p : Nat) (w : FxeWork) (r : Nat) (e : Option Nat) (f : List Byte) : Except FxeFault (Option Nat) :=
  match e with
  | none => .ok none
  | some own =>
    match leField f 2 1 with
    | 0 => .ok (some own)
    | 1 =>
      let a := (w.cb 48 8 + 4 * (r * w.cb 20 2 + leField f 3 1)) % 2 ^ 64
      (match readNat s p a 4 (some w.unit) with
      | .error x => .error (fxeFaultOf r 0xFFFF x)
      | .ok g => .ok (if g = 0xFFFFFFFF then none else some g))
    | _ =>
      let nx := w.cb 24 4
      let ny := w.cb 28 4
      let nz := w.cb 32 4
      let x := (r % nx : Nat) + toSigned 8 (leField f 4 1)
      let y := (r / nx % ny : Nat) + toSigned 8 (leField f 5 1)
      let z := (r / (nx * ny) : Nat) + toSigned 8 (leField f 6 1)
      .ok (if 0 ≤ x ∧ x < nx ∧ 0 ≤ y ∧ y < ny ∧ 0 ≤ z ∧ z < nz then some (x + nx * (y + ny * z)).toNat else none)

/-- A value of a solver field or a tensor, widened exactly to FP64 (07 R218, R221). -/
def fxeWiden (t bits : Nat) : Rf := if t = 6 then (bits, 0) else Fmt.fp64.convert (typeValue t bits)

/-- A gathered row so far: the bytes, the largest amax and the overflow bit. -/
abbrev RowAcc := List Byte × Nat × Bool

/-- An FP64 value times an FP32 scale, rounded once to FP32 and converted (05 R138). -/
def quantise64 (dst u q : Nat) : Rf :=
  let (v, fl) := (Fmt.fp64.decode u).mul (Fmt.fp32.decode q)
  let y := withFlags (Fmt.fp32.ofFv v) fl
  let r := convertType 5 dst y.1
  (r.1, r.2 ||| y.2)

/-- One feature of a gathered row; its conversion is the whole way from the field's value to the tensor's, so a flag of the widening or of the
fused multiply-add counts for the overflow bit too (07 Table 1, R218, R219). -/
def gatherFeature (s : State) (p : Nat) (w : FxeWork) (r : Nat) (e : Option Nat) (acc : RowAcc) (ix : Nat) : Except FxeFault RowAcc := do
  let f := w.feats.getD ix []
  let g ← fxeSource s p w r e f
  let x ← match g with
    | none => .ok (0, 0)
    | some g => (match fxeComp s p w r ix (leField f 0 1) g (leField f 1 1) with
      | .error z => .error z
      | .ok v => .ok (fxeWiden (leField (w.field (leField f 0 1)) 24 1) v))
  let u := Fmt.fp64.fma x.1 (leField f 16 8) (leField f 24 8)
  let q := quantise64 w.tfmt u.1 w.scale
  let es := fxeBytes w.tfmt
  .ok (patchBytes acc.1 (leField f 8 2 * es) (leBytes es q.1), max acc.2.1 (absNan32 (convertType 6 5 (fAbs u.1)).1),
    acc.2.2 || ((x.2 ||| u.2 ||| q.2) &&& (Fl.iv + Fl.of + Fl.sat)) != 0)

/-- The row's own element, or the fault of its index (07 R216, R224). -/
def rowElement (s : State) (p : Nat) (w : FxeWork) (r : Nat) : Except FxeFault (Option Nat) :=
  match fxeElement s p w r with
  | .ok e => .ok e
  | .error x => .error (fxeFaultOf r 0xFFFF x)

/-- A write of a row. -/
def rowWrite (s : State) (p : Nat) (w : FxeWork) (row ix a : Nat) (bs : List Byte) : Except FxeFault State :=
  match writeVa s p a bs (some w.unit) with
  | .ok s1 => .ok s1
  | .error e => .error (fxeFaultOf row ix e)

/-- A gathered row: the state, its largest amax and its overflow bit (07 R218). A fault of the tensor row itself names no feature. -/
def gatherRow (s : State) (p : Nat) (w : FxeWork) (r : Nat) : Except FxeFault (State × Nat × Bool) := do
  let e ← rowElement s p w r
  let start : RowAcc := (List.replicate (w.cb 6 2 * fxeBytes w.tfmt) 0#8, 0, false)
  let acc ← (List.range w.feats.length).foldl (fun a ix => match a with
    | .error z => .error z
    | .ok acc => gatherFeature s p w r e acc ix) (Except.ok start)
  let s1 ← rowWrite s p w r 0xFFFF (w.rowAddr r) acc.1
  .ok (s1, acc.2.1, acc.2.2)

/-- One feature of a scattered row of element `g` (07 R221). -/
def scatterFeature (p : Nat) (w : FxeWork) (r g : Nat) (row : List Byte) (s : State) (ix : Nat) : Except FxeFault State := do
  let f := w.feats.getD ix []
  let i := leField f 0 1
  let es := fxeBytes w.tfmt
  let ty := leField (w.field i) 24 1
  let a := w.compAddr i g (leField f 1 1)
  if leField (w.field i) 16 4 ≤ g then .error ⟨r, St.partial_, 2, ix, a, none⟩
  else
    let v := (Fmt.fp64.mul (fxeWiden w.tfmt (leField row (leField f 8 2 * es) es)).1 (fxeWiden 5 w.scale).1).1
    let z0 := (Fmt.fp64.fma v (leField f 16 8) (leField f 24 8)).1
    let z ← match leField f 7 1 with
      | 0 => .ok z0
      | m =>
        let j := if m = 1 then i else leField f 3 1
        (match fxeComp s p w r ix j g (leField f 1 1) with
        | .error x => .error x
        | .ok b => .ok (Fmt.fp64.add (fxeWiden (leField (w.field j) 24 1) b).1 z0).1)
    rowWrite s p w r ix a (leBytes (fxeBytes ty) (convertType 6 ty z).1)

/-- A scattered row; a missing one writes nothing (07 R221). -/
def scatterRow (s : State) (p : Nat) (w : FxeWork) (r : Nat) : Except FxeFault State := do
  let e ← rowElement s p w r
  match e with
  | none => .ok s
  | some g =>
    match readVa s p (w.rowAddr r) (w.cb 6 2 * fxeBytes w.tfmt) (some w.unit) with
    | .error x => .error (fxeFaultOf r 0xFFFF x)
    | .ok row =>
      (List.range w.feats.length).foldl (fun st ix => match st with
        | .error z => .error z
        | .ok s => scatterFeature p w r g row s ix) (Except.ok s)

/-- The row of a die, whose requests come from that die: the state and the die's share after it. -/
def fxeRow (s : State) (p : Nat) (v : FxeWork) (x : FxeDie) : Except FxeFault (State × FxeDie) :=
  let w := { v with unit := x.die }
  if w.isGather then
    match gatherRow s p w x.next with
    | .error f => .error f
    | .ok (s1, am, ov) => .ok (s1, { x with next := x.next + 1, rows := x.rows + 1, amax := max x.amax am, ovf := x.ovf || ov })
  else
    match scatterRow s p w x.next with
    | .error f => .error f
    | .ok s1 => .ok (s1, { x with next := x.next + 1, rows := x.rows + 1 })

/-! ### Completion -/

/-- A descriptor whose dies have stopped and whose posts are accepted: its fingerprint, report and record (07 R223 to R226, Table 5). -/
def fxeFinish (s : State) (r : Nat) (d : Desc) (w : FxeWork) : State :=
  let rep := fun (s : State) (st : BitVec 16) (fpw : Bool) => tryWrite s d.part (w.cb 104 8) (fxeReport w st fpw)
  match w.fault with
  | some f =>
    let detail := if f.status = St.partial_ then fxeResumeRow w - w.cb 8 4 + f.row * 2 ^ 32 else 0
    let e : ErrEvent := match f.mem with
      | some (.addr _) => mkErr 0x04 2 3 (unitField 3 w.unit) none f.addr (leBytes 8 f.addr)
      | some x => memRecord d St.fxeAddress x
      | none => mkErr 0x03 2 3 (unitField 3 w.unit) none f.addr []
    endWith (rep s f.status false) r d f.status detail e
  | none =>
    let st := if d.corrected then St.okCorrected else St.ok
    if w.cb 96 8 = 0 then settleAll (completeOne (rep s st false) r d St.ok 0 false)
    else match writeVa s d.part (w.cb 96 8 + 8 * w.parity) (leBytes 8 w.fp) with
      | .error e => endMem (rep s (memStatus St.fxeAddress e) false) r d St.fxeAddress e 0
      | .ok s1 => settleAll (completeOne (rep s1 st true) r d St.ok 0 false)

/-- A descriptor after a row: the dies `ds` have stopped and post; it completes once every die has stopped and every post is accepted
(07 R219, R225). -/
def fxeSettle (s : State) (r : Nat) (d : Desc) (w : FxeWork) (ds : List FxeDie) : State :=
  let ps := fxePosts r d w ds
  let v := { w with posts := w.posts + ps.length, halted := w.fault.isSome || w.busyDies.isEmpty }
  let s1 := setDesc { s with posts := s.posts ++ ps } r { d with work := .fxe v }
  if v.halted && v.posts == 0 then fxeFinish s1 r d v else s1

/-- FXE_ROW_DONE: a die finishes its next row, or faults; after a fault every die stops at its row boundary, and a row that another die
has under way ends before this one's event (07 R224, R225). -/
def fxeRowDone (r : Nat) (seq : BitVec 32) (k : Nat) (s : State) : State :=
  match runningDesc s r seq 4 with
  | none => s
  | some d =>
    match fxeOf d with
    | none => s
    | some w =>
      match w.dies.find? (fun x => x.die == k && decide (x.next < x.stop)) with
      | none => s
      | some x =>
        if w.halted then s
        else match fxeRow s d.part w x with
          | .error f => fxeSettle s r d { w with fault := some f, unit := k } w.busyDies
          | .ok (s1, y) => fxeSettle s1 r d { w with dies := w.dies.map (fun z => if z.die = k then y else z) } (if y.next < y.stop then [] else [y])

/-- FXE descriptors whose posts have all been accepted complete. -/
def fxePoll (s : State) : State :=
  match (runningAll s).findSome? (fun x => (fxeOf x.2).bind (fun w => if w.halted ∧ w.posts = 0 then some (x.1, x.2, w) else none)) with
  | none => s
  | some (r, d, w) => fxeFinish s r d w

/-- GATHER. -/
def execGather (r : Nat) (seq : BitVec 32) (s : State) : Host.Outcome State Fault Refusal := onUnit (r < 4096) (fxeStart 0 r seq s)
/-- SCATTER. -/
def execScatter (r : Nat) (seq : BitVec 32) (s : State) : Host.Outcome State Fault Refusal := onUnit (r < 4096) (fxeStart 1 r seq s)
/-- FXE_ROW_DONE. -/
def execFxeRowDone (r : Nat) (seq : BitVec 32) (k : Nat) (s : State) : Host.Outcome State Fault Refusal := onUnit (r < 4096 && k < 8) (fxeRowDone r seq k s)
/-- SCU_POST: a descriptor whose last post this was may complete. -/
def execScuPost (k : Nat) (s : State) : Host.Outcome State Fault Refusal := onUnit (k < 8) (fxePoll (scuPost k s))

end Sys2Proof.Machine
end

