-- ==== Sys2Proof/Machine/Fpu.lean ====
section
/-! DEFINITION. The arithmetic of the scalar F and D instructions, in every rounding mode of RISC-V (08 R238; log entry 8). -/

namespace Sys2Proof.Machine

/-! ### Rounding modes: 0 nearest even, 1 towards zero, 2 down, 3 up, 4 nearest with ties away from zero -/

/-- `m × 2^-sh` of a sign rounded to an integer, as `rne` does it in mode 0; `sticky` says that a positive part below the last bit of `m` was
cut off. The second component says that the result is inexact. -/
def roundDir (rm : Nat) (neg : Bool) (m : Nat) (sh : Int) (sticky : Bool) : Nat × Bool :=
  let k := sh.toNat
  let q := m / 2 ^ k
  let inexact := (rne m sh sticky).2
  match rm with
  | 1 => if sh ≤ 0 then rne m sh sticky else (q, inexact)
  | 2 => if sh ≤ 0 then rne m sh sticky else (if neg && inexact then q + 1 else q, inexact)
  | 3 => if sh ≤ 0 then rne m sh sticky else (if !neg && inexact then q + 1 else q, inexact)
  | 4 => if sh ≤ 0 then rne m sh sticky else (if 2 ^ (k - 1) ≤ m % 2 ^ k then q + 1 else q, inexact)
  | _ => rne m sh sticky

/-- An exact finite value rounded to the format in a mode; an overflow gives an infinity, or the largest finite value where the mode rounds away
from the infinity. -/
def Fmt.roundDir (f : Fmt) (rm : Nat) (neg : Bool) (m : Nat) (e : Int) (sticky : Bool) : Rf :=
  if m = 0 then (f.signed neg 0, 0)
  else
    let top := e + bitLen m - 1
    let q0 := f.emin - f.mbits
    let q := max (top - f.mbits) q0
    let r := Machine.roundDir rm neg m (q - e) sticky
    let ru := Machine.roundDir rm neg m (top - f.mbits - e) sticky
    let tiny := decide ((if ru.1 = 2 ^ (f.mbits + 1) then top + 1 else top) < f.emin)
    let mag := (q - q0).toNat * 2 ^ f.mbits + r.1
    if f.maxFinite < mag then
      (f.signed neg (if rm == 1 || (rm == 2 && !neg) || (rm == 3 && neg) then f.maxFinite else f.infBits), Fl.of + Fl.nx)
    else (f.signed neg mag, (if r.2 then Fl.nx else 0) + (if r.2 && tiny then Fl.uf else 0))

/-- An exact value in a format, rounded once in a mode; a NaN is canonical. -/
def Fmt.ofFvDir (f : Fmt) (rm : Nat) : Fv → Rf
  | .nan _ => (f.qnan, 0)
  | .inf n => (f.signed n f.infBits, 0)
  | .num n m e => f.roundDir rm n m e false

/-! ### Arithmetic -/

/-- The exact sum of two values; a zero sum of values of opposite signs is −0 when rounding down. -/
def Fv.addDir (rm : Nat) (a b : Fv) : Fv × Nat :=
  match a.add b with
  | (.num n 0 e, fl) => (.num (if rm = 2 then a.sign || b.sign else n) 0 e, fl)
  | r => r

/-- Sum. -/
def Fmt.addDir (f : Fmt) (rm : Nat) (a b : Fv) : Rf :=
  let r := a.addDir rm b
  withFlags (f.ofFvDir rm r.1) r.2

/-- Product. -/
def Fmt.mulDir (f : Fmt) (rm : Nat) (a b : Fv) : Rf :=
  let r := a.mul b
  withFlags (f.ofFvDir rm r.1) r.2

/-- `±(a × b) ± c`, rounded once. -/
def Fmt.fmaDir (f : Fmt) (rm : Nat) (negP negC : Bool) (a b c : Fv) : Rf :=
  let p := a.mul b
  let r := (if negP then p.1.neg else p.1).addDir rm (if negC then c.neg else c)
  withFlags (f.ofFvDir rm r.1) (p.2 ||| r.2 ||| (if c.isSnan then Fl.iv else 0))

/-- Quotient. -/
def Fmt.divDir (f : Fmt) (rm a b : Nat) : Rf :=
  match f.decode a, f.decode b with
  | .num n m e, .num k m2 e2 =>
    if m = 0 ∨ m2 = 0 then f.div a b
    else
      let sh := 2 * f.mbits + 8
      let x := m * 2 ^ sh
      f.roundDir rm (n != k) (x / m2) (e - e2 - sh) (x % m2 != 0)
  | _, _ => f.div a b

/-- Square root. -/
def Fmt.sqrtDir (f : Fmt) (rm a : Nat) : Rf :=
  match f.decode a with
  | .num false m e =>
    if m = 0 then f.sqrt a
    else
      let k : Nat := 2 * f.mbits + 8
      let odd : Nat := (e % 2).toNat
      let x := m * 2 ^ (2 * k + odd)
      let r := isqrt x
      f.roundDir rm false r ((e - odd) / 2 - k) (r * r != x)
  | _ => f.sqrt a

/-- FMIN and FMAX: the operand that is no NaN, where only one is. -/
def Fmt.minNum (f : Fmt) (isMax : Bool) (a b : Nat) : Rf :=
  let x := f.decode a
  let y := f.decode b
  let fl := if x.isSnan || y.isSnan then Fl.iv else 0
  if x.isNan && y.isNan then (f.qnan, fl) else if x.isNan then (b, fl) else if y.isNan then (a, fl) else f.minMax isMax a b

/-- FCLASS: one bit of ten. -/
def Fmt.classOf (f : Fmt) (a : Nat) : Nat :=
  match f.decode a with
  | .nan s => if s then 2 ^ 8 else 2 ^ 9
  | .inf n => if n then 1 else 2 ^ 7
  | .num n m _ =>
    let k := if m = 0 then 0 else if fieldOf a f.mbits f.ebits = 0 then 1 else 2
    if n then 2 ^ (3 - k) else 2 ^ (4 + k)

/-- A value rounded to an integer of `w` bits in a mode; one out of range, and a NaN as the largest, is invalid. -/
def fpToInt (rm w : Nat) (signed : Bool) (v : Fv) : Int × Nat :=
  let lo : Int := if signed then -(2 ^ (w - 1) : Nat) else 0
  let hi : Int := if signed then (2 ^ (w - 1) : Nat) - 1 else (2 ^ w : Nat) - 1
  match v with
  | .nan _ => (hi, Fl.iv)
  | .inf n => (if n then lo else hi, Fl.iv)
  | .num n m e =>
    let r := roundDir rm n m (-e) false
    let x := sgn n r.1
    if x < lo then (lo, Fl.iv) else if hi < x then (hi, Fl.iv) else (x, if r.2 then Fl.nx else 0)

/-- An integer in a format. -/
def Fmt.ofIntDir (f : Fmt) (rm : Nat) (x : Int) : Rf := f.roundDir rm (decide (x < 0)) x.natAbs 0 false

end Sys2Proof.Machine
end

