-- ==== Sys2Proof/Machine/Power.lean ====
section
/-! DEFINITION. Power domains, resets and the boot (02 R46 to R54, 15 R507, R508, R513, 16 R524 to R527, R561). -/

namespace Sys2Proof.Machine

/-! ### Domains -/

/-- Parent of a power domain (02 Table 7); P0 uncore has none. -/
def parentDomain (d : Nat) : Option Nat :=
  if d = 0 then none
  else if d = 1 ∨ d = 2 ∨ d = 4 ∨ d = 5 then some 0
  else if d = 3 then some 1
  else if d < 10 then some 4
  else if d < 14 then some 5
  else some (d - 8)

/-- The domains under a domain. -/
def childDomains (d : Nat) : List Nat := (List.range 30).filter (fun c => parentDomain c == some d)

/-- Steps 2 to 17 of the power-up order (02 Table 8). -/
def upOrder : List (List Nat) :=
  [[2], [4, 5], [1], [3], [6, 10], [7, 11], [8, 12], [9, 13], [14, 18], [15, 19], [16, 20], [17, 21], [22, 26], [23, 27], [24, 28], [25, 29]]

/-- The ordered power-down of every domain but P0 uncore (02 R49). -/
def downOrder : List (List (Nat × Bool)) := upOrder.reverse.map (fun l => l.map (fun d => (d, false)))

/-- What a domain held is lost with its power: HBM, Lake, SRAM and scratchpad contents, hart state, links (02 R47, 16 Table 4). -/
def domainLost (s : State) (d : Nat) : State :=
  let s := { s with initing := s.initing.filter (· != d) }
  if d = 1 then
    [4, 5, 6, 7].foldl (fun s sl => setSlot s sl { Slot.init with perst := (slotOf s sl).perst })
      (zeroRange s (sramKey 1 0) (sramKey 2 0))
  else if d = 2 ∨ d = 3 then
    { s with harts := sclear s.harts (48 * (d - 2)) (48 * (d - 1)), resvs := s.resvs.filter (fun x => x.1 / 48 != d - 2) }
  else if d = 4 ∨ d = 5 then
    fdieLost ((List.range 8).foldl (fun s i => linkDrop s (8 * (d - 4) + i)) s) (d - 4)
  else if 6 ≤ d ∧ d < 14 then { s with lakeQ := sset (fun _ => []) s.lakeQ (d - 6) [] }
  else if 14 ≤ d ∧ d < 22 then
    let k := 2 * (d - 14)
    let s1 := zeroRange s (hbmKey k 0 0) (hbmKey (k + 2) 0 0)
    let s2 := { s1 with bad := s1.bad.filter (fun x => !(decide (hbmKey k 0 0 ≤ 32 * x) && decide (32 * x < hbmKey (k + 2) 0 0))) }
    [k, k + 1].foldl (fun s j => setReg s (okey (Reg.hmcStackStatus + 8 * j)) 0) s2
  else if 22 ≤ d then
    let k := d - 22
    let s1 := zeroRange s (spKey (168 * k) 0) (spKey (168 * (k + 1)) 0)
    { s1 with tiles := sclear s1.tiles (168 * k) (168 * (k + 1)), pll := sset (fun _ => 0) s1.pll k 0 }
  else s

/-- Domains start to ramp (02 R48, R50). DOM_RAMPING closes a domain's crossings to new requests at once (02 R51), and a domain that goes off
keeps DOM_ON and its contents until its ramp ends (log entry 32). -/
def rampStart (s : State) (l : List (Nat × Bool)) : State :=
  l.foldl (fun s x => setRfld s (okey Reg.pwrDomainStatus) (32 + x.1) 1 1) { s with ramps := s.ramps ++ l }

/-- Memory of a domain that comes on is to be initialised (16 R561). -/
def needsInit (d : Nat) : Bool := decide (d < 2) || decide (14 ≤ d)

/-- A domain has gone off: DOM_ON clears and what it held is lost (02 R50). -/
def domainDown (s : State) (d : Nat) : State := domainLost (setRfld s (okey Reg.pwrDomainStatus) d 1 0) d

/-- A domain has come on: its isolation is released, its PLL runs and its memory waits to be initialised (02 R47, R48). The spec gives no frequency at
which a main PLL starts; the model starts it at its goal, the lower of the target and the thermal cap (log entry 32, DESIGN CHOICE). -/
def domainUp (s : State) (d : Nat) : State :=
  let s1 := setRfld s (okey Reg.pwrDomainStatus) d 1 1
  let s2 := if 22 ≤ d then setPll s1 (d - 22) (goalMhz s1 (d - 22)) else if d = 2 ∨ d = 3 then setPll s1 (d + 6) (goalMhz s1 (d + 6)) else s1
  if needsInit d && !s2.initing.contains d then { s2 with initing := s2.initing ++ [d] } else s2

/-! ### Requests of the Owner -/

/-- A spare-in or a row repair is in progress: ERR_SPARE_CTRL shows it, or its part is being moved (02 R53, 14 R463, Table 6). -/
def spareRuns (s : State) : Bool :=
  ofld s Reg.errSpareCtrl 24 1 == 1 || s.repair.isSome || s.groups.any (fun e => e.2.sparing.isSome) || s.wayMove.any (fun e => e.2.isSome) ||
    (List.range 16).any (fun p => (portOf s p).sparing.isSome)

/-- A domain may not go off because it is in use (02 Table 7). -/
def domainUsed (s : State) (d : Nat) : Bool :=
  if d = 1 then [4, 5, 6, 7].any (fun sl => (slotOf s sl).up)
  else if d = 3 then (partsOf s).any (fun p => fieldOf (clusterMask s p) 12 12 != 0)
  else if d = 4 ∨ d = 5 then (List.range 8).any (fun i => portAdmin s (8 * (d - 4) + i))
  else if 14 ≤ d ∧ d < 22 then (List.range 64).any (fun n => bitAt (regionWord s n) 0 && (footprint s n).1.any (fun k => k / 2 == d - 14))
  else if 22 ≤ d then (List.range 21).any (fun g => (groupPart s (21 * (d - 22) + g)).isSome)
  else false

/-- RESULT of a request: 0 nothing to do, 1 accepted, 2 to 6 refused (02 PWR_DOMAIN_CTRL, R46). Where several reasons apply the spec gives no order; the
model tests 6, 5, 4, then whether the domain is there already (0), then 2 and 3 (log entry 32, DESIGN CHOICE). -/
def domainResult (s : State) (d : Nat) (up : Bool) : Nat :=
  if 30 ≤ d ∨ d = 0 ∨ d = 2 then 6
  else if grantBusy s || spareRuns s then 5
  else if up && decide (2 ≤ stage s) then 4
  else if domainOn s d == up && !domainRamps s d then 0
  else if up && (match parentDomain d with | some q => !domainOpen s q | none => false) then 2
  else if !up && (childDomains d).any (fun c => domainOn s c || domainRamps s c) then 2
  else if !up && domainUsed s d then 3
  else 1

/-- The request in PWR_DOMAIN_CTRL is judged; an accepted one starts once no domain ramps and no ordered sequence runs, so that no more than
two domains ramp at once and no order is broken (02 R48, R49, R53). -/
def requestTurn (s : State) : State :=
  if ofld s Reg.pwrDomainCtrl 12 1 = 0 || !alive s then s
  else
    let d := ofld s Reg.pwrDomainCtrl 0 5
    let up := ofld s Reg.pwrDomainCtrl 8 1 == 1
    let r := domainResult s d up
    if r != 1 then setResult s Reg.pwrDomainCtrl 12 0 16 3 r
    else
      let s1 := setResult s Reg.pwrDomainCtrl 12 1 16 3 1
      if s.ramps.isEmpty && s.rampSteps.isEmpty then rampStart s1 [(d, up)] else s1

/-! ### Resets -/

/-- Words that live in fuses or flash and survive every reset (03 TIL_REMAP, TIL_DIE_INFO, 08 GLB_PDIE_INFO, 09 LAK_WAY_STATUS, 15 SEC_STATUS). -/
def fuseWord (k : Nat) : Bool :=
  let o := 8 * k
  decide (k < 2 ^ 24) && (o == Reg.secStatus || (decide (Reg.tilRemap ≤ o) && decide (o < Reg.tilRemap + 0x800)) ||
    (decide (Reg.tilDieInfo ≤ o) && decide (o < Reg.tilDieInfo + 64)) || (decide (Reg.glbPdieInfo ≤ o) && decide (o < Reg.glbPdieInfo + 16)) ||
    (decide (Reg.lakWayStatus ≤ o) && decide (o < Reg.lakWayStatus + 64)))

/-- A field of a register word copied from another state. -/
def copyField (src dst : State) (off lo len : Nat) : State := setRfld dst (okey off) lo len (ofld src off lo len)

/-- An entry that the SMC appends to the flash log for an event with no KIND of its own; the KIND is a free value (log entry 6). -/
def logNote (s : State) (detail : List Byte) : State :=
  let (x, s1) := fresh s
  logAppend s1 (errBytes (mkErr (x.toNat % 65536) 0 0 0 none 0 detail) 0 0xF 1 (stamp s1 18) 0 false)

/-- What survives the loss of every domain: the board's and the host's side, flash and fuses, the regulator controller, and the
recognised levels of the inputs (16 R517, Table 4, R538). -/
def survivors (s : State) : State :=
  let t := { State.reset with
    pending := s.pending, tick := s.tick, freeCount := s.freeCount
    mem := sclear s.mem 0 (2 ^ 64), regs := s.regs.filter (fun e => fuseWord e.1)
    flashLog := s.flashLog, fatalAt := s.fatalAt, msix := s.msix, wire := s.wire, hostReply := s.hostReply
    slots := s.slots.foldl (fun m e => sset (fun _ => Slot.init) m e.1 { Slot.init with perst := e.2.perst }) []
    por := s.por, vin := s.vin, trip := s.trip, tripSeen := s.tripSeen, s4count := s.s4count, droop := s.droop
    groups := s.groups.foldl (fun m e => sset (fun _ => Group.init) m e.1 { Group.init with withdrawn := e.2.withdrawn }) []
    coreMap := s.coreMap, hardRepairs := s.hardRepairs
    repairUsed := s.hardRepairs.foldl (fun m x => let k := bankGroup x.1 x.2.1 x.2.2.1; sset (fun _ => 0) m k (sget (fun _ => 0) m k + 1)) []
    wayGone := s.wayGone, spareBind := s.spareBind, rowFailed := s.rowFailed, clusterGone := s.clusterGone
    tileGone := s.tileGone, coreGone := s.coreGone
    slotA := s.slotA, slotB := s.slotB, dirActive := s.dirActive, dirNext := s.dirNext, dirTrial := s.dirTrial
    cfgBlocks := s.cfgBlocks, alertPulses := s.alertPulses, stuckTold := s.stuckTold, initing := [] }
  let t1 := copyField s (copyField s t Reg.errSwatchCtrl 16 32) Reg.pwrSagStatus 0 3
  let t2 := (List.range 5).foldl (fun t i => setLevel t i (inputLevel s i)) (copyField s t1 Reg.pwrSagStatus 16 16)
  healthQuiet (fatalCount t2)

/-- Every domain goes off at once, with no record: POR_N, S5, a thermal trip, the removal of VIN (16 R519, R524, R525). -/
def coldOff (s : State) : State := setReg { survivors s with boot := .off } (okey Reg.pwrDomainStatus) 0

/-- The 8 secure banks are zeroed (08 R263). -/
def wipeBanks (s : State) : State :=
  let s1 := (List.range 2).foldl (fun s d => zeroRange s (sramKey d 0x3C00000) (sramKey (d + 1) 0)) s
  { s1 with keys := false }

/-- P0 uncore resets without losing power and the boot ROM starts, unless WARM_RST_N holds the package in reset (16 R526, R537). -/
def uncoreReset (s : State) : State :=
  let hold := inputLevel s 4 && inputOn s 4
  let t := wipeBanks { survivors s with tapHeld := s.tapHeld, tapInstr := s.tapInstr, tapOut := s.tapOut, initing := [0] }
  if hold then { t with boot := .off, warm := 3 } else t

/-- The commit of block 3 ends the boot (16 R527). -/
def bootDone (s : State) : State :=
  if s.initing.isEmpty then bootCommit { s with boot := .done } else { s with boot := .memInit }

/-- Nothing is left to ramp: a boot goes on, or a warm reset resets P0 uncore. -/
def rampsEnd (s : State) : State :=
  if s.warm = 2 then uncoreReset s
  else if s.boot == .powering && decide (stage s < 4) then bootDone s
  else requestTurn s

/-- The next step of an ordered power-up or power-down, past the steps with nothing to do (02 R48, R49). -/
def nextStep : List (List (Nat × Bool)) → State → State
  | [], s => rampsEnd { s with rampSteps := [] }
  | l :: rest, s =>
    let todo := l.filter (fun x => domainOn s x.1 != x.2)
    if todo.isEmpty then nextStep rest s else rampStart { s with rampSteps := rest } todo

/-- The sequence goes on once no domain ramps. -/
def goOn (s : State) : State := if s.ramps.isEmpty then nextStep s.rampSteps s else s

/-- The ordered power-down of every domain but P0 uncore starts (02 R49, 16 R521, R526). -/
def powerDown (s : State) : State := goOn { s with rampSteps := downOrder }

/-- Step 3 of a warm reset follows once no port drains (16 R526). -/
def drained (s : State) : State :=
  if s.warm = 1 && (List.range 16).all (fun p => portState s p != 6) then powerDown { s with warm := 2 } else s

/-- A warm reset starts: every VALID partition is reset and every UP port drains (16 R526). -/
def warmReset (s : State) : State :=
  if s.boot == .off || s.warm != 0 then s
  else
    let s1 := (partsOf s).foldl partitionReset s
    drained ((List.range 16).foldl (fun s p => if portState s p = 4 then drainPort s p else s) { s1 with warm := 1 })

/-! ### The boot -/

/-- An image that the boot ROM accepts (15 R507). -/
def acceptable (s : State) (b : Bool) : Option Image :=
  (if b then s.slotB else s.slotA).filter (fun i => imageGood i && decide (ofld s Reg.secStatus 8 16 ≤ imageSvn i))

/-- The slot and image that the boot ROM runs: NEXT when TRIAL is set and ACTIVE otherwise, else the other slot (15 R508). -/
def bootChoice (s : State) : Option (Bool × Image) :=
  let first := if s.dirTrial then s.dirNext else s.dirActive
  match acceptable s first with
  | some i => some (first, i)
  | none => (acceptable s !first).map (fun i => (!first, i))

/-- The register words of a block at reset, live and in the shadow (15 R513). -/
def resetBlock (s : State) (id : Nat) : State :=
  match goodBlock s id with
  | none => s
  | some b => b.sets.foldl (fun s x => if shadowedKey x.1 then setReg (setShadow s x.1 x.2) x.1 x.2 else setReg s x.1 x.2) s

/-- The SMC checks every block: a bad one falls back to its defaults, which CFG_STATUS and the flash log show (15 R513). -/
def checkBlocks (s : State) : State :=
  (List.range 5).foldl (fun s i =>
    let id := i + 1
    if (goodBlock s id).isSome then (if id = 3 then s else resetBlock s id)
    else
      let k := okey Reg.cfgStatus
      let s1 := logNote (setRfld (setRfld s k 0 1 1) k (8 + id) 1 1) (leBytes 2 id)
      if id = 1 then { s1 with spareBind := [] } else s1) s

/-- SMC_VERIFY_DONE: the boot ROM runs an image and the other domains power up, or the SMC enters recovery (02 R48, 15 R504, R507 to
R509, R513). A trial runs once: a reset before CONFIRM boots the previous slot (log entry 6). -/
def verifyDone (s : State) : State :=
  if s.boot != .verifying || !s.ramps.isEmpty || s.warm != 0 || s.fatal.isSome then s
  else
    let k := okey Reg.secStatus
    let s0 := setRfld (setRfld s k 2 1 (b2n s.dirActive)) k 3 1 0
    match bootChoice s with
    | none => { s0 with boot := .recovery }
    | some (b, img) =>
      let s1 := setRfld s0 k 3 1 (b2n (s.dirTrial && b == s.dirNext))
      let s2 := setRfld { s1 with
        running := some img, smcStart := s.tick, dirTrial := false, boot := .powering
        keys := ofld s Reg.secStatus 0 2 == 1 || ofld s Reg.secStatus 0 2 == 2 } (okey Reg.glbId) 32 32 (imageVersion img)
      let s3 := (List.range 8).foldl (fun s p => setRfld s (pkey p Reg.detInfo) 0 16 (imageRed img)) s2
      let s4 := if s3.tripSeen then { logNote s3 [] with tripSeen := false } else s3
      nextStep (upOrder.map (fun l => l.map (fun d => (d, true)))) (checkBlocks s4)

/-- POR_RELEASE: P0 uncore ramps, with VIN present and no trip latched (02 R48, 16 R525, R527). -/
def porRelease (s : State) : State :=
  if s.boot != .off || !s.por || !s.vin || s.trip then s
  else
    let st := if 4 ≤ stage s then 0 else stage s
    rampStart (setRfld { s with por := false } (okey Reg.pwrSagStatus) 0 3 st) [(0, true)]

/-- POR_ASSERT: a cold reset, which clears the trip latch (16 R517, R525). -/
def porAssert (s : State) : State := { coldOff s with por := true, trip := false }

/-- VIN_APPLIED: the regulator controller runs (16 R517). -/
def vinApplied (mv : Nat) (s : State) : State :=
  if s.vin then s else setRfld { s with vin := true } (okey Reg.pwrSagStatus) 16 16 (satNat 16 mv)

/-- VIN_REMOVED: everything is off; stage, count and trip latch are cleared (16 R517). -/
def vinRemoved (s : State) : State :=
  if !s.vin then s
  else setRfld { coldOff s with vin := false, trip := false, s4count := 0, droop := false } (okey Reg.pwrSagStatus) 0 3 0

/-- THERMAL_TRIP (16 R531). -/
def thermalTrip (stack : Bool) (temp : Nat) (s : State) : State :=
  if s.boot == .off || decide (temp < if stack then 105 else 115) then s else { coldOff s with trip := true, tripSeen := true }

/-- DOMAIN_RAMP_DONE: a ramp ends; a request for the domain is done, and an ordered sequence takes its next step (02 R48, R50,
R53). P0 uncore's own ramp starts the boot ROM. -/
def rampDone (d : Nat) (s : State) : State :=
  match s.ramps.find? (fun x => x.1 == d) with
  | none => s
  | some (_, up) =>
    let s1 := setRfld { s with ramps := s.ramps.filter (fun x => x.1 != d) } (okey Reg.pwrDomainStatus) (32 + d) 1 0
    let s2 := if up then domainUp s1 d else domainDown s1 d
    let s3 := if ofld s2 Reg.pwrDomainCtrl 12 1 = 1 ∧ ofld s2 Reg.pwrDomainCtrl 0 5 = d then setResult s2 Reg.pwrDomainCtrl 12 0 16 3 0 else s2
    if d = 0 then wipeBanks { s3 with boot := .verifying } else goOn s3

/-- MEMORY_INIT_DONE, with the commit that ends a boot (16 R527, R561). -/
def memoryInitEnd (d : Nat) (s : State) : State :=
  let t := memoryInitDone d s
  if s.boot == .memInit && t.boot == .done then bootCommit t else t

/-- PWR_DOMAIN_REQUEST (02 R53, R54). -/
def domainRequest (view : Nat) (v : Word) (s : State) : State :=
  if !bitAt v.toNat 12 || !alive s then s
  else match actionWrite s view Reg.pwrDomainCtrl v with
  | none => s
  | some s1 => requestTurn (setRfld s1 (okey Reg.pwrDomainCtrl) 12 1 1)

/-- GLB_RESET: WARM with KEY 0x5A (16 R526). -/
def glbReset (view : Nat) (v : Word) (s : State) : State :=
  if view = 8 && bitAt v.toNat 0 && fieldOf v.toNat 8 8 == 0x5A && alive s then warmReset s else s

/-! ### Fatal faults of power -/

/-- The domains below a domain, deepest last. -/
def descendants (d : Nat) : List Nat :=
  let a := childDomains d
  let b := a.flatMap childDomains
  let c := b.flatMap childDomains
  a ++ b ++ c ++ c.flatMap childDomains

/-- REGULATOR_FAULT: the domain loses power, no descendant comes up any more, those that are on go off in reverse order along with what a
power-down under way still has to do, and the device is fatal; a fault of P0 uncore itself leaves no record (02 R46, R49, R52). -/
def regulatorFault (d : Nat) (s : State) : State :=
  if s.boot == .off then s
  else if d = 0 then setReg { survivors s with boot := .off, fatal := some 3 } (okey Reg.pwrDomainStatus) 0
  else if !domainOn s d && !s.ramps.any (fun x => x.1 == d) then s
  else
    let below := descendants d
    let stops := fun (x : Nat × Bool) => x.1 == d || (below.contains x.1 && x.2)
    let f := deviceFatal s 3
    let s0 := (s.ramps.filter stops).foldl (fun s x => setRfld s (okey Reg.pwrDomainStatus) (32 + x.1) 1 0)
      { f with ramps := f.ramps.filter (fun x => !stops x) }
    let left := fun (x : Nat × Bool) => below.contains x.1 || s.rampSteps.any (fun l => l.contains x)
    goOn { domainDown s0 d with rampSteps := downOrder.map (fun l => l.filter left) }

/-- P0_INTERNAL_CHECK (14 R451). -/
def internalCheck (s : State) : State := if alive s then deviceFatal s 5 else s

/-! ### Meanings -/

/-- PWR_DOMAIN_REQUEST. -/
def execPwrDomainRequest (view : Nat) (v : Word) (s : State) : Host.Outcome State Fault Refusal := .next (domainRequest view v s)
/-- DOMAIN_RAMP_DONE. -/
def execDomainRampDone (d : Nat) (s : State) : Host.Outcome State Fault Refusal := onUnit (d < 30) (rampDone d s)
/-- MEMORY_INIT_DONE. -/
def execMemoryInitDone (d : Nat) (s : State) : Host.Outcome State Fault Refusal := onUnit (d < 30) (memoryInitEnd d s)
/-- REGULATOR_FAULT. -/
def execRegulatorFault (d : Nat) (s : State) : Host.Outcome State Fault Refusal := onUnit (d < 30) (regulatorFault d s)
/-- P0_INTERNAL_CHECK. -/
def execP0InternalCheck (s : State) : Host.Outcome State Fault Refusal := .next (internalCheck s)
/-- VIN_APPLIED. -/
def execVinApplied (mv : Nat) (s : State) : Host.Outcome State Fault Refusal := .next (vinApplied mv s)
/-- VIN_REMOVED. -/
def execVinRemoved (s : State) : Host.Outcome State Fault Refusal := .next (vinRemoved s)
/-- POR_RELEASE. -/
def execPorRelease (s : State) : Host.Outcome State Fault Refusal := .next (porRelease s)
/-- POR_ASSERT. -/
def execPorAssert (s : State) : Host.Outcome State Fault Refusal := .next (porAssert s)
/-- SMC_VERIFY_DONE. -/
def execSmcVerifyDone (s : State) : Host.Outcome State Fault Refusal := .next (verifyDone s)
/-- GLB_RESET. -/
def execGlbReset (view : Nat) (v : Word) (s : State) : Host.Outcome State Fault Refusal := .next (glbReset view v s)
/-- THERMAL_TRIP. -/
def execThermalTrip (stack : Bool) (temp : Nat) (s : State) : Host.Outcome State Fault Refusal := .next (thermalTrip stack temp s)
/-- LINK_LOSS. -/
def execLinkLoss (p : Nat) (s : State) : Host.Outcome State Fault Refusal := onUnit (isPort p) (drained (replayDown (linkLossPort p s)))
/-- PORT_DRAIN_DONE. -/
def execPortDrainDone (p : Nat) (s : State) : Host.Outcome State Fault Refusal := onUnit (isPort p) (drained (replayDown (portDrainDone p s)))

end Sys2Proof.Machine
end

