-- ==== Sys2Proof/Machine/Supply.lean ====
section
/-! DEFINITION. Supply stages S1 to S5 (16 R516 to R523). -/

namespace Sys2Proof.Machine

/-- The stage of S1 to S3 that one sample of VIN, in mV, calls for (16 Table 2). -/
def sampleStage (mv : Nat) : Nat := if mv < 10400 then 3 else if mv < 10800 then 2 else if mv < 11200 then 1 else 0

/-- A sample of VIN is taken; one below 10.0 V starts the S4 count, and any other restarts it (16 R517, R518). -/
def takeSample (s : State) (mv : Nat) : State :=
  setRfld { s with s4count := if mv < 10000 then max 1 s.s4count else 0 } (okey Reg.pwrSagStatus) 16 16 (satNat 16 mv)

/-- Every Swatch pattern stops (14 R474). -/
def swatchStop (s : State) : State := (s.groups.map (·.1)).foldl (fun s g => if (groupOf s g).swatch.isSome then swatchPreempt g s else s) s

/-- PRECEDENCE records of the reserved time that a stage takes, once for each partition and die (15 R502, Table 4, 16 R523). -/
def stageTakes (s : State) : State :=
  (List.range 8).foldl (fun s die => (reservedOthers s none die).foldl (fun s q => precedence s q 4 4 0xF die 2) s) s

/-- A change of stage: STAGE, CHANGES and a SUPPLY record (16 R523). -/
def setStage (s : State) (new : Nat) : State :=
  let old := stage s
  let k := okey Reg.pwrSagStatus
  let s1 := setRfld s k 0 3 new
  if s.boot == .off then s1
  else
    let s2 := setRfld s1 k 32 16 (satNat 16 (ofld s Reg.pwrSagStatus 32 16 + 1))
    if alive s then report s2 0x12 0 0 0 none 0 (leBytes 1 old ++ leBytes 1 new) else s2

/-- A stage from S1 to S3 is entered (16 R519). The clocks follow STAGE (02 R37, R39), and descriptor reads, starts and solves test it. -/
def enterStage (s : State) (new : Nat) : State :=
  let s1 := setStage s new
  stageTakes (if 2 ≤ new then swatchStop s1 else s1)

/-- SUPPLY_STAGE_RAISE: two consecutive samples below a threshold, or a droop warning (16 R518, R519). -/
def stageRaise (mv1 mv2 : Nat) (droop : Bool) (s : State) : State :=
  if !s.vin then s
  else
    let s1 := takeSample (takeSample { s with droop := s.droop || droop } mv1) mv2
    let want := max (min (sampleStage mv1) (sampleStage mv2)) (b2n droop)
    if stage s < want then enterStage s1 want else s1

/-- A fetched descriptor that still has no record stops by its unit's rule and completes with FAILED_SUPPLY. -/
def supplyEnd (s : State) (x : Nat × BitVec 32) : State :=
  match findDesc s x.1 x.2 with
  | none => s
  | some d => completeOne (workStopped s x.1 d St.supply) x.1 d St.supply 0 false

/-- Every fetched descriptor stops and completes with FAILED_SUPPLY, waits unjudged (16 R519, R521, 01 R25), in ascending ring and sequence
order (log entry 33, DESIGN CHOICE); one that a partition reset has ended meanwhile keeps its record. -/
def supplyStop (s : State) : State :=
  (s.rings.flatMap (fun e => e.2.descs.map (fun d => (e.1, d.seq)))).foldl supplyEnd s

/-- S4: forwarding stops, descriptors fail, obituaries follow, and every domain but P0 uncore powers down (16 R519, R521, 11 R354). -/
def enterS4 (s : State) : State :=
  let s1 := swatchStop (setStage s 4)
  if s.boot == .off then s1
  else
    let s2 := if alive s then obituaries (supplyStop s1) St.supply 4 else s1
    let s3 := { s2 with commit := none, signing := none, launches := [], mctxs := [], mordantWait := [] }
    let s4 := (List.range 16).foldl linkDrop s3
    if s.warm = 0 then powerDown s4 else s4

/-- SUPPLY_S4_ENTER (16 R518). -/
def s4Enter (mv : Nat) (s : State) : State :=
  if !s.vin || decide (10000 ≤ mv) || decide (4 ≤ stage s) then s else enterS4 (takeSample s mv)

/-- SUPPLY_S5_ENTER: all power goes at once, with no record (16 R519, R522). -/
def s5Enter (s : State) : State := if !s.vin then s else setRfld (coldOff s) (okey Reg.pwrSagStatus) 0 3 5

/-- The voltage, in mV, at which a stage is left (16 R520). -/
def leaveMv : Nat → Nat
  | 1 => 11400
  | 2 => 11000
  | _ => 10600

/-- SUPPLY_STAGE_LOWER: S1 to S3 fall by one level; paused solves go on (16 R520, 06 R208). -/
def stageLower (mv : Nat) (s : State) : State :=
  if !s.vin || stage s = 0 || decide (4 ≤ stage s) || decide (mv < leaveMv (stage s)) then s
  else sieWake (setStage { takeSample s mv with droop := s.droop && decide (1 < stage s) } (stage s - 1))

/-- SUPPLY_S4_RECOVERY: a warm reset, which ends S4 (16 R521). -/
def s4Recovery (mv : Nat) (s : State) : State :=
  if stage s = 4 && s.vin && decide (11400 ≤ mv) && !inputLevel s 1 then warmReset (setRfld (takeSample s mv) (okey Reg.pwrSagStatus) 0 4 0) else s

/-! ### Meanings -/

/-- SUPPLY_STAGE_RAISE. -/
def execSupplyStageRaise (mv1 mv2 : Nat) (droop : Bool) (s : State) : Host.Outcome State Fault Refusal := .next (stageRaise mv1 mv2 droop s)
/-- SUPPLY_S4_ENTER. -/
def execSupplyS4Enter (mv : Nat) (s : State) : Host.Outcome State Fault Refusal := .next (s4Enter mv s)
/-- SUPPLY_S5_ENTER. -/
def execSupplyS5Enter (s : State) : Host.Outcome State Fault Refusal := .next (s5Enter s)
/-- SUPPLY_STAGE_LOWER. -/
def execSupplyStageLower (mv : Nat) (s : State) : Host.Outcome State Fault Refusal := .next (stageLower mv s)
/-- SUPPLY_S4_RECOVERY. -/
def execSupplyS4Recovery (mv : Nat) (s : State) : Host.Outcome State Fault Refusal := .next (s4Recovery mv s)

end Sys2Proof.Machine
end

