-- ==== Sys2Proof/Machine/Timebase.lean ====
section
/-! DEFINITION. What one REFCLK period of 10 ns does: the timebase count and the slewing clocks advance (16 R532, R533, 02 R38, R40). -/

namespace Sys2Proof.Machine

/-- One period of the timebase: the count gains 10 ns × (1 + SLEW_PPB × 10^-9), and ±500 ppm while a correction remains; fractions
are kept in units of 10^-8 ns (16 R532, R533). -/
def timebaseTick (s : State) : State :=
  let slew := toSigned 32 (ofld s Reg.tmbSlew 0 32)
  let rem := toSigned 32 (ofld s Reg.tmbAdjust 0 32)
  let step := min 500000 (rem.natAbs * 100000000 - s.adjFrac)
  let extra : Int := if rem < 0 then -(step : Int) else (step : Int)
  let total := ((s.tmbFrac : Int) + 1000000000 + slew + extra).toNat
  let done := s.adjFrac + step
  let rem1 : Int := if done < 100000000 then rem else if rem < 0 then rem + 1 else rem - 1
  let s1 := setReg { s with tmbFrac := total % 100000000, adjFrac := done % 100000000 } (okey Reg.tmbCount) (now s + total / 100000000)
  setRfld s1 (okey Reg.tmbAdjust) 0 32 (ofSigned 32 rem1)

/-- One REFCLK period passes; while P0 uncore is off only the count of periods goes on, and the regulator controller's S4 count. -/
def idleTick (s : State) : State :=
  let s1 := fatalAge { s with tick := s.tick + 1, s4count := if s.s4count = 0 then 0 else s.s4count + 1 }
  if s.boot == .off then s1 else (List.range 10).foldl slewTick (timebaseTick s1)

end Sys2Proof.Machine
end

