-- ==== Sys2Proof/Machine/Inputs.lean ====
section
/-! DEFINITION. Board inputs, the PPS latch, the timebase registers and the test access port (16 R532 to R538, R541, 15 R511). -/

namespace Sys2Proof.Machine

/-- INPUT_RAW_EDGE: EDGES counts, saturating (16 R536). -/
def rawEdge (i : Nat) (s : State) : State :=
  if s.boot == .off then s else setRfld s (okey (Reg.pwrInput + 8 * i)) 16 16 (satNat 16 (ofld s (Reg.pwrInput + 8 * i) 16 16 + 1))

/-- THROTTLE_ASSERT: the caps of R530 follow the recognised level (16 R537). -/
def throttleAssert (s : State) : State := setLevel s 0 true

/-- FAULT_IN_ASSERT: S4 is entered and stays latched (16 R521, R537). -/
def faultIn (s : State) : State :=
  let s1 := setLevel s 1 true
  if inputOn s 1 && !inputLevel s 1 && decide (stage s < 4) && s.boot != .off then enterS4 (setRfld s1 (okey Reg.pwrSagStatus) 3 1 1) else s1

/-- TAMPER_EVENT: a glitch detector trips, or the tamper input is asserted anew; the secure banks are wiped, TAMPER_COUNT rises and the
device is fatal (15 R511, 16 R537, R538). -/
def tamper (land : Bool) (s : State) : State :=
  let s1 := if land then setLevel s 2 true else s
  if s.boot == .off || (land && (inputLevel s 2 || !inputOn s 2)) then s1
  else deviceFatal (setRfld (wipeBanks s1) (okey Reg.secStatus) 24 8 (satNat 8 (ofld s Reg.secStatus 24 8 + 1))) 6

/-- WARM_RST_ASSERT (16 R526, R537). -/
def warmRst (s : State) : State :=
  let s1 := setLevel s 4 true
  if inputOn s 4 && !inputLevel s 4 then warmReset s1 else s1

/-- INPUT_STUCK: STUCK is set and ALERT_N pulses once (16 R538). -/
def inputStuck (i : Nat) (s : State) : State :=
  if s.boot == .off || !inputLevel s i || s.stuckTold.contains i then s
  else
    { setRfld s (okey (Reg.pwrInput + 8 * i)) 2 1 1 with
      alertPulses := s.alertPulses + 1, stuckTold := s.stuckTold ++ [i] }

/-- INPUT_DEASSERT: an input is recognised as deasserted; a released WARM_RST_N lets the boot proceed (16 R530, R536 to R538). -/
def inputDeassert (i : Nat) (s : State) : State :=
  let s1 := { setLevel s i false with stuckTold := s.stuckTold.filter (· != i) }
  if i = 4 ∧ s.warm = 3 then { s1 with boot := .verifying, warm := 0 } else s1

/-- PPS_EDGE: an edge 999 ms to 1,001 ms after the edge before it is accepted and latches the count, to within 5 ns; any other is counted
in IGNORED; the first only starts the interval (16 R535). -/
def ppsEdge (interval : Nat) (s : State) : State :=
  let s0 := setLevel s 3 true
  let k := okey Reg.tmbPpsStatus
  if s.boot == .off || ofld s Reg.tmbCtrl 4 1 = 0 || !inputOn s 3 then s0
  else if !s.ppsSince then { s0 with ppsSince := true }
  else if 999000000 ≤ interval ∧ interval ≤ 1001000000 then
    let (x, s1) := fresh s0
    setRfld (setReg s1 (okey Reg.tmbPpsLatch) (now s + x.toNat % 11 - 5)) k 0 32 (ofld s Reg.tmbPpsStatus 0 32 + 1)
  else setRfld s0 k 32 16 (satNat 16 (ofld s Reg.tmbPpsStatus 32 16 + 1))

/-- PPS_SILENCE (16 R535). -/
def ppsSilence (s : State) : State := { s with ppsSince := false }

/-! ### The timebase registers -/

/-- TMB_ADJUST: a new remainder replaces the old one (16 R533, R534). -/
def tmbAdjust (view : Nat) (v : Word) (s : State) : State :=
  if alive s && (regAt s view Reg.tmbAdjust).isSome then { storeWord s view Reg.tmbAdjust v.toNat with adjFrac := 0 } else s

/-- TMB_ADJUST_DONE: the remainder reaches 0; a positive remainder that no period has applied is applied now (16 R533; log entry 1). -/
def tmbAdjustDone (s : State) : State :=
  let r := toSigned 32 (ofld s Reg.tmbAdjust 0 32)
  setReg (setReg { s with adjFrac := 0 } (okey Reg.tmbCount) (now s + r.toNat)) (okey Reg.tmbAdjust) 0

/-- TMB_SET: the count is loaded, unless a partition is VALID (16 R533). -/
def tmbSet (view : Nat) (v : Word) (s : State) : State :=
  if view = 8 && alive s && (partsOf s).isEmpty then setReg { s with tmbFrac := 0 } (okey Reg.tmbCount) v.toNat else s

/-! ### The test access port -/

/-- A TAP instruction that leaves the package running: its code and what its data register captures (16 R541; log entry 7). -/
def tapRun (code out : Nat) (s : State) : State := { s with tapInstr := code, tapOut := out }

/-- IDCODE: the stepping, 0x4820 and the manufacturer field (16 R541). -/
def idcodeWord : Nat := 0x14820000 + Config.manufacturer % 0x1000

/-- SAMPLE/PRELOAD captures the lands: a free value. -/
def tapSample (s : State) : State := let (x, s1) := fresh s; tapRun 2 x.toNat s1

/-- Any other TAP instruction: the package fetches no descriptor and holds its PCIe and fabric ports down until a cold reset (16 R541). -/
def tapHold (code : Nat) (s : State) : State :=
  let s1 := { tapRun code 0 s with tapHeld := true }
  if s.boot == .off then s1
  else (List.range 8).foldl (fun s sl => slotDown sl s) (replayDown ((List.range 16).foldl linkDrop s1))

/-! ### Meanings -/

/-- INPUT_RAW_EDGE. -/
def execInputRawEdge (i : Nat) (s : State) : Host.Outcome State Fault Refusal := onUnit (i < 5) (rawEdge i s)
/-- THROTTLE_ASSERT. -/
def execThrottleAssert (s : State) : Host.Outcome State Fault Refusal := .next (throttleAssert s)
/-- FAULT_IN_ASSERT. -/
def execFaultInAssert (s : State) : Host.Outcome State Fault Refusal := .next (faultIn s)
/-- TAMPER_EVENT. -/
def execTamperEvent (land : Bool) (s : State) : Host.Outcome State Fault Refusal := .next (tamper land s)
/-- WARM_RST_ASSERT. -/
def execWarmRstAssert (s : State) : Host.Outcome State Fault Refusal := .next (warmRst s)
/-- INPUT_STUCK. -/
def execInputStuck (i : Nat) (s : State) : Host.Outcome State Fault Refusal := onUnit (i < 5) (inputStuck i s)
/-- INPUT_DEASSERT. -/
def execInputDeassert (i : Nat) (s : State) : Host.Outcome State Fault Refusal := onUnit (i < 5) (inputDeassert i s)
/-- PPS_EDGE. -/
def execPpsEdge (interval : Nat) (s : State) : Host.Outcome State Fault Refusal := .next (ppsEdge interval s)
/-- PPS_SILENCE. -/
def execPpsSilence (s : State) : Host.Outcome State Fault Refusal := .next (ppsSilence s)
/-- TMB_ADJUST. -/
def execTmbAdjust (view : Nat) (v : Word) (s : State) : Host.Outcome State Fault Refusal := onUnit (view ≤ 8) (tmbAdjust view v s)
/-- TMB_ADJUST_DONE. -/
def execTmbAdjustDone (s : State) : Host.Outcome State Fault Refusal := .next (tmbAdjustDone s)
/-- TMB_SET. -/
def execTmbSet (view : Nat) (v : Word) (s : State) : Host.Outcome State Fault Refusal := onUnit (view ≤ 8) (tmbSet view v s)
/-- BYPASS. -/
def execBypass (s : State) : Host.Outcome State Fault Refusal := .next (tapRun 0 0 s)
/-- IDCODE. -/
def execIdcode (s : State) : Host.Outcome State Fault Refusal := .next (tapRun 1 idcodeWord s)
/-- SAMPLE_PRELOAD. -/
def execSamplePreload (s : State) : Host.Outcome State Fault Refusal := .next (tapSample s)
/-- EXTEST. -/
def execExtest (s : State) : Host.Outcome State Fault Refusal := .next (tapHold 3 s)
/-- CLAMP. -/
def execClamp (s : State) : Host.Outcome State Fault Refusal := .next (tapHold 4 s)
/-- HIGHZ. -/
def execHighz (s : State) : Host.Outcome State Fault Refusal := .next (tapHold 5 s)

end Sys2Proof.Machine
end

