-- ==== Sys2Proof/Machine/Trust.lean ====
section
/-! DEFINITION. Life cycle, firmware update, attestation and management messages (15 R504 to R511). -/

namespace Sys2Proof.Machine

/-! ### SEC_CTRL -/

/-- CONFIRM: within 60 s of the SMC starting, the trial image becomes active and the fused SVN rises (15 R509). -/
def confirm (view : Nat) (v : Word) (s : State) : State :=
  if !bitAt v.toNat 0 || !alive s then s
  else match actionWrite s view Reg.secCtrl v with
  | none => s
  | some s1 =>
    if ofld s Reg.secStatus 3 1 = 1 ∧ s.tick - s.smcStart ≤ 6000000000 then
      let k := okey Reg.secStatus
      let svn := match s.running with | some i => imageSvn i | none => 0
      let s2 := setRfld (setRfld { s1 with dirActive := s.dirNext } k 2 1 (b2n s.dirNext)) k 3 1 0
      setRfld s2 k 8 16 (max (ofld s Reg.secStatus 8 16) svn)
    else s1

/-- LC_ARM: LC_RESULT shows the arm (15 R510). -/
def lcArm (view : Nat) (v : Word) (s : State) : State :=
  if !bitAt v.toNat 3 || !alive s then s
  else match actionWrite s view Reg.secCtrl v with
  | none => s
  | some s1 => setRfld s1 (okey Reg.secCtrl) 8 3 1

/-- The moves of Table 8 that the Owner may make in the field: SECURED to RETURNED or SCRAPPED, RETURNED to SCRAPPED (15 R510). -/
def fieldMove (old new : Nat) : Bool := (old == 1 && (new == 2 || new == 3)) || (old == 2 && new == 3)

/-- A change of life-cycle state: the secure banks are wiped, an EVENT entry goes to the flash log, and RETURNED resets every partition
(15 R510, Table 8). -/
def lifeChange (s : State) (new : Nat) : State :=
  let old := lifeCycle s
  let s1 := logNote (setRfld (wipeBanks s) (okey Reg.secStatus) 0 2 new) (leBytes 1 old ++ leBytes 1 new)
  if new = 2 then (partsOf s1).foldl partitionReset s1 else s1

/-- LC_GO (15 R510). -/
def lcGo (view : Nat) (v : Word) (s : State) : State :=
  if !bitAt v.toNat 4 || !alive s then s
  else match actionWrite s view Reg.secCtrl v with
  | none => s
  | some s1 =>
    let k := okey Reg.secCtrl
    let new := ofld s1 Reg.secCtrl 1 2
    if ofld s Reg.secCtrl 8 3 ≠ 1 then setRfld s1 k 8 3 3
    else if !fieldMove (lifeCycle s) new then setRfld s1 k 8 3 2
    else setRfld (lifeChange s1 new) k 8 3 0

/-- LC_ARM_EXPIRY (15 R510). -/
def lcArmExpiry (s : State) : State := if ofld s Reg.secCtrl 8 3 = 1 then setRfld s (okey Reg.secCtrl) 8 3 0 else s

/-! ### Transports -/

/-- A message can reach the SMC and be answered: P0 uncore runs, and a slot's link is up (15 R505, R508). -/
def reachable (s : State) : Transport → Bool
  | .doe sl => alive s && decide (sl < 8) && (slotOf s sl).up
  | .mctpPcie sl => alive s && decide (sl < 8) && (slotOf s sl).up
  | .mctpI3c => alive s
  | .mctpSmbus => alive s

/-- The device answers over a transport. -/
def answer (s : State) (via : Transport) (bs : List Byte) : State := { s with wire := s.wire ++ [.message via bs] }

/-- Free bytes, such as a signature under a key of the device (log entry 2). -/
def takeFree (s : State) (n : Nat) : List Byte × State := (freeBytes s.freeCount n, { s with freeCount := s.freeCount + n })

/-! ### SPDM -/

/-- The SMC answers SPDM: its image runs and the transport reaches it (15 R505). -/
def spdmReady (s : State) (via : Transport) : Bool := reachable s via && s.running.isSome

/-- An SPDM message: version, response code and two parameters (log entry 13, PRESUMED). -/
def spdm (code p1 p2 : Nat) (body : List Byte) : List Byte := [0x13#8, BitVec.ofNat 8 code, BitVec.ofNat 8 p1, BitVec.ofNat 8 p2] ++ body

/-- An SPDM error response. -/
def spdmError (s : State) (via : Transport) (err : Nat) : State := answer s via (spdm 0x7F err 0 [])

/-- Digest of the running image's body. -/
def runDigest (s : State) : List Byte := match s.running with | some i => imageDigest i | none => []

/-- The certificate chain of a slot: root, product CA, IDK and AK or CK (15 Table 6). -/
def certChain (s : State) (slot : Nat) : List Byte := Config.certChain slot (if slot = 0 then runDigest s else [])

/-- A measurement (15 Table 6). -/
def measurement (s : State) : Nat → List Byte
  | 1 => Config.bootRom
  | 2 => Config.partDigest 0 (runDigest s)
  | 3 => Config.partDigest 1 (runDigest s)
  | 4 => sha384 (s.cfgBlocks.flatMap (·.bytes) ++ leBytes 4 (ofld s Reg.cfgStatus 0 32))
  | 5 => measBytes s
  | 6 => [BitVec.ofNat 8 (lifeCycle s), 1#8] ++ leBytes 2 (ofld s Reg.secStatus 8 16) ++ leBytes 1 (ofld s Reg.secStatus 24 8)
  | 7 => match s.swPkg with | some k => k.digest | none => List.replicate 48 0#8
  | _ => []

/-- A measurement block: its index and its value with its length (log entry 13). -/
def measBlock (s : State) (i : Nat) : List Byte := leBytes 1 i ++ leBytes 2 (measurement s i).length ++ measurement s i

/-- AK signs: the keys are derived and not wiped (15 R504, Table 8). -/
def signs (s : State) : Bool := s.keys && (lifeCycle s == 1 || lifeCycle s == 2)

/-- GET_VERSION: versions 1.2 and 1.3. -/
def spdmVersion (via : Transport) (s : State) : State :=
  if spdmReady s via then answer s via ([0x10#8, 0x04#8, 0#8, 0#8, 0#8, 2#8] ++ leBytes 2 0x1200 ++ leBytes 2 0x1300) else s

/-- GET_CAPABILITIES: certificates, challenge, and measurements with signature; the sizes are free values. -/
def spdmCapabilities (via : Transport) (s : State) : State :=
  if spdmReady s via then
    let (x, s1) := takeFree s 9
    answer s1 via (spdm 0x61 0 0 ([0#8] ++ x.take 1 ++ [0#8, 0#8] ++ leBytes 4 0x16 ++ x.drop 1))
  else s

/-- NEGOTIATE_ALGORITHMS: ECDSA P-384 and SHA-384 only. -/
def spdmAlgorithms (via : Transport) (p384 sha : Bool) (s : State) : State :=
  if !spdmReady s via then s
  else if p384 && sha then answer s via (spdm 0x63 0 0 (leBytes 2 36 ++ leBytes 2 1 ++ leBytes 4 4 ++ leBytes 4 0x80 ++ leBytes 4 2 ++ List.replicate 16 0#8))
  else spdmError s via 1

/-- GET_DIGESTS: the SHA-384 of both certificate chains. -/
def spdmDigests (via : Transport) (s : State) : State :=
  if spdmReady s via then answer s via (spdm 0x01 0 3 (sha384 (certChain s 0) ++ sha384 (certChain s 1))) else s

/-- GET_CERTIFICATE: a portion of a slot's chain, with its length and what remains. -/
def spdmCertificate (via : Transport) (slot off len : Nat) (s : State) : State :=
  if !spdmReady s via then s
  else
    let c := certChain s slot
    if 2 ≤ slot ∨ c.length < off then spdmError s via 1
    else
      let part := (c.drop off).take len
      answer s via (spdm 0x02 slot 0 (leBytes 2 part.length ++ leBytes 2 (c.length - off - part.length) ++ part))

/-- CHALLENGE: the digest of the chain, a fresh nonce and AK's signature. -/
def spdmChallenge (via : Transport) (slot : Nat) (nonce : List Byte) (s : State) : State :=
  if !spdmReady s via then s
  else if 2 ≤ slot || nonce.length != 32 then spdmError s via 1
  else if !signs s then spdmError s via 5
  else
    let (x, s1) := takeFree s 128
    answer s1 via (spdm 0x03 slot 3 (sha384 (certChain s slot) ++ x.take 32 ++ [0#8, 0#8] ++ x.drop 32))

/-- GET_MEASUREMENTS: the number of blocks (index 0), one block, or all of them (index 255), signed by AK over the requester's nonce. -/
def spdmMeasurements (via : Transport) (ix : Nat) (nonce : List Byte) (s : State) : State :=
  if !spdmReady s via then s
  else if (7 < ix && ix != 255) || nonce.length != 32 then spdmError s via 1
  else if !signs s then spdmError s via 5
  else
    let l := if ix = 0 then [] else if ix = 255 then [1, 2, 3, 4, 5, 6, 7] else [ix]
    let blocks := l.flatMap (measBlock s)
    let (x, s1) := takeFree s 128
    answer s1 via (spdm 0x60 (if ix = 0 then 7 else 0) 0 (leBytes 1 l.length ++ leBytes 3 blocks.length ++ blocks ++ x.take 32 ++ [0#8, 0#8] ++ x.drop 32))

/-! ### Management -/

/-- MCTP_CONTROL: an MCTP control message is answered over MCTP, with its command and a free completion code (15 R506; log entry 13). -/
def mctpControl (via : Transport) (cmd : Byte) (s : State) : State :=
  match via with
  | .doe _ => s
  | _ =>
    if reachable s via then
      let (x, s1) := takeFree s 1
      answer s1 via (cmd :: x)
    else s

/-- A Krovolaran management message is taken over I3C, or its SMBus-compatible fallback, only (15 R506). -/
def mgmtTaken (s : State) (via : Transport) : Bool := (via == .mctpI3c || via == .mctpSmbus) && reachable s via

/-- MGMT_FIRMWARE_UPDATE: the inactive slot is written, NEXT set to it and TRIAL set; in recovery the boot ROM tries again (15 R506, R508,
R509). -/
def mgmtUpdate (via : Transport) (img : Image) (s : State) : State :=
  if !mgmtTaken s via then s
  else
    let b := !s.dirActive
    let s1 := { s with slotA := if b then s.slotA else some img, slotB := if b then some img else s.slotB, dirNext := b, dirTrial := true }
    if s.boot == .recovery then { s1 with boot := .verifying } else s1

/-- MGMT_LIFE_CYCLE_REQUEST: a field move, or one of Krovolaran's own, FACTORY or RETURNED to SECURED (15 R506, Table 8; log entry 13). -/
def mgmtLife (via : Transport) (target : BitVec 2) (s : State) : State :=
  let new := target.toNat
  let old := lifeCycle s
  if mgmtTaken s via && (fieldMove old new || (new == 1 && (old == 0 || old == 2))) then lifeChange s new else s

/-- MGMT_LOG_READ: entries of the flash log, oldest first (15 R506, 14 R461). -/
def mgmtLog (via : Transport) (first count : Nat) (s : State) : State :=
  if mgmtTaken s via then answer s via (((s.flashLog.drop first).take count).flatMap id) else s

/-! ### Meanings -/

/-- CONFIRM. -/
def execConfirm (view : Nat) (v : Word) (s : State) : Host.Outcome State Fault Refusal := onUnit (view ≤ 8) (confirm view v s)
/-- LC_ARM. -/
def execLcArm (view : Nat) (v : Word) (s : State) : Host.Outcome State Fault Refusal := onUnit (view ≤ 8) (lcArm view v s)
/-- LC_GO. -/
def execLcGo (view : Nat) (v : Word) (s : State) : Host.Outcome State Fault Refusal := onUnit (view ≤ 8) (lcGo view v s)
/-- LC_ARM_EXPIRY. -/
def execLcArmExpiry (s : State) : Host.Outcome State Fault Refusal := .next (lcArmExpiry s)
/-- GET_VERSION. -/
def execGetVersion (via : Transport) (s : State) : Host.Outcome State Fault Refusal := .next (spdmVersion via s)
/-- GET_CAPABILITIES. -/
def execGetCapabilities (via : Transport) (s : State) : Host.Outcome State Fault Refusal := .next (spdmCapabilities via s)
/-- NEGOTIATE_ALGORITHMS. -/
def execNegotiateAlgorithms (via : Transport) (p384 sha : Bool) (s : State) : Host.Outcome State Fault Refusal := .next (spdmAlgorithms via p384 sha s)
/-- GET_DIGESTS. -/
def execGetDigests (via : Transport) (s : State) : Host.Outcome State Fault Refusal := .next (spdmDigests via s)
/-- GET_CERTIFICATE. -/
def execGetCertificate (via : Transport) (slot off len : Nat) (s : State) : Host.Outcome State Fault Refusal := .next (spdmCertificate via slot off len s)
/-- CHALLENGE. -/
def execChallenge (via : Transport) (slot : Nat) (nonce : List Byte) (s : State) : Host.Outcome State Fault Refusal := .next (spdmChallenge via slot nonce s)
/-- GET_MEASUREMENTS. -/
def execGetMeasurements (via : Transport) (ix : Nat) (nonce : List Byte) (s : State) : Host.Outcome State Fault Refusal := .next (spdmMeasurements via ix nonce s)
/-- MCTP_CONTROL. -/
def execMctpControl (via : Transport) (cmd : Byte) (s : State) : Host.Outcome State Fault Refusal := .next (mctpControl via cmd s)
/-- MGMT_FIRMWARE_UPDATE. -/
def execMgmtFirmwareUpdate (via : Transport) (img : Image) (s : State) : Host.Outcome State Fault Refusal := .next (mgmtUpdate via img s)
/-- MGMT_LIFE_CYCLE_REQUEST. -/
def execMgmtLifeCycleRequest (via : Transport) (target : BitVec 2) (s : State) : Host.Outcome State Fault Refusal := .next (mgmtLife via target s)
/-- MGMT_LOG_READ. -/
def execMgmtLogRead (via : Transport) (first count : Nat) (s : State) : Host.Outcome State Fault Refusal := .next (mgmtLog via first count s)

end Sys2Proof.Machine
end

