-- ==== Sys2Proof/Machine/Observe.lean ====
section
/-! DEFINITION. What a read of a register returns where RO fields are computed from the state (02, 06, 07, 10, 13, 16, 17 R547 to R550). -/

namespace Sys2Proof.Machine

/-- CLK_TILE_STATUS_k (02). CAP_SUPPLY reads 1 whenever S1 or worse applies, also where the target or the thermal cap is lower already: the
spec says "caps the clock" and not whether it then does (log entry 32, DESIGN CHOICE). -/
def clkTileStatus (s : State) (k : Nat) : Nat :=
  let cap := thermalCap s k
  tileMhz s k + b2n (slewingMhz s k) * 2 ^ 16 + b2n (decide (1 ≤ stage s)) * 2 ^ 17 +
    b2n (decide (cap < targetMhz s k) && (decide (stage s = 0) || decide (cap < 2600))) * 2 ^ 18 + b2n (domainOn s (22 + k) && onReserve s k) * 2 ^ 19

/-- The largest of some readings. -/
def hottest (l : List Nat) : Nat := l.foldl max 0

/-- PWR_THERMAL (16). -/
def pwrThermal (s : State) : Nat :=
  hottest ((List.range 8).map (dieTemp s)) + hottest [dieTemp s 8, dieTemp s 9] * 2 ^ 8 + hottest [dieTemp s 10, dieTemp s 11] * 2 ^ 16 +
    hottest ((List.range 16).map (stackTemp s)) * 2 ^ 24 +
    (List.range 8).foldl (fun m k => m + b2n (decide (thermalCap s k < targetMhz s k)) * 2 ^ (32 + k)) 0 +
    b2n (s.dutyAll || !s.dutyDie.isEmpty) * 2 ^ 40

/-- SIE_STATE_k (06). -/
def sieState (s : State) (k : Nat) : Nat :=
  let base := b2n (fenced s 2 k) * 4 + sget (fun _ => 0) s.sieSwitches k * 2 ^ 32
  match (siesHeld s).find? (fun x => x.2.2.dies.contains k) with
  | some x => base + 1 + b2n (decide (3 ≤ stage s) && x.2.2.wait == 2) * 2 + x.2.1.part * 16 + x.2.2.sweep % 64 * 2 ^ 8 + x.2.2.iter % 65536 * 2 ^ 16
  | none => base

/-- FXE_STATE_k (07). -/
def fxeState (s : State) (k : Nat) : Nat :=
  let base := b2n (fenced s 3 k) * 4
  match (runningAll s).findSome? (fun x => match x.2.work with | .fxe w => (w.dies.find? (fun e => e.die == k)).map (fun e => (x.2.part, w, e)) | _ => none) with
  | some (p, w, e) => base + 1 + w.cb 0 1 * 2 + p * 16 + e.rows % 2 ^ 32 * 2 ^ 32
  | none => base

/-- The value of a 64-bit register word in a view, with its computed fields. -/
def readReg (s : State) (view off : Nat) : Nat :=
  let w := readWord s view off
  if (regAt s view off).isNone then 0
  else if Reg.clkTileStatus ≤ off ∧ off < Reg.clkTileStatus + 64 then clkTileStatus s ((off - Reg.clkTileStatus) / 8)
  else if off = Reg.pwrThermal then pwrThermal s
  else if Reg.sieState ≤ off ∧ off < Reg.sieState + 64 then sieState s ((off - Reg.sieState) / 8)
  else if Reg.fxeState ≤ off ∧ off < Reg.fxeState + 64 then fxeState s ((off - Reg.fxeState) / 8)
  else if off = Reg.hifPartStatus then setFieldOf (setFieldOf w 4 3 view) 8 3 ((partSlot s view).getD 0)
  else match detCopy view off with
    | some (p, o) => if o = Reg.detInfo then setFieldOf w 16 11 (activeTiles s p) else if o = Reg.detSignature then detSignature s p else w
    | none => if off = Reg.detInfo then setFieldOf w 16 11 (activeTiles s view) else if off = Reg.detSignature then detSignature s view else w

/-- What a naturally aligned read of 4 or 8 bytes returns; any other read returns 0 (17 R547, R550). -/
def readAccess (s : State) (view off size : Nat) : Nat :=
  if !(size = 4 || size = 8) || off % size != 0 then 0
  else if size = 8 then readReg s view off
  else fieldOf (readReg s view (off / 8 * 8)) (8 * (off % 8)) 32

end Sys2Proof.Machine
end

