-- ==== Sys2Proof/Machine/Quad.lean ====
section
/-! DEFINITION. The short-vector extension (08 R241 to R255). -/

namespace Sys2Proof.Machine

/-- A short-vector register. -/
def qReg (x : Hart) (r : Nat) : Nat := (sget (fun _ => 0) x.q r).toNat

/-- A short-vector instruction of a hart: illegal while XS is Off or a field is illegal, its effect otherwise (08 R242, R254). -/
def qInstr (h : Nat) (legal : Bool) (s : State) (k : Hart → State) : State :=
  if !hartReady s h then s
  else if !xsOn (hartOf s h) || !legal then illegal s h
  else k (hartOf s h)

/-- Bits of a form. -/
def formBits (q : Bool) : Nat := if q then 128 else 64

/-- The `n` elements of width `w` of a register value, from bit 0 up (08 R241). -/
def elems (w n v : Nat) : List Nat := (List.range n).map (fun i => fieldOf v (i * w) w)

/-- A register value from elements of width `w`. -/
def packElems (w : Nat) : List Nat → Nat
  | [] => 0
  | e :: es => e % 2 ^ w + 2 ^ w * packElems w es

/-! ### Elements -/

/-- The element format of a floating-point form (08 Table 2). -/
def qFmt (w : Nat) : Fmt := if w = 32 then Fmt.fp32 else Fmt.fp64

/-- All ones for true. -/
def mask (w : Nat) (b : Bool) : Nat := if b then 2 ^ w - 1 else 0

/-- One element of an integer operation. -/
def intElem (op : QOp) (w a b : Nat) : Nat :=
  let sa := toSigned w a
  let sb := toSigned w b
  match op with
  | .add => (a + b) % 2 ^ w
  | .sub => (a + 2 ^ w - b) % 2 ^ w
  | .mul => a * b % 2 ^ w
  | .mulh => ofSigned w (sa * sb / (2 ^ w : Nat))
  | .min => if sb < sa then b else a
  | .max => if sa < sb then b else a
  | .minu => min a b
  | .maxu => max a b
  | .and => a &&& b
  | .or => a ||| b
  | .xor => a ^^^ b
  | .andn => a &&& (2 ^ w - 1 - b)
  | .sll => a * 2 ^ (b % w) % 2 ^ w
  | .srl => a / 2 ^ (b % w)
  | .sra => ofSigned w (sa / (2 ^ (b % w) : Nat))
  | .cmpeq => mask w (a == b)
  | .cmplt => mask w (decide (sa < sb))
  | .cmple => mask w (decide (sa ≤ sb))
  | _ => 0

/-- One element of a floating-point operation, with its flags. -/
def fpElem (op : QOp) (w a b d : Nat) : Rf :=
  let f := qFmt w
  match op with
  | .fadd => f.add a b
  | .fsub => f.sub a b
  | .fmul => f.mul a b
  | .fma => f.fma a b d
  | .fmin => f.minMax false a b
  | .fmax => f.minMax true a b
  | .fneg => (a ^^^ f.signBit, 0)
  | .fdiv => f.div a b
  | .fsqrt => f.sqrt a
  | .fcmpeq => (mask w (f.cmp 0 a b).1, (f.cmp 0 a b).2)
  | .fcmplt => (mask w (f.cmp 2 a b).1, (f.cmp 2 a b).2)
  | .fcmple => (mask w (f.cmp 3 a b).1, (f.cmp 3 a b).2)
  | _ => (0, 0)

/-- The operation works on floating-point elements. -/
def isFp (op : QOp) : Bool := decide (op.functs.1 = 2) || decide (op.functs.1 = 3 ∧ 3 ≤ op.functs.2)

/-- Sums of absolute differences into lanes of width `lw` (08 R243). -/
def sadLanes (signed : Bool) (w lw bits a b d : Nat) : List Nat :=
  let n := lw / w
  (List.range (bits / lw)).map (fun l =>
    ((List.range n).foldl (fun acc i =>
      let x := fieldOf a ((l * n + i) * w) w
      let y := fieldOf b ((l * n + i) * w) w
      acc + (if signed then (toSigned w x - toSigned w y).natAbs else (if x < y then y - x else x - y))) (fieldOf d (l * lw) lw)) % 2 ^ lw)

/-- The error-free transforms: the rounded result, its error and the flags (08 R245). -/
def pairOp (prod : Bool) (a b : Nat) : Nat × Nat × Nat :=
  let f := Fmt.fp64
  let (r, fl) := if prod then f.mul a b else f.add a b
  match f.decode r with
  | .num n m e =>
    let exact := if prod then ((f.decode a).mul (f.decode b)).1 else ((f.decode a).add (f.decode b)).1
    let (d, _) := exact.add (.num (!n) m e)
    (r, (f.ofFv d).1, fl)
  | _ => (r, f.qnan, fl)

/-- The value of qd and the flags of an operation on whole registers, apart from QHADD, QINS and QEXT. -/
def qValue (op : QOp) (f : QA) (a b d : Nat) : Nat × Nat :=
  let w := 8 * 2 ^ f.esz.toNat
  let bits := formBits f.q
  let n := bits / w
  match op with
  | .sel => (((d &&& a) ||| ((2 ^ 128 - 1 - d) &&& b)) % 2 ^ bits, 0)
  | .saduW => (packElems 32 (sadLanes false w 32 bits a b d), 0)
  | .sadsW => (packElems 32 (sadLanes true w 32 bits a b d), 0)
  | .saduX => (packElems 64 (sadLanes false w 64 bits a b d), 0)
  | .sadsX => (packElems 64 (sadLanes true w 64 bits a b d), 0)
  | .twoSum => let (s, e, fl) := pairOp false (a % 2 ^ 64) (b % 2 ^ 64); (packElems 64 [s, e], fl)
  | .twoProd => let (s, e, fl) := pairOp true (a % 2 ^ 64) (b % 2 ^ 64); (packElems 64 [s, e], fl)
  | _ =>
    if isFp op then
      let rs := (List.range n).map (fun i => fpElem op w (fieldOf a (i * w) w) (fieldOf b (i * w) w) (fieldOf d (i * w) w))
      (packElems w (rs.map (·.1)), rs.foldl (fun fl r => fl ||| r.2) 0)
    else (packElems w ((List.range n).map (fun i => intElem op w (fieldOf a (i * w) w) (fieldOf b (i * w) w))), 0)

/-! ### Instructions -/

/-- An instruction that writes qd from qs1, qs2 and qd (08 Table 2). -/
def qArith (op : QOp) (h : Nat) (f : QA) (s : State) : State :=
  qInstr h (QA.legal op f) s (fun x =>
    let (v, fl) := qValue op f (qReg x f.qs1.toNat) (qReg x f.qs2.toNat) (qReg x f.qd.toNat)
    setHart s h (accrue (setQ x f.qd.toNat v) fl).next)

/-- QHADD: the sum of qs1's elements into element 0; the form's other bits are not stated and take free values (log entry 19). -/
def qHadd (h : Nat) (f : QA) (s : State) : State :=
  qInstr h (QA.legal .hadd f) s (fun x =>
    let w := 8 * 2 ^ f.esz.toNat
    let sum := (elems w (formBits f.q / w) (qReg x f.qs1.toNat)).sum % 2 ^ w
    let (v0, s1) := fresh s
    let (v1, s2) := fresh s1
    let rest := (v0.toNat + v1.toNat * 2 ^ 64) / 2 ^ w * 2 ^ w % 2 ^ formBits f.q
    setHart s2 h (setQ x f.qd.toNat (rest + sum)).next)

/-- QINS (08 R255). -/
def qIns (h : Nat) (f : QA) (s : State) : State :=
  qInstr h (QA.legal .ins f) s (fun x =>
    let w := 8 * 2 ^ f.esz.toNat
    let v := setFieldOf (qReg x f.qd.toNat % 2 ^ formBits f.q) (f.qs2.toNat * w) w (xReg x f.qs1.toNat).toNat
    setHart s h (setQ x f.qd.toNat v).next)

/-- QEXT (08 R255). -/
def qExt (h : Nat) (f : QA) (s : State) : State :=
  qInstr h (QA.legal .ext f) s (fun x =>
    let w := 8 * 2 ^ f.esz.toNat
    let v := toSigned w (fieldOf (qReg x f.qs1.toNat) (f.qs2.toNat * w) w)
    setHart s h (setX x f.qd.toNat (BitVec.ofInt 64 v)).next)

/-- QCVT (08 R246). -/
def qCvt (h : Nat) (src : BitVec 4) (f : QA) (s : State) : State :=
  qInstr h (QA.cvtLegal src f) s (fun x =>
    let sw := 8 * qTypeBytes src.toNat
    let dw := 8 * qTypeBytes f.qs2.toNat
    let n := formBits f.q / max sw dw
    let rs := (elems sw n (qReg x f.qs1.toNat)).map (convertType src.toNat f.qs2.toNat)
    let fl := rs.foldl (fun fl r => fl ||| r.2) 0
    let y := setQ x f.qd.toNat (packElems dw (rs.map (·.1)))
    let sat := bitAt fl 5
    setHart s h (accrue { y with qstat := if sat then y.qstat ||| 1 else y.qstat } (if sat then fl ||| Fl.nx else fl)).next)

/-- Address of a QLD or QST: the signed 9-bit OFFSET in units of the access (08 R255). -/
def lineAddr (x : Hart) (f : QM) : Nat :=
  let off := toSigned 9 (f.f5.toNat + f.f4.toNat * 32)
  (((xReg x f.rs1.toNat).toNat : Int) + off * (formBits f.q / 8 : Nat)) % (2 ^ 64 : Nat) |>.toNat

/-- QLD (08 R247). -/
def qLoad (h : Nat) (f : QM) (s : State) : State :=
  qInstr h (QM.lineLegal f) s (fun x => hartLoad s h (lineAddr x f) (formBits f.q / 8) (.q f.qd.toNat))

/-- QST (08 R247). -/
def qStore (h : Nat) (f : QM) (s : State) : State :=
  qInstr h (QM.lineLegal f) s (fun x =>
    match hartStore s h (lineAddr x f) (leBytes (formBits f.q / 8) (qReg x f.qd.toNat)) with
    | .ok s1 => setHart s1 h (hartOf s1 h).next
    | .error s1 => s1)

/-- The indices of a gather or scatter, in element order (08 R248). -/
def indices (x : Hart) (f : QM) : List Nat :=
  let iw := 8 * 2 ^ (f.f4.toNat % 4)
  (List.range (QM.count f)).map (fun i => fieldOf (qReg x (f.f5.toNat + i * iw / 128)) (i * iw % 128) iw)

/-- The element addresses (08 Table 4). -/
def elemAddrs (x : Hart) (f : QM) : List Nat :=
  (indices x f).map (fun i => ((xReg x f.rs1.toNat).toNat + i * 2 ^ f.esz.toNat) % 2 ^ 64)

/-- A byte that a gather or scatter may address: HBM or P-die SRAM (08 R249). -/
def gatherKey (s : State) (h : Nat) (acc : Acc) (a : Nat) : Option Nat :=
  match hartKey s h acc a with
  | some k => if isHbm k || isSram k then some k else none
  | none => none

/-- QGATHER: all elements, or a trap on the lowest faulting element and no change (08 R250). -/
def qGather (h : Nat) (f : QM) (s : State) : State :=
  qInstr h (QM.gatherLegal f) s (fun x =>
    let n := 2 ^ f.esz.toNat
    let tr := gatherKey s h .r
    match (elemAddrs x f).find? (fun a => !(readOnes s h tr a n).isOk) with
    | some a => accessFault s h .r a (failingAt s tr .r a n)
    | none =>
      let got := (elemAddrs x f).map (fun a => match readOnes s h tr a n with | .ok b => b | .error _ => ([], []))
      let s1 := (got.flatMap (·.2)).foldl offRecord s
      setHart s1 h (setQ x f.qd.toNat (packElems (8 * n) (got.map (fun b => leNat b.1)))).next)

/-- QSCATTER: every element is checked before any byte is written; the higher element prevails (08 R251). -/
def qScatter (h : Nat) (f : QM) (s : State) : State :=
  qInstr h (QM.groupLegal f) s (fun x =>
    let n := 2 ^ f.esz.toNat
    let tr := gatherKey s h .w
    match (elemAddrs x f).find? (fun a => writeFails s h tr a n) with
    | some a => accessFault s h .w a (failingAt s tr .w a n)
    | none =>
      let s1 := ((elemAddrs x f).zip (elems (8 * n) (QM.count f) (qReg x f.qd.toNat))).foldl (fun s1 e => writeOrDrop s h tr s1 e.1 (leBytes n e.2)) s
      setHart s1 h x.next)

/-! ### Meanings -/

/-- QADD. -/
def execQadd (h : Nat) (f : QA) (s : State) : Host.Outcome State Fault Refusal := onUnit (isHart h) (qArith .add h f s)
/-- QSUB. -/
def execQsub (h : Nat) (f : QA) (s : State) : Host.Outcome State Fault Refusal := onUnit (isHart h) (qArith .sub h f s)
/-- QMUL. -/
def execQmul (h : Nat) (f : QA) (s : State) : Host.Outcome State Fault Refusal := onUnit (isHart h) (qArith .mul h f s)
/-- QMULH. -/
def execQmulh (h : Nat) (f : QA) (s : State) : Host.Outcome State Fault Refusal := onUnit (isHart h) (qArith .mulh h f s)
/-- QMIN. -/
def execQmin (h : Nat) (f : QA) (s : State) : Host.Outcome State Fault Refusal := onUnit (isHart h) (qArith .min h f s)
/-- QMAX. -/
def execQmax (h : Nat) (f : QA) (s : State) : Host.Outcome State Fault Refusal := onUnit (isHart h) (qArith .max h f s)
/-- QMINU. -/
def execQminu (h : Nat) (f : QA) (s : State) : Host.Outcome State Fault Refusal := onUnit (isHart h) (qArith .minu h f s)
/-- QMAXU. -/
def execQmaxu (h : Nat) (f : QA) (s : State) : Host.Outcome State Fault Refusal := onUnit (isHart h) (qArith .maxu h f s)
/-- QAND. -/
def execQand (h : Nat) (f : QA) (s : State) : Host.Outcome State Fault Refusal := onUnit (isHart h) (qArith .and h f s)
/-- QOR. -/
def execQor (h : Nat) (f : QA) (s : State) : Host.Outcome State Fault Refusal := onUnit (isHart h) (qArith .or h f s)
/-- QXOR. -/
def execQxor (h : Nat) (f : QA) (s : State) : Host.Outcome State Fault Refusal := onUnit (isHart h) (qArith .xor h f s)
/-- QANDN. -/
def execQandn (h : Nat) (f : QA) (s : State) : Host.Outcome State Fault Refusal := onUnit (isHart h) (qArith .andn h f s)
/-- QSLL. -/
def execQsll (h : Nat) (f : QA) (s : State) : Host.Outcome State Fault Refusal := onUnit (isHart h) (qArith .sll h f s)
/-- QSRL. -/
def execQsrl (h : Nat) (f : QA) (s : State) : Host.Outcome State Fault Refusal := onUnit (isHart h) (qArith .srl h f s)
/-- QSRA. -/
def execQsra (h : Nat) (f : QA) (s : State) : Host.Outcome State Fault Refusal := onUnit (isHart h) (qArith .sra h f s)
/-- QSADUW. -/
def execQsaduW (h : Nat) (f : QA) (s : State) : Host.Outcome State Fault Refusal := onUnit (isHart h) (qArith .saduW h f s)
/-- QSADSW. -/
def execQsadsW (h : Nat) (f : QA) (s : State) : Host.Outcome State Fault Refusal := onUnit (isHart h) (qArith .sadsW h f s)
/-- QSADUX. -/
def execQsaduX (h : Nat) (f : QA) (s : State) : Host.Outcome State Fault Refusal := onUnit (isHart h) (qArith .saduX h f s)
/-- QSADSX. -/
def execQsadsX (h : Nat) (f : QA) (s : State) : Host.Outcome State Fault Refusal := onUnit (isHart h) (qArith .sadsX h f s)
/-- QFADD. -/
def execQfadd (h : Nat) (f : QA) (s : State) : Host.Outcome State Fault Refusal := onUnit (isHart h) (qArith .fadd h f s)
/-- QFSUB. -/
def execQfsub (h : Nat) (f : QA) (s : State) : Host.Outcome State Fault Refusal := onUnit (isHart h) (qArith .fsub h f s)
/-- QFMUL. -/
def execQfmul (h : Nat) (f : QA) (s : State) : Host.Outcome State Fault Refusal := onUnit (isHart h) (qArith .fmul h f s)
/-- QFMA. -/
def execQfma (h : Nat) (f : QA) (s : State) : Host.Outcome State Fault Refusal := onUnit (isHart h) (qArith .fma h f s)
/-- QFMIN. -/
def execQfmin (h : Nat) (f : QA) (s : State) : Host.Outcome State Fault Refusal := onUnit (isHart h) (qArith .fmin h f s)
/-- QFMAX. -/
def execQfmax (h : Nat) (f : QA) (s : State) : Host.Outcome State Fault Refusal := onUnit (isHart h) (qArith .fmax h f s)
/-- QFNEG. -/
def execQfneg (h : Nat) (f : QA) (s : State) : Host.Outcome State Fault Refusal := onUnit (isHart h) (qArith .fneg h f s)
/-- QFDIV. -/
def execQfdiv (h : Nat) (f : QA) (s : State) : Host.Outcome State Fault Refusal := onUnit (isHart h) (qArith .fdiv h f s)
/-- QFSQRT. -/
def execQfsqrt (h : Nat) (f : QA) (s : State) : Host.Outcome State Fault Refusal := onUnit (isHart h) (qArith .fsqrt h f s)
/-- QF2SUM. -/
def execQf2sum (h : Nat) (f : QA) (s : State) : Host.Outcome State Fault Refusal := onUnit (isHart h) (qArith .twoSum h f s)
/-- QF2PROD. -/
def execQf2prod (h : Nat) (f : QA) (s : State) : Host.Outcome State Fault Refusal := onUnit (isHart h) (qArith .twoProd h f s)
/-- QCMPEQ. -/
def execQcmpeq (h : Nat) (f : QA) (s : State) : Host.Outcome State Fault Refusal := onUnit (isHart h) (qArith .cmpeq h f s)
/-- QCMPLT. -/
def execQcmplt (h : Nat) (f : QA) (s : State) : Host.Outcome State Fault Refusal := onUnit (isHart h) (qArith .cmplt h f s)
/-- QCMPLE. -/
def execQcmple (h : Nat) (f : QA) (s : State) : Host.Outcome State Fault Refusal := onUnit (isHart h) (qArith .cmple h f s)
/-- QFCMPEQ. -/
def execQfcmpeq (h : Nat) (f : QA) (s : State) : Host.Outcome State Fault Refusal := onUnit (isHart h) (qArith .fcmpeq h f s)
/-- QFCMPLT. -/
def execQfcmplt (h : Nat) (f : QA) (s : State) : Host.Outcome State Fault Refusal := onUnit (isHart h) (qArith .fcmplt h f s)
/-- QFCMPLE. -/
def execQfcmple (h : Nat) (f : QA) (s : State) : Host.Outcome State Fault Refusal := onUnit (isHart h) (qArith .fcmple h f s)
/-- QSEL. -/
def execQsel (h : Nat) (f : QA) (s : State) : Host.Outcome State Fault Refusal := onUnit (isHart h) (qArith .sel h f s)
/-- QHADD. -/
def execQhadd (h : Nat) (f : QA) (s : State) : Host.Outcome State Fault Refusal := onUnit (isHart h) (qHadd h f s)
/-- QINS. -/
def execQins (h : Nat) (f : QA) (s : State) : Host.Outcome State Fault Refusal := onUnit (isHart h) (qIns h f s)
/-- QEXT. -/
def execQext (h : Nat) (f : QA) (s : State) : Host.Outcome State Fault Refusal := onUnit (isHart h) (qExt h f s)
/-- QCVT. -/
def execQcvt (h : Nat) (src : BitVec 4) (f : QA) (s : State) : Host.Outcome State Fault Refusal := onUnit (isHart h) (qCvt h src f s)
/-- QLD. -/
def execQld (h : Nat) (f : QM) (s : State) : Host.Outcome State Fault Refusal := onUnit (isHart h) (qLoad h f s)
/-- QST. -/
def execQst (h : Nat) (f : QM) (s : State) : Host.Outcome State Fault Refusal := onUnit (isHart h) (qStore h f s)
/-- QGATHER. -/
def execQgather (h : Nat) (f : QM) (s : State) : Host.Outcome State Fault Refusal := onUnit (isHart h) (qGather h f s)
/-- QSCATTER. -/
def execQscatter (h : Nat) (f : QM) (s : State) : Host.Outcome State Fault Refusal := onUnit (isHart h) (qScatter h f s)

end Sys2Proof.Machine
end

