-- ==== Sys2Proof/Machine/Ring.lean ====
section
/-! DEFINITION. Rings: doorbells, shadow lines, descriptor reads, fetch, aborts, enable and disable (01, 10). -/

namespace Sys2Proof.Machine

/-- A doorbell write that a ring refuses (10 R318). -/
def refuseDoorbell (s : State) (r p : Nat) (v : BitVec 32) : State :=
  let e := mkErr 0x05 2 0 0 (some p) 0 (leBytes 4 v.toNat)
  (errEmit (setRing s r { ringOf s r with dbErr := true }) { e with ring := r }).1

/-- A doorbell write by a party: it reaches the ring's function only from the ring's partition; another party's write
is ignored and recorded (10 R308, R563); no doorbell acts while READY is 0 or after an obituary (10 R305, R338). -/
def doorbell (s : State) (who : Party) (r : Nat) (v : BitVec 32) (f : Nat → Ring → State) : State :=
  let detail := leBytes 4 v.toNat
  match ringPart s r, who with
  | owner, .host p => if owner = some p then act p else report s 0x05 2 0 0 (some p) 0 detail
  | owner, .hart h =>
    match owner, hartPart s h with
    | some p, some q => if p = q && !hartOwner h then act p else report s 0x05 2 0 0 (some q) 0 detail
    | _, q => report s 0x05 2 0 0 q 0 detail
where
  /-- The doorbell reaches the ring. -/
  act (p : Nat) : State :=
    let g := ringOf s r
    if !partReady s p || g.obituary || !alive s || 4 ≤ stage s then s
    else if !g.enabled then refuseDoorbell s r p v
    else f p g

/-- The reader of a ring's doorbell page may act there: the host of the ring's partition, or a hart on its clusters (10 R308, R563). -/
def mayRing (s : State) (who : Party) (r : Nat) : Bool :=
  match ringPart s r, who with
  | some p, .host q => p == q
  | some p, .hart h => hartPart s h == some p && !hartOwner h
  | none, _ => false

/-- What an aligned 32-bit read of a doorbell page returns (10 R308, R317, R563). -/
def doorbellRead (s : State) (who : Party) (r off : Nat) : Nat :=
  let g := ringOf s r
  if !mayRing s who r then 0
  else if off = 0 then g.tail.toNat else if off = 4 then g.cqh.toNat else if off = 12 then g.base.toNat else 0

/-- SQ_TAIL: TAIL advances if it does not move backward and leaves TAIL − FETCH at most ENTRIES, and waits are judged again (10 R318, 01 R19). -/
def sqTail (who : Party) (r : Nat) (v : BitVec 32) (s : State) : State :=
  doorbell s who r v (fun p g =>
    if (g.tail - g.fetch).toNat ≤ (v - g.fetch).toNat ∧ (v - g.fetch).toNat ≤ ringEntries s r then
      settleAll (setRing s r { g with tail := v })
    else refuseDoorbell s r p v)

/-- CQ_HEAD: CQH advances between its old value and COMP, and the interrupt is armed again (10 R317, R318, R333). -/
def cqHead (who : Party) (r : Nat) (v : BitVec 32) (s : State) : State :=
  doorbell s who r v (fun p g =>
    if (v - g.cqh).toNat ≤ (g.comp - g.cqh).toNat then ringPoll (setRing s r { g with cqh := v, armed := true }) r p
    else refuseDoorbell s r p v)

/-- Engines whose running descriptors stop later, through commands of their own, after an abort (03 R92, 10 R330, 06
R208, 14 R477). -/
def stopsLater (d : Desc) : Bool := [0x01, 0x03, 0x06, 0x0D].contains d.engine || (d.engine == 0x0B && d.op == 0)

/-- A descriptor is aborted: a running one by its engine's rule, a waiting one at once (10 R325). -/
def abortDesc (r : Nat) (s : State) (seq : BitVec 32) : State :=
  match findDesc s r seq with
  | none => s
  | some d =>
    if d.phase = .running && stopsLater d then
      let s1 := setDesc s r { d with abort := true }
      if d.engine = 1 then stopTiles s1 r seq else s1
    else endDesc (if d.phase = .running then workStopped s r d St.aborted else s) r d St.aborted 0

/-- Abort every descriptor of a ring before `stop`, counted from the lowest sequence number without a record (10 R325). -/
def abortBefore (s : State) (r : Nat) (stop : BitVec 32) : State :=
  let g := ringOf s r
  let o := firstOpen g
  let n := (stop - o).toNat
  let hit := (g.descs.filter (fun d => decide ((d.seq - o).toNat < n))).map (·.seq)
  let f := (g.fetch - o).toNat
  let s1 := setRing s r { g with abortLeft := max g.abortLeft (n - f) }
  hit.foldl (abortDesc r) s1

/-- ABORT (10 R325). -/
def abortTo (who : Party) (r : Nat) (v : BitVec 32) (s : State) : State :=
  doorbell s who r v (fun _ g =>
    let o := firstOpen g
    let d := (v - o).toNat
    let t := (g.tail - o).toNat
    if d < t then abortBefore s r (v + 1)
    else if d < 2 ^ 31 then abortBefore s r g.tail
    else s)

/-- BASE: accepted only when equal to TAIL; waits are judged again (10 R326, 01 R18). -/
def baseMove (who : Party) (r : Nat) (v : BitVec 32) (s : State) : State :=
  doorbell s who r v (fun p g =>
    if v = g.tail then settleAll (setRing s r { g with base := v, bad := [] }) else refuseDoorbell s r p v)

/-- The device holds a ring's shadow line: SHADOW is set and the slot runs CXL (10 R312, R313). -/
def shadowHeld (s : State) (r : Nat) : Bool :=
  match ringPart s r with
  | none => false
  | some p => match partSlot s p with
    | none => false
    | some sl => ofld s (Reg.rngShadow + 64 * r) 6 42 != 0 && bitAt (reg s (okey (Reg.hifPortCfg + 8 * (sl / 2)))) (12 + sl % 2) &&
        linkUsable s p

/-- SHADOW_SNOOP: the host wrote the line (10 R313). -/
def shadowSnoop (r : Nat) (tail head : BitVec 32) (s : State) : State :=
  if shadowHeld s r then setRing s r { ringOf s r with lineTail := tail, lineHead := head, stale := true } else s

/-- SHADOW_REREAD: each changed value acts as the doorbell (10 R313). -/
def shadowReread (r : Nat) (s : State) : State :=
  let g := ringOf s r
  match ringPart s r with
  | none => s
  | some p =>
    if !g.stale then s
    else
      let s1 := setRing s r { g with stale := false, shadowTail := g.lineTail, shadowHead := g.lineHead }
      let s2 := if g.lineTail != g.shadowTail then sqTail (.host p) r g.lineTail s1 else s1
      if g.lineHead != g.shadowHead then cqHead (.host p) r g.lineHead s2 else s2

/-- The address of the SQ slot of a sequence number (10 R316). -/
def sqSlot (s : State) (r : Nat) (seq : BitVec 32) : Nat :=
  ofld s (Reg.rngSqBase + 64 * r) 12 36 * 4096 + 64 * (seq.toNat % ringEntries s r)

/-- DESC_READ_ISSUE: at most 16 reads in flight, before TAIL, with a CQ slot free, and none under S3; the slot is translated now (10 R311, R319). -/
def readIssue (r : Nat) (s : State) : State :=
  let g := ringOf s r
  let next := g.fetch + BitVec.ofNat 32 g.reads.length
  match ringPart s r with
  | none => s
  | some p =>
    if g.enabled && !g.obituary && alive s && !s.tapHeld && decide (stage s < 3) && !s.resetting.contains p && decide (g.reads.length < 16) &&
        decide (g.reads.length < (g.tail - g.fetch).toNat) && decide ((next - g.cqh).toNat < ringEntries s r) then
      setRing s r { g with reads := g.reads ++ [xlateMem s p .r (sqSlot s r next)] }
    else s

/-- The descriptor that an issued read returns: 64 bytes from where its slot at `a` resolved to (10 R319). -/
def issuedRead (s : State) (p a : Nat) : Option Nat → Except MemErr (List Byte)
  | none => .error (.addr a)
  | some key => readVia s (fun x => some (key + (x - a))) a 64 (fromDie s p none)

/-- A descriptor whose read failed: ENGINE 0xFF, USER 0 (10 R564). -/
def failedRead (s : State) (r p : Nat) (seq : BitVec 32) (er : Option MemErr) (a : Nat) : State :=
  let d : Desc := ⟨seq, 0xFF#8 :: List.replicate 63 0#8, p, 0, .waiting, .idle, false, false, false, false, none⟩
  match er with
  | some e => endMem s r d St.descAddress e a
  | none => endDesc s r d St.parity a

/-- DESC_FETCH: the oldest read returns, FETCH moves past its descriptor, and header and waits are checked (10 R319,
R324, R325, R328, R564, 01 R20). -/
def descFetch (r : Nat) (check : PathCheck) (s : State) : State :=
  let g := ringOf s r
  match ringPart s r with
  | none => s
  | some p =>
    if g.reads.isEmpty || !g.enabled || !alive s then s
    else
      let seq := g.fetch
      let a := sqSlot s r seq
      let kill := g.disabling || decide (0 < g.abortLeft)
      let s1 := setRing s r { g with fetch := seq + 1, reads := g.reads.tail, abortLeft := g.abortLeft - 1 }
      match issuedRead s p a (g.reads.headD none), check with
      | .error (.addr x), _ => failedRead s1 r p seq (some (.addr x)) a
      | _, .persistent => failedRead s1 r p seq none a
      | .error e, _ => failedRead s1 r p seq (some e) a
      | .ok bs, c =>
        let s2 := if c = .replayed then report s1 0x01 1 0 0 (some p) a [0#8, 1#8] else s1
        let d : Desc := ⟨seq, bs, p, pfld s p Reg.hifWaitLimit 0 16, .waiting, .idle, false, false, c == .replayed, false, none⟩
        let s3 := setRing s2 r { ringOf s2 r with descs := (ringOf s2 r).descs ++ [d] }
        if kill then endDesc s3 r d St.aborted 0
        else if descInvalid bs then endDesc s3 r d St.descInvalid 0
        else settleAll s3

/-- WAIT_LIMIT_EXPIRY: a descriptor with pending waits fails (01 R22). DETAIL names wait 0 where both are pending, which the spec leaves open
(log entry 33, DESIGN CHOICE). -/
def waitExpiry (r : Nat) (seq : BitVec 32) (s : State) : State :=
  match findDesc s r seq with
  | none => s
  | some d =>
    match d.phase, d.waits.find? (fun w => judgeWait s d.part w.1 w.2 == .open) with
    | .waiting, some w => settleAll (completeOne s r d St.dependency (waitDetail w true) false)
    | _, _ => s

/-- MOD_US_EXPIRY: the moderation timer of an armed ring with unsignalled records (10 R333). -/
def modExpiry (r : Nat) (s : State) : State :=
  let g := ringOf s r
  match ringPart s r with
  | none => s
  | some p => if g.armed && decide (0 < g.unsignalled) && ofld s (Reg.rngCfg + 64 * r) 32 10 != 0 then ringRaise s r p else s

/-- A ring after a successful enable: all five counters are 0 (10 R323). -/
def Ring.enable (g : Ring) : Ring := { Ring.init with enabled := true, dbErr := g.dbErr }

/-- RING_ENABLE: the fields are stored, the set-up is checked and the counters are zeroed (10 R323). -/
def ringEnable (view r : Nat) (v : Word) (s : State) : State :=
  let off := Reg.rngCfg + 64 * r
  if !bitAt v.toNat 8 || !alive s then s
  else match regAt s view off with
  | none => s
  | some _ =>
    if (ringOf s r).enabled then s
    else
      let s1 := storeWord s view off v.toNat
      match ringPart s r with
      | none => s1
      | some p =>
        let l := fieldOf v.toNat 0 5
        if !partReady s p || (ringOf s r).obituary || l < 4 || 16 < l then s1
        else settleAll (setRing s1 r (ringOf s1 r).enable)

/-- RING_DISABLE: every descriptor before TAIL without a record is aborted, and so is every later one (10 R324). -/
def ringDisable (view r : Nat) (v : Word) (s : State) : State :=
  let off := Reg.rngCfg + 64 * r
  if bitAt v.toNat 8 || !alive s then s
  else match regAt s view off with
  | none => s
  | some _ =>
    let g := ringOf s r
    if !g.enabled then storeWord s view off v.toNat
    else
      let s1 := setRing (setRfld s (okey off) 8 1 0) r { g with disabling := true }
      disableCheck (abortBefore s1 r g.tail) r

/-- NOP descriptor: completes OK once its waits are satisfied (10 R328). -/
def nopDescriptor (r : Nat) (seq : BitVec 32) (s : State) : State :=
  match startable s r seq 0 0 with
  | none => s
  | some d => settleAll (completeOne s r d St.ok 0 false)

/-- Ring numbers are 0 to 4,095 (10 R314). -/
def isRing (r : Nat) : Bool := decide (r < 4096)

/-- A party that exists: hosts 0 to 7, harts 0 to 95. -/
def isParty : Party → Bool
  | .host p => decide (p < 8)
  | .hart h => decide (h < 96)

/-- SQ_TAIL. -/
def execSqTail (who : Party) (r : Nat) (v : BitVec 32) (s : State) : Host.Outcome State Fault Refusal :=
  onUnit (isRing r && isParty who) (sqTail who r v s)
/-- CQ_HEAD. -/
def execCqHead (who : Party) (r : Nat) (v : BitVec 32) (s : State) : Host.Outcome State Fault Refusal :=
  onUnit (isRing r && isParty who) (cqHead who r v s)
/-- ABORT. -/
def execAbort (who : Party) (r : Nat) (v : BitVec 32) (s : State) : Host.Outcome State Fault Refusal :=
  onUnit (isRing r && isParty who) (abortTo who r v s)
/-- BASE. -/
def execBase (who : Party) (r : Nat) (v : BitVec 32) (s : State) : Host.Outcome State Fault Refusal :=
  onUnit (isRing r && isParty who) (baseMove who r v s)
/-- SHADOW_SNOOP. -/
def execShadowSnoop (r : Nat) (t h : BitVec 32) (s : State) : Host.Outcome State Fault Refusal := onUnit (isRing r) (shadowSnoop r t h s)
/-- SHADOW_REREAD. -/
def execShadowReread (r : Nat) (s : State) : Host.Outcome State Fault Refusal := onUnit (isRing r) (shadowReread r s)
/-- DESC_READ_ISSUE. -/
def execDescReadIssue (r : Nat) (s : State) : Host.Outcome State Fault Refusal := onUnit (isRing r) (readIssue r s)
/-- DESC_FETCH. -/
def execDescFetch (r : Nat) (c : PathCheck) (s : State) : Host.Outcome State Fault Refusal := onUnit (isRing r) (descFetch r c s)
/-- WAIT_LIMIT_EXPIRY. -/
def execWaitLimitExpiry (r : Nat) (seq : BitVec 32) (s : State) : Host.Outcome State Fault Refusal := onUnit (isRing r) (waitExpiry r seq s)
/-- MOD_US_EXPIRY. -/
def execModUsExpiry (r : Nat) (s : State) : Host.Outcome State Fault Refusal := onUnit (isRing r) (modExpiry r s)
/-- RING_ENABLE. -/
def execRingEnable (view r : Nat) (v : Word) (s : State) : Host.Outcome State Fault Refusal :=
  onUnit (isRing r && decide (view ≤ 8)) (ringEnable view r v s)
/-- RING_DISABLE. -/
def execRingDisable (view r : Nat) (v : Word) (s : State) : Host.Outcome State Fault Refusal :=
  onUnit (isRing r && decide (view ≤ 8)) (ringDisable view r v s)
/-- NOP_DESCRIPTOR. -/
def execNopDescriptor (r : Nat) (seq : BitVec 32) (s : State) : Host.Outcome State Fault Refusal := onUnit (isRing r) (nopDescriptor r seq s)

end Sys2Proof.Machine
end

