-- ==== Sys2Proof/Machine/HartDev.lean ====
section
/-! DEFINITION. Register views and doorbell pages among the addresses of harts (10 R563, 15 R562, 17 R545). -/

namespace Sys2Proof.Machine

/-- The core physical address of a hart's access that leads past the memory to a register view or a doorbell page; a guest's mapping of them is
the Owner's (log entry 8). -/
def deviceAddr (s : State) (h : Nat) (acc : Acc) (a : Nat) : Option Nat :=
  match (if (hartOf s h).effGuest then .error (0, 0) else stageOne s h acc a : Except (Nat × Nat) Nat) with
  | .ok x => if (0xF000000000 ≤ x ∧ x < 0xF000000000 + 9 * 0x4000000) ∨ (0xF040000000 ≤ x ∧ x < 0xF040000000 + 4096 * 4096) then some x else none
  | .error _ => none

/-- A store of a hart at a doorbell page: an aligned 32-bit one is the doorbell of its register (10 Table 6, R563). -/
def doorbellStore (s : State) (h x size v : Nat) : State :=
  let r := (x - 0xF040000000) / 4096
  let w := BitVec.ofNat 32 v
  if size ≠ 4 then s
  else match x % 4096 with
  | 0 => sqTail (.hart h) r w s
  | 4 => cqHead (.hart h) r w s
  | 8 => abortTo (.hart h) r w s
  | 12 => baseMove (.hart h) r w s
  | _ => s

/-- A hart's operation at a register view or a doorbell page, its value for the destination: a load returns the register, a store to a doorbell page is
the doorbell, and a view that the hart may not access faults, as an AMO, LR or SC does (10 R563, 17 R545). A store to a view is the command
REGISTER_WRITE, or the command of the register's action, and nothing here. -/
def deviceDo (s : State) (h : Nat) (op : HartOp) (dest : HartDest) (a x size v : Nat) : State :=
  let view := (x - 0xF000000000) / 0x4000000
  let door := decide (0xF040000000 ≤ x)
  let fault := fun acc => setHart s h ((hartOf s h).trapped (accFault acc) (BitVec.ofNat 64 a) 0)
  match op with
  | .load =>
    if door then hartGive s h dest (if size = 4 ∧ x % 4 = 0 then doorbellRead s (.hart h) ((x - 0xF040000000) / 4096) (x % 4096) else 0)
    else if viewAllowed s (.hart h) view then hartGive s h dest (readAccess s view ((x - 0xF000000000) % 0x4000000) size)
    else fault .r
  | .store => if door then hartDone (doorbellStore s h x size v) h dest else if viewAllowed s (.hart h) view then hartDone s h dest else fault .w
  | .lr => fault .r
  | _ => fault .w

/-- The kind of access of a hart's operation. -/
def opAcc : HartOp → Acc
  | .load | .lr => .r
  | .amo _ => .a
  | _ => .w

/-- A hart's operation at whatever its address names: a register view, a doorbell page, memory or a Vat page (11 R360). -/
def hartAccess (h : Nat) (op : HartOp) (dest : HartDest) (addr : Word) (size : Nat) (data cmp : BitVec 128) (s : State) : State :=
  let memory := match op with | .load | .store | .amo _ | .lr | .sc => true | _ => false
  match (if memory && hartReady s h && [1, 2, 4, 8, 16].contains size then deviceAddr s h (opAcc op) addr.toNat else none) with
  | some x => deviceDo s h op dest addr.toNat x size (data.toNat % 2 ^ (8 * size))
  | none => hartDo h op dest addr size data cmp s

end Sys2Proof.Machine
end

