-- ==== Sys2Proof/Machine/Scalar.lean ====
section
/-! DEFINITION. The scalar instructions of the harts: RV64GC, and the loads, stores and fences of the H extension, as the RISC-V Unprivileged ISA and
Privileged Architecture define them (08 R236, R238, R240; log entry 8, PRESUMED). -/

namespace Sys2Proof.Machine

/-! ### Fields and immediates -/

/-- The low `n` bits of an integer. -/
def lowBits (n : Nat) (v : Int) : Nat := (v % (2 ^ n : Nat)).toNat

/-- An immediate of `n` bits with its sign, as a word. -/
def immOf (n v : Nat) : Word := BitVec.ofInt 64 (toSigned n v)

/-- Immediates of the formats I, S, B, U and J. -/
def immI (w : Nat) : Word := immOf 12 (fieldOf w 20 12)
def immS (w : Nat) : Word := immOf 12 (fieldOf w 7 5 + fieldOf w 25 7 * 32)
def immB (w : Nat) : Word := immOf 13 (fieldOf w 8 4 * 2 + fieldOf w 25 6 * 32 + fieldOf w 7 1 * 2048 + fieldOf w 31 1 * 4096)
def immU (w : Nat) : Word := immOf 32 (fieldOf w 12 20 * 4096)
def immJ (w : Nat) : Word := immOf 21 (fieldOf w 21 10 * 2 + fieldOf w 20 1 * 2048 + fieldOf w 12 8 * 4096 + fieldOf w 31 1 * 1048576)

/-! ### Compressed instructions -/

/-- Words of the formats I, S, R, B and J from their fields. -/
def wordI (imm : Int) (rs1 f3 rd op : Nat) : Nat := lowBits 12 imm * 2 ^ 20 + rs1 * 2 ^ 15 + f3 * 2 ^ 12 + rd * 2 ^ 7 + op
def wordS (imm rs2 rs1 f3 op : Nat) : Nat :=
  imm / 32 * 2 ^ 25 + rs2 * 2 ^ 20 + rs1 * 2 ^ 15 + f3 * 2 ^ 12 + imm % 32 * 2 ^ 7 + op
def wordR (f7 rs2 rs1 f3 rd op : Nat) : Nat := f7 * 2 ^ 25 + rs2 * 2 ^ 20 + rs1 * 2 ^ 15 + f3 * 2 ^ 12 + rd * 2 ^ 7 + op
def wordB (imm : Int) (rs2 rs1 f3 : Nat) : Nat :=
  let v := lowBits 13 imm
  fieldOf v 12 1 * 2 ^ 31 + fieldOf v 5 6 * 2 ^ 25 + rs2 * 2 ^ 20 + rs1 * 2 ^ 15 + f3 * 2 ^ 12 + fieldOf v 1 4 * 2 ^ 8 + fieldOf v 11 1 * 2 ^ 7 + 0x63
def wordJ (imm : Int) (rd : Nat) : Nat :=
  let v := lowBits 21 imm
  fieldOf v 20 1 * 2 ^ 31 + fieldOf v 1 10 * 2 ^ 21 + fieldOf v 11 1 * 2 ^ 20 + fieldOf v 12 8 * 2 ^ 12 + rd * 2 ^ 7 + 0x6F

/-- Quadrant 0: the instruction of 4 bytes that a compressed one stands for, none for a reserved encoding. -/
def expand0 (c : Nat) : Option Nat :=
  let r1 := 8 + fieldOf c 7 3
  let r2 := 8 + fieldOf c 2 3
  let d := fieldOf c 10 3 * 8 + fieldOf c 5 2 * 64
  let w := fieldOf c 10 3 * 8 + fieldOf c 6 1 * 4 + fieldOf c 5 1 * 64
  match fieldOf c 13 3 with
  | 0 =>
    let imm := fieldOf c 11 2 * 16 + fieldOf c 7 4 * 64 + fieldOf c 6 1 * 4 + fieldOf c 5 1 * 8
    if imm = 0 then none else some (wordI imm 2 0 r2 0x13)
  | 1 => some (wordI d r1 3 r2 0x07)
  | 2 => some (wordI w r1 2 r2 0x03)
  | 3 => some (wordI d r1 3 r2 0x03)
  | 5 => some (wordS d r2 r1 3 0x27)
  | 6 => some (wordS w r2 r1 2 0x23)
  | 7 => some (wordS d r2 r1 3 0x23)
  | _ => none

/-- Quadrant 1. -/
def expand1 (c : Nat) : Option Nat :=
  let rd := fieldOf c 7 5
  let r1 := 8 + fieldOf c 7 3
  let r2 := 8 + fieldOf c 2 3
  let u := fieldOf c 2 5 + fieldOf c 12 1 * 32
  let imm := toSigned 6 u
  let b := toSigned 9 (fieldOf c 3 2 * 2 + fieldOf c 10 2 * 8 + fieldOf c 2 1 * 32 + fieldOf c 5 2 * 64 + fieldOf c 12 1 * 256)
  match fieldOf c 13 3 with
  | 0 => some (wordI imm rd 0 rd 0x13)
  | 1 => if rd = 0 then none else some (wordI imm rd 0 rd 0x1B)
  | 2 => some (wordI imm 0 0 rd 0x13)
  | 3 =>
    if u = 0 then none
    else if rd = 2 then
      some (wordI (toSigned 10 (fieldOf c 6 1 * 16 + fieldOf c 2 1 * 32 + fieldOf c 5 1 * 64 + fieldOf c 3 2 * 128 + fieldOf c 12 1 * 512)) 2 0 2 0x13)
    else some (lowBits 20 imm * 2 ^ 12 + rd * 2 ^ 7 + 0x37)
  | 4 =>
    match fieldOf c 10 2 with
    | 0 => some (wordI u r1 5 r1 0x13)
    | 1 => some (wordI (u + 0x400 : Nat) r1 5 r1 0x13)
    | 2 => some (wordI imm r1 7 r1 0x13)
    | _ =>
      match fieldOf c 12 1 * 4 + fieldOf c 5 2 with
      | 0 => some (wordR 0x20 r2 r1 0 r1 0x33)
      | 1 => some (wordR 0 r2 r1 4 r1 0x33)
      | 2 => some (wordR 0 r2 r1 6 r1 0x33)
      | 3 => some (wordR 0 r2 r1 7 r1 0x33)
      | 4 => some (wordR 0x20 r2 r1 0 r1 0x3B)
      | 5 => some (wordR 0 r2 r1 0 r1 0x3B)
      | _ => none
  | 5 =>
    some (wordJ (toSigned 12 (fieldOf c 3 3 * 2 + fieldOf c 11 1 * 16 + fieldOf c 2 1 * 32 + fieldOf c 7 1 * 64 + fieldOf c 6 1 * 128 +
      fieldOf c 9 2 * 256 + fieldOf c 8 1 * 1024 + fieldOf c 12 1 * 2048)) 0)
  | 6 => some (wordB b 0 r1 0)
  | _ => some (wordB b 0 r1 1)

/-- Quadrant 2. -/
def expand2 (c : Nat) : Option Nat :=
  let rd := fieldOf c 7 5
  let rs2 := fieldOf c 2 5
  let d := fieldOf c 5 2 * 8 + fieldOf c 12 1 * 32 + fieldOf c 2 3 * 64
  let sd := fieldOf c 10 3 * 8 + fieldOf c 7 3 * 64
  match fieldOf c 13 3 with
  | 0 => some (wordI (rs2 + fieldOf c 12 1 * 32 : Nat) rd 1 rd 0x13)
  | 1 => some (wordI d 2 3 rd 0x07)
  | 2 => if rd = 0 then none else some (wordI (fieldOf c 4 3 * 4 + fieldOf c 12 1 * 32 + fieldOf c 2 2 * 64 : Nat) 2 2 rd 0x03)
  | 3 => if rd = 0 then none else some (wordI d 2 3 rd 0x03)
  | 4 =>
    if fieldOf c 12 1 = 0 then
      (if rs2 = 0 then (if rd = 0 then none else some (wordI 0 rd 0 0 0x67)) else some (wordR 0 rs2 0 0 rd 0x33))
    else if rs2 = 0 then some (if rd = 0 then 0x100073 else wordI 0 rd 0 1 0x67)
    else some (wordR 0 rs2 rd 0 rd 0x33)
  | 5 => some (wordS sd rs2 2 3 0x27)
  | 6 => some (wordS (fieldOf c 9 4 * 4 + fieldOf c 7 2 * 64) rs2 2 2 0x23)
  | _ => some (wordS sd rs2 2 3 0x23)

/-- The instruction of 4 bytes that a compressed one stands for. -/
def expand (c : Nat) : Option Nat :=
  match c % 4 with
  | 0 => expand0 c
  | 1 => expand1 c
  | _ => expand2 c

/-! ### Integer arithmetic -/

/-- The operation of OP and OP-IMM by FUNCT3; `alt` makes it SUB or an arithmetic shift. -/
def alu {n : Nat} (f3 : Nat) (alt : Bool) (a b : BitVec n) : BitVec n :=
  match f3 with
  | 0 => if alt then a - b else a + b
  | 1 => a <<< (b.toNat % n)
  | 2 => BitVec.ofNat n (b2n (a.slt b))
  | 3 => BitVec.ofNat n (b2n (a.ult b))
  | 4 => a ^^^ b
  | 5 => if alt then a.sshiftRight (b.toNat % n) else a >>> (b.toNat % n)
  | 6 => a ||| b
  | _ => a &&& b

/-- The operation of the M extension by FUNCT3. -/
def mulDiv {n : Nat} (f3 : Nat) (a b : BitVec n) : BitVec n :=
  match f3 with
  | 0 => a * b
  | 1 => BitVec.ofInt n (a.toInt * b.toInt / (2 ^ n : Nat))
  | 2 => BitVec.ofInt n (a.toInt * (b.toNat : Int) / (2 ^ n : Nat))
  | 3 => BitVec.ofNat n (a.toNat * b.toNat / 2 ^ n)
  | 4 => if b = 0 then BitVec.ofInt n (-1) else BitVec.ofInt n (a.toInt.tdiv b.toInt)
  | 5 => if b = 0 then BitVec.ofInt n (-1) else BitVec.ofNat n (a.toNat / b.toNat)
  | 6 => if b = 0 then a else BitVec.ofInt n (a.toInt.tmod b.toInt)
  | _ => if b = 0 then a else BitVec.ofNat n (a.toNat % b.toNat)

/-- The low 32 bits of a register. -/
def low32 (a : Word) : BitVec 32 := a.setWidth 32

/-- The value of an instruction of OP-IMM, OP, OP-IMM-32 or OP-32; none for an undefined encoding. -/
def aluValue (w : Nat) (a b : Word) : Option Word :=
  let f3 := fieldOf w 12 3
  let f6 := fieldOf w 26 6
  let f7 := fieldOf w 25 7
  match fieldOf w 0 7 with
  | 0x13 =>
    let k : Word := BitVec.ofNat 64 (fieldOf w 20 6)
    if f3 = 1 then (if f6 = 0 then some (alu 1 false a k) else none)
    else if f3 = 5 then (if f6 = 0 ∨ f6 = 0x10 then some (alu 5 (f6 == 0x10) a k) else none)
    else some (alu f3 false a (immI w))
  | 0x33 =>
    if f7 = 0 ∨ (f7 = 0x20 ∧ (f3 = 0 ∨ f3 = 5)) then some (alu f3 (f7 == 0x20) a b) else if f7 = 1 then some (mulDiv f3 a b) else none
  | 0x1B =>
    let k := BitVec.ofNat 32 (fieldOf w 20 5)
    if f3 = 0 then some ((alu 0 false (low32 a) (low32 (immI w))).signExtend 64)
    else if (f3 = 1 ∧ f7 = 0) ∨ (f3 = 5 ∧ (f7 = 0 ∨ f7 = 0x20)) then some ((alu f3 (f7 == 0x20) (low32 a) k).signExtend 64) else none
  | _ =>
    if (f7 = 0 ∧ (f3 = 0 ∨ f3 = 1 ∨ f3 = 5)) ∨ (f7 = 0x20 ∧ (f3 = 0 ∨ f3 = 5)) then
      some ((alu f3 (f7 == 0x20) (low32 a) (low32 b)).signExtend 64)
    else if f7 = 1 ∧ (f3 = 0 ∨ 4 ≤ f3) then some ((mulDiv f3 (low32 a) (low32 b)).signExtend 64)
    else none

/-- A branch is taken; none for an undefined encoding. -/
def branchTaken (f3 : Nat) (a b : Word) : Option Bool :=
  match f3 with
  | 0 => some (a == b)
  | 1 => some (a != b)
  | 4 => some (a.slt b)
  | 5 => some (!a.slt b)
  | 6 => some (a.ult b)
  | 7 => some (!a.ult b)
  | _ => none

/-! ### Floating point -/

/-- The format of a width bit: FP64 or FP32. -/
def scalarFmt (dbl : Bool) : Fmt := if dbl then .fp64 else .fp32

/-- An operand: a register that holds no boxed FP32 value reads as the canonical NaN. -/
def fArg (x : Hart) (dbl : Bool) (r : Nat) : Nat :=
  let v := fReg x r
  if dbl then v else if v / 2 ^ 32 = 0xFFFFFFFF then v % 2 ^ 32 else Fmt.fp32.qnan

/-- The rounding mode of an instruction, frm where it says so; none for a reserved one (08 R238). -/
def roundingMode (x : Hart) (rm : Nat) : Option Nat :=
  let m := if rm = 7 then x.fcsr / 32 % 8 else rm
  if m ≤ 4 then some m else none

/-- A floating-point result and its flags. -/
def fpPut (x : Hart) (dbl : Bool) (rd : Nat) (r : Rf) : Hart := accrue (setF x rd (if dbl then 8 else 4) r.1) r.2

/-- An integer result and its flags. -/
def fpPutX (x : Hart) (rd : Nat) (v : Word) (fl : Nat) : Hart := setX (accrue (if fl = 0 then x else x.dirtyFs) fl) rd v

/-- An instruction of OP-FP: the hart after it but for the pc; none for an undefined encoding. -/
def fpOp (x : Hart) (w : Nat) : Option Hart :=
  let dbl := fieldOf w 25 2 == 1
  let f := scalarFmt dbl
  let rd := fieldOf w 7 5
  let rm := fieldOf w 12 3
  let rs2 := fieldOf w 20 5
  let a := fArg x dbl (fieldOf w 15 5)
  let b := fArg x dbl rs2
  let va := f.decode a
  let vb := f.decode b
  let xv := xReg x (fieldOf w 15 5)
  let rounded := fun (k : Nat → Hart) => (roundingMode x rm).map k
  if 1 < fieldOf w 25 2 then none
  else match fieldOf w 27 5 with
  | 0x00 => rounded (fun m => fpPut x dbl rd (f.addDir m va vb))
  | 0x01 => rounded (fun m => fpPut x dbl rd (f.addDir m va vb.neg))
  | 0x02 => rounded (fun m => fpPut x dbl rd (f.mulDir m va vb))
  | 0x03 => rounded (fun m => fpPut x dbl rd (f.divDir m a b))
  | 0x0B => if rs2 = 0 then rounded (fun m => fpPut x dbl rd (f.sqrtDir m a)) else none
  | 0x04 =>
    let s := f.signBit
    let sign := match rm with
      | 0 => b / s
      | 1 => 1 - b / s
      | _ => (a / s + b / s) % 2
    if rm ≤ 2 then some (setF x rd (if dbl then 8 else 4) (a % s + sign * s)) else none
  | 0x05 => if rm ≤ 1 then some (fpPut x dbl rd (f.minNum (rm == 1) a b)) else none
  | 0x08 =>
    if rs2 = 1 - b2n dbl then
      rounded (fun m =>
        let v := (scalarFmt (!dbl)).decode (fArg x (!dbl) (fieldOf w 15 5))
        fpPut x dbl rd (withFlags (f.ofFvDir m v) (if v.isSnan then Fl.iv else 0)))
    else none
  | 0x14 =>
    if rm ≤ 2 then
      let c := f.cmp (match rm with | 0 => 3 | 1 => 2 | _ => 0) a b
      some (fpPutX x rd (BitVec.ofNat 64 (b2n c.1)) c.2)
    else none
  | 0x18 =>
    if rs2 ≤ 3 then
      rounded (fun m =>
        let n := if rs2 ≤ 1 then 32 else 64
        let r := fpToInt m n (rs2 % 2 == 0) va
        fpPutX x rd (BitVec.ofInt 64 (toSigned n (lowBits n r.1))) r.2)
    else none
  | 0x1A =>
    if rs2 ≤ 3 then
      rounded (fun m =>
        let n := if rs2 ≤ 1 then 32 else 64
        let v := xv.toNat % 2 ^ n
        fpPut x dbl rd (f.ofIntDir m (if rs2 % 2 = 0 then toSigned n v else v)))
    else none
  | 0x1C =>
    if rs2 ≠ 0 then none
    else if rm = 0 then
      some (setX x rd (if dbl then BitVec.ofNat 64 (fReg x (fieldOf w 15 5)) else immOf 32 (fReg x (fieldOf w 15 5) % 2 ^ 32)))
    else if rm = 1 then some (setX x rd (BitVec.ofNat 64 (f.classOf a)))
    else none
  | 0x1E => if rs2 = 0 ∧ rm = 0 then some (setF x rd (if dbl then 8 else 4) xv.toNat) else none
  | _ => none

/-- FMADD, FMSUB, FNMSUB or FNMADD by opcode. -/
def fpFma (x : Hart) (w : Nat) : Option Hart :=
  let dbl := fieldOf w 25 2 == 1
  let f := scalarFmt dbl
  let v := fun lo => f.decode (fArg x dbl (fieldOf w lo 5))
  let k := fieldOf w 2 2
  if 1 < fieldOf w 25 2 then none
  else (roundingMode x (fieldOf w 12 3)).map (fun m =>
    fpPut x dbl (fieldOf w 7 5) (f.fmaDir m (decide (2 ≤ k)) (k == 1 || k == 3) (v 15) (v 20) (v 27)))

/-! ### Loads and stores of a guest's memory (H extension) -/

/-- The state in which a hart's accesses are those of its guest, with the privilege that hstatus.SPVP gives. -/
def asGuest (s : State) (h : Nat) : State :=
  let x := hartOf s h
  setHart s h { x.setFlds Csr.mstatus [(11, 2, x.cfld Csr.hstatus 8 1), (17, 1, 1), (39, 1, 1)] with mode := .m }

/-- The state after an access in the guest's place, the hart's own mode and registers back. -/
def fromGuest (s t : State) (h : Nat) : State :=
  setHart t h { hartOf t h with mode := (hartOf s h).mode, csr := (hartOf s h).csr }

/-- HLV, HLVX and HSV: the access of a guest, or the trap of the hart's own mode. -/
def guestAccess (s : State) (h : Nat) (load exec : Bool) (a n v : Nat) (dest : HartDest) : State :=
  let g := asGuest s h
  let acc : Acc := if load then .r else .w
  let tr := hartKey g h acc
  match (if exec then (pageParts a n).find? (fun y => (hartXlate g h .x y.1).isNone) else none) with
  | some y => faultAs g s h .x y.1 y.1
  | none =>
    match (localParts g h acc a n).find? (fun y => if load then !(readOnes g h tr y.1 y.2).isOk else writeFails g h tr y.1 y.2) with
    | some y =>
      let b := failingAt g tr acc y.1 y.2
      faultAs g s h acc b b
    | none =>
      if load then fromGuest s (hartLoad g h a n dest) h
      else match hartStore g h a (leBytes n v) with
      | .ok t => hartDone (fromGuest s t h) h dest
      | .error t => t

/-- A hypervisor load or store by its word: illegal in U mode without HU, a virtual instruction in a guest. -/
def guestInstr (s : State) (h w len : Nat) : State :=
  let x := hartOf s h
  let f7 := fieldOf w 25 7
  let k := fieldOf w 20 5
  let rd := fieldOf w 7 5
  let n := 2 ^ ((f7 - 0x30) / 2)
  let load := f7 % 2 == 0
  let legal := decide (0x30 ≤ f7 ∧ f7 ≤ 0x37) &&
    (if load then k == 0 || (k == 1 && n ≠ 8) || (k == 3 && (n == 2 || n == 4)) else rd == 0)
  if !legal then illegal s h
  else if x.guest then trapOpen s h 22
  else if x.mode = .u ∧ x.cfld Csr.hstatus 9 1 = 0 then illegal s h
  else guestAccess s h load (load && k == 3) (xReg x (fieldOf w 15 5)).toNat n ((xReg x k).toNat % 2 ^ (8 * n)) (.x rd n (k == 0) len)

/-! ### System instructions -/

/-- The exception of a fence of translations in a mode that may not run it: SFENCE.VMA, HFENCE.VVMA and HFENCE.GVMA by FUNCT7. -/
def fenceRefused (x : Hart) (f7 : Nat) : Option Nat :=
  match x.mode with
  | .m => none
  | .hs => if f7 ≠ 0x11 ∧ x.cfld Csr.mstatus 20 1 = 1 then some 2 else none
  | .u => some 2
  | .vs => if f7 = 0x09 ∧ x.cfld Csr.hstatus 20 1 = 0 then none else some 22
  | .vu => some 22

/-- The cause of an environment call. -/
def callCause : Priv → Nat
  | .u | .vu => 8
  | .hs => 9
  | .vs => 10
  | .m => 11

/-- A CSR instruction: the old value goes to the integer register. -/
def csrInstr (s : State) (h w len : Nat) : State :=
  let x := hartOf s h
  let f3 := fieldOf w 12 3
  let rs1 := fieldOf w 15 5
  let how : CsrHow := if f3 % 4 = 1 then .write else if rs1 = 0 then .read else if f3 % 4 = 2 then .set else .clear
  match x.csrRefused (fieldOf w 20 12) (how != .read) with
  | some c => trapOpen s h c
  | none =>
    let t := hartCsr s h (fieldOf w 20 12) how (if 4 ≤ f3 then rs1 else (xReg x rs1).toNat)
    let y := hartOf t h
    setHart t h ((setX { y with reply := x.reply } (fieldOf w 7 5) (BitVec.ofNat 64 y.reply.toNat)).skip len)

/-- An instruction of SYSTEM. A wait for an interrupt may end at once, and no translation is cached. A breakpoint saves the pc as its value. -/
def systemInstr (s : State) (h w len : Nat) : State :=
  let x := hartOf s h
  let f7 := fieldOf w 25 7
  match fieldOf w 12 3 with
  | 0 =>
    if w = 0x73 then trap s h (callCause x.mode) 0
    else if w = 0x100073 then trap s h 3 x.pc
    else if w = 0x10500073 then setHart s h (x.skip len)
    else if w = 0x30200073 then hartSystem s h .mret
    else if w = 0x10200073 then hartSystem s h .sret
    else if (f7 = 0x09 ∨ f7 = 0x11 ∨ f7 = 0x31) ∧ fieldOf w 7 5 = 0 then
      match fenceRefused x f7 with
      | some c => trapOpen s h c
      | none => setHart s h (x.skip len)
    else illegal s h
  | 4 => guestInstr s h w len
  | _ => csrInstr s h w len

/-! ### Instructions -/

/-- The Lake operation of an AMO by FUNCT5 (log entry 16). -/
def amoCode : Nat → Option Nat
  | 0x00 => some 2
  | 0x01 => some 10
  | 0x04 => some 14
  | 0x08 => some 13
  | 0x0C => some 12
  | 0x10 => some 4
  | 0x14 => some 5
  | 0x18 => some 6
  | 0x1C => some 7
  | _ => none

/-- LR, SC and the AMOs. -/
def atomicInstr (s : State) (h w len : Nat) : State :=
  let x := hartOf s h
  let n := 2 ^ fieldOf w 12 3
  let a := xReg x (fieldOf w 15 5)
  let v := (xReg x (fieldOf w 20 5)).setWidth 128
  let dest : HartDest := .x (fieldOf w 7 5) n true len
  if n ≠ 4 ∧ n ≠ 8 then illegal s h
  else match fieldOf w 27 5 with
  | 2 => if fieldOf w 20 5 = 0 then hartAccess h .lr dest a n v 0 s else illegal s h
  | 3 => hartAccess h .sc dest a n v 0 s
  | k => match amoCode k with
    | some c => hartAccess h (.amo c) dest a n v 0 s
    | none => illegal s h

/-- A scalar instruction of a hart: a word of 4 bytes, or one expanded from a compressed instruction, with its length. A word of the short-vector
extension is a command of its own and nothing here. -/
def scalarDo (s : State) (h w len : Nat) : State :=
  let x := hartOf s h
  let rd := fieldOf w 7 5
  let f3 := fieldOf w 12 3
  let a := xReg x (fieldOf w 15 5)
  let b := xReg x (fieldOf w 20 5)
  let put := fun (v : Word) => setHart s h ((setX x rd v).skip len)
  let jump := fun (target : Word) => setHart s h { setX x rd (x.pc + BitVec.ofNat 64 len) with pc := target }
  let fp := fun (r : Option Hart) => match (if fsOn x then r else none) with
    | some y => setHart s h (y.skip len)
    | none => illegal s h
  match fieldOf w 0 7 with
  | 0x37 => put (immU w)
  | 0x17 => put (x.pc + immU w)
  | 0x6F => jump (x.pc + immJ w)
  | 0x67 => if f3 = 0 then jump ((a + immI w) &&& ~~~1#64) else illegal s h
  | 0x63 => match branchTaken f3 a b with
    | some t => setHart s h (if t then { x with pc := x.pc + immB w } else x.skip len)
    | none => illegal s h
  | 0x03 =>
    if f3 = 7 then illegal s h
    else hartAccess h .load (.x rd (2 ^ (f3 % 4)) (decide (f3 < 4)) len) (a + immI w) (2 ^ (f3 % 4)) 0 0 s
  | 0x23 => if 3 < f3 then illegal s h else hartAccess h .store (.x 0 8 false len) (a + immS w) (2 ^ f3) (b.setWidth 128) 0 s
  | 0x07 =>
    if (f3 = 2 ∨ f3 = 3) ∧ fsOn x = true then hartAccess h .load (.f rd (2 ^ f3) len) (a + immI w) (2 ^ f3) 0 0 s else illegal s h
  | 0x27 =>
    if (f3 = 2 ∨ f3 = 3) ∧ fsOn x = true then
      hartAccess h .store (.x 0 8 false len) (a + immS w) (2 ^ f3) (BitVec.ofNat 128 (fReg x (fieldOf w 20 5))) 0 s
    else illegal s h
  | 0x13 | 0x1B | 0x33 | 0x3B => match aluValue w a b with
    | some v => put v
    | none => illegal s h
  | 0x0F => if f3 ≤ 1 then setHart s h (x.skip len) else illegal s h
  | 0x2F => atomicInstr s h w len
  | 0x73 => systemInstr s h w len
  | 0x43 | 0x47 | 0x4B | 0x4F => fp (fpFma x w)
  | 0x53 => fp (fpOp x w)
  | 0x0B | 0x2B => s
  | _ => illegal s h

/-- A scalar instruction by its word: compressed where its low two bits are not both 1. -/
def hartScalar (h w : Nat) (s : State) : State :=
  if !hartReady s h then s
  else if w % 4 = 3 then scalarDo s h w 4
  else match expand (w % 65536) with
  | some u => scalarDo s h u 2
  | none => illegal s h

end Sys2Proof.Machine
end

