-- ==== Sys2Proof/Machine/HartMem.lean ====
section
/-! DEFINITION. The commands of a hart outside the short-vector extension (08 R236, 09 R279 to R282, 11 R360). -/

namespace Sys2Proof.Machine

/-- HART_MEMORY_ACCESS and HART_VAT_ACCESS: a hart's operation. Whether an access becomes a Vat request is what its page says (11 R360). -/
def hartAct (h : Nat) (op : HartOp) (addr : Word) (size : Nat) (data cmp : BitVec 128) (s : State) : State :=
  match op with
  | .scalar w => hartScalar h w.toNat s
  | _ => hartAccess h op .value addr size data cmp s

/-- HART_VAT_ACCESS. -/
def execHartVatAccess (h : Nat) (op : HartOp) (a : Word) (n : Nat) (d c : BitVec 128) (s : State) : Host.Outcome State Fault Refusal :=
  onUnit (isHart h) (hartAct h op a n d c s)
/-- HART_MEMORY_ACCESS. -/
def execHartMemoryAccess (h : Nat) (op : HartOp) (a : Word) (n : Nat) (d c : BitVec 128) (s : State) : Host.Outcome State Fault Refusal :=
  onUnit (isHart h) (hartAct h op a n d c s)

end Sys2Proof.Machine
end

