-- ==== Sys2Proof/Machine/Link.lean ====
section
/-! DEFINITION. Packets that arrive: of tree edges and launches by kind and phase, and those that the payload of a data flit completes (11 R349,
R367, 12 R426). -/

namespace Sys2Proof.Machine

/-- What the packet of a tree edge does, by KIND and PHASE; one of another KIND is discarded and counted (12 Table 8). -/
def mordantAct (k : Packet) (s : State) : State :=
  let m := mordantOf k
  match m.kind.toNat with
  | 0 | 1 | 2 | 3 => (match m.phase.toNat with
    | 0 => morPartial m s
    | 1 => morResultPkt m s
    | 2 => morFailPkt m s
    | _ => morNackPkt m s)
  | 8 => preparePkt m s
  | 9 => ackLaunch m s
  | 10 => reportPkt m s
  | 11 => noticePkt m s
  | 12 => commitPkt m s
  | 13 => abortPkt m s
  | 14 => teardownPkt m s
  | _ => { s with badKinds := s.badKinds + 1 }

/-- A request or tree-edge packet reaches this package (11 R367, 12 R406). -/
def requestIn (k : Packet) (s : State) : State := requestArrives mordantAct k s

/-- A Mordant packet of the kinds and phase that a command names arrives (12 R406, R426). -/
def mordantIn (named : MPacket → Bool) (k : MPacket) (s : State) : State := if named k then requestIn (mordantBytes k (nodeId s)) s else s

/-- The packet is one of an operation, in a phase. -/
def opPhase (ph : Nat) (k : MPacket) : Bool := decide (k.kind.toNat < 4) && k.phase.toNat == ph

/-- The packet is one of a launch kind. -/
def launchKind (kind : Nat) (k : MPacket) : Bool := k.kind.toNat == kind

/-- A packet that a data flit of port `p` brought: the link's own, one to forward, whose residence time is free, or one for this package (11 R349, R351, R353, R367,
R371; log entry 15). -/
def arrive (p : Nat) (k : Packet) (s : State) : State :=
  match k.ptype.toNat with
  | 9 => drainNotice p s
  | 10 => discovery p k.data s
  | n =>
    if k.dest.toNat ≠ nodeId s then
      let r := fresh s
      packetForward k (r.1.toNat % 65536) r.2
    else match n with
      | 0 | 1 | 2 | 8 => requestIn k s
      | 3 => readRespPkt k s
      | 4 => ackPkt k s
      | 5 => nackPkt k s
      | 6 => rejectPkt k s
      | 7 => resyncPkt k s
      | _ => s

/-- A data flit, and what the packets that it completes do (11 R349). -/
def flitArrives (p : Nat) (f : List Byte) (s : State) : State :=
  let r := flitData p f s
  collGo (replayDown (r.2.foldl (fun s k => arrive p k s) r.1))

/-! ### Meanings -/

/-- FLIT_DATA. -/
def execFlitData (p : Nat) (f : List Byte) (s : State) : Host.Outcome State Fault Refusal := onUnit (isPort p) (flitArrives p f s)
/-- PKT_READ. -/
def execPktRead (k : Packet) (s : State) : Host.Outcome State Fault Refusal := .next (collGo (pktOfType mordantAct 0 k s))
/-- PKT_WRITE. -/
def execPktWrite (k : Packet) (s : State) : Host.Outcome State Fault Refusal := .next (collGo (pktOfType mordantAct 1 k s))
/-- PKT_ATOMIC. -/
def execPktAtomic (k : Packet) (s : State) : Host.Outcome State Fault Refusal := .next (collGo (pktOfType mordantAct 2 k s))
/-- MORDANT_PARTIAL. -/
def execMordantPartial (k : MPacket) (s : State) : Host.Outcome State Fault Refusal := .next (collGo (mordantIn (opPhase 0) k s))
/-- MORDANT_RESULT. -/
def execMordantResult (k : MPacket) (s : State) : Host.Outcome State Fault Refusal := .next (collGo (mordantIn (opPhase 1) k s))
/-- MORDANT_FAIL. -/
def execMordantFail (k : MPacket) (s : State) : Host.Outcome State Fault Refusal := .next (collGo (mordantIn (opPhase 2) k s))
/-- MORDANT_NACK. -/
def execMordantNack (k : MPacket) (s : State) : Host.Outcome State Fault Refusal := .next (collGo (mordantIn (opPhase 3) k s))
/-- PREPARE. -/
def execPrepare (k : MPacket) (s : State) : Host.Outcome State Fault Refusal := .next (mordantIn (launchKind 8) k s)
/-- LAUNCH_ACK. -/
def execLaunchAck (k : MPacket) (s : State) : Host.Outcome State Fault Refusal := .next (mordantIn (launchKind 9) k s)
/-- REPORT. -/
def execReport (k : MPacket) (s : State) : Host.Outcome State Fault Refusal := .next (mordantIn (launchKind 10) k s)
/-- NOTICE. -/
def execNotice (k : MPacket) (s : State) : Host.Outcome State Fault Refusal := .next (mordantIn (launchKind 11) k s)
/-- COMMIT. -/
def execCommit (k : MPacket) (s : State) : Host.Outcome State Fault Refusal := .next (mordantIn (launchKind 12) k s)
/-- LAUNCH_ABORT. -/
def execLaunchAbort (k : MPacket) (s : State) : Host.Outcome State Fault Refusal := .next (mordantIn (launchKind 13) k s)
/-- TEARDOWN_PACKET. -/
def execTeardownPacket (k : MPacket) (s : State) : Host.Outcome State Fault Refusal := .next (mordantIn (launchKind 14) k s)

end Sys2Proof.Machine
end

