-- ==== Sys2Proof/Machine/Opt.lean ====
section
/-! DEFINITION. The optimiser: UPDATE, PACK and UNPACK (05 R157 to R165). -/

namespace Sys2Proof.Machine

/-- FAILED… of a skipped step (05 R158): STEP_OVERFLOW_SKIPPED. -/
def St.skipped : BitVec 16 := 0x0800

/-- An optimiser entry (05 Table 10). -/
structure OptEntry where
  w : Nat
  g : Nat
  m1 : Nat
  m2 : Nat
  wq : Nat
  n : Nat
  lambda : Nat
  slot : Nat
  fmt : Nat
  flags : Nat
  k1 : Nat
  k2 : Nat
  deriving DecidableEq, Repr

/-- An entry whose reserved bytes are 0 and whose fields are in range. -/
def OptEntry.ofBytes (b : List Byte) : Option OptEntry :=
  let e : OptEntry := ⟨leField b 0 8, leField b 8 8, leField b 16 8, leField b 24 8, leField b 32 8, leField b 40 4,
    leField b 44 4, leField b 48 2, leField b 50 1, leField b 51 1, leField b 56 2, leField b 58 2⟩
  if leField b 52 4 == 0 && leField b 60 4 == 0 && decide (e.flags < 4) && decide (1 ≤ e.n) && decide (e.fmt ≤ 4) then some e else none

/-- A parameter block (05 Table 11). -/
structure OptParams where
  alg : Nat
  lr : Nat
  b1 : Nat
  omb1 : Nat
  b2 : Nat
  omb2 : Nat
  eps : Nat
  wd : Nat
  c1 : Nat
  c2 : Nat
  gscale : Nat
  lmin : Nat
  lmax : Nat
  deriving DecidableEq, Repr

/-- A parameter block whose reserved bytes are 0 and whose ALG is defined. -/
def OptParams.ofBytes (b : List Byte) : Option OptParams :=
  let f := fun i => leField b i 4
  let p : OptParams := ⟨leField b 0 1, f 4, f 8, f 12, f 16, f 20, f 24, f 28, f 32, f 36, f 40, f 44, f 48⟩
  if leField b 1 3 == 0 && leField b 52 12 == 0 && decide (p.alg ≤ 1) then some p else none

/-- FP32 operations of R159, rounded once each. -/
def mul32 (a b : Nat) : Nat := (Fmt.fp32.mul a b).1
def add32 (a b : Nat) : Nat := (Fmt.fp32.add a b).1
def fma32 (a b c : Nat) : Nat := (Fmt.fp32.fma a b c).1
def div32 (a b : Nat) : Nat := (Fmt.fp32.div a b).1
def sqrt32 (a : Nat) : Nat := (Fmt.fp32.sqrt a).1

/-- New m1, m2 and u of an element (05 R159). -/
def optElement (p : OptParams) (noDecay : Bool) (w g0 m1o m2o : Nat) : Nat × Nat × Nat :=
  let g := mul32 g0 p.gscale
  let m1 := fma32 p.b1 m1o (mul32 p.omb1 g)
  let m2 := if p.alg = 0 then m2o else fma32 p.b2 m2o (mul32 p.omb2 (mul32 g g))
  let u0 := if p.alg = 0 then m1
    else div32 (mul32 m1 p.c1) (add32 (sqrt32 (mul32 m2 p.c2)) p.eps)
  (m1, m2, if noDecay then u0 else fma32 p.wd w u0)

/-- λ limited to LMIN and LMAX (05 R160). -/
def clamp32 (lo hi x : Nat) : Nat := (Fmt.fp32.minMax false (Fmt.fp32.minMax true x lo).1 hi).1

/-- The sum of squares of FP32 elements in FP64: each tile's elements in element order, the tiles in ascending rank (05 R160). -/
def trustSum (tiles : Nat) (l : List Nat) : Nat :=
  let add64 := fun a x => (Fmt.fp64.add a x).1
  let sq := fun x => (Fmt.fp64.mul (convertType 5 6 x).1 (convertType 5 6 x).1).1
  let part := fun t => ((List.range l.length).filter (fun i => Config.trustShare l.length tiles i % tiles == t)).foldl (fun a i => add64 a (sq (l.getD i 0))) 0
  (List.range tiles).foldl (fun a t => add64 a (part t)) 0

/-- round32(sqrt(Sw / Su)), the quotient and the root each rounded to FP64 first (05 R160; log entry 11, DEDUCED). -/
def trustRatio (tiles : Nat) (ws us : List Nat) : Nat :=
  (convertType 6 5 (Fmt.fp64.sqrt (Fmt.fp64.div (trustSum tiles ws) (trustSum tiles us)).1).1).1

/-- The die from which a descriptor's tiles reach memory: that of its lowest group (log entry 36). -/
def optDie (d : Desc) : Nat := (maskGroups (d.fld 20 21)).headD 0 / 21

/-- Read `n` FP32 elements at an address, from a die. -/
def readF32s (s : State) (p a n k : Nat) : Except MemErr (List Nat) :=
  match readVa s p a (4 * n) (some k) with
  | .error e => .error e
  | .ok b => .ok ((List.range n).map (fun i => leField b (4 * i) 4))

/-- The bytes of FP32 elements. -/
def f32Bytes (l : List Nat) : List Byte := l.flatMap (leBytes 4)

/-- Q of a slot in the table copy that the CLOSE of step `n` wrote (05 R152, R161). -/
def tableQ (s : State) (p n slot k : Nat) : Except MemErr Nat :=
  readNat s p (pfld s p Reg.scuTableBase 6 42 * 64 + ((n + 1) % 2) * 16 * pfld s p Reg.scuSlots 0 13 + 16 * slot) 4 (some k)

/-- UPDATE of one tensor (05 R159 to R161): the state, and the post for its WQ slot. -/
def updateTensor (s : State) (d : Desc) (n : Nat) (pr : OptParams) (e : OptEntry) : Except Fail (State × Option (Nat × Nat × Bool)) :=
  let p := d.part
  let k := optDie d
  let lift := fun {α : Type} (x : Except MemErr α) => (match x with | .error m => .error (memFail St.tileAddress m) | .ok v => .ok v : Except Fail α)
  match lift (readF32s s p e.w e.n k), lift (readF32s s p e.g e.n k), lift (readF32s s p e.m1 e.n k),
      (if pr.alg = 0 then .ok (List.replicate e.n 0) else lift (readF32s s p e.m2 e.n k)) with
  | .error x, _, _, _ => .error x
  | _, .error x, _, _ => .error x
  | _, _, .error x, _ => .error x
  | _, _, _, .error x => .error x
  | .ok ws, .ok gs, .ok m1s, .ok m2s =>
    let res := (List.range e.n).map (fun i => optElement pr (bitAt e.flags 1) (ws.getD i 0) (gs.getD i 0) (m1s.getD i 0) (m2s.getD i 0))
    let us := res.map (·.2.2)
    let lam := if bitAt e.flags 0 then clamp32 pr.lmin pr.lmax (trustRatio (maskTiles (d.fld 20 21)).length ws us) else e.lambda
    let step := mul32 pr.lr lam ^^^ 0x80000000
    let ws1 := (List.range e.n).map (fun i => fma32 step (us.getD i 0) (ws.getD i 0))
    let base := [(e.w, f32Bytes ws1), (e.m1, f32Bytes (res.map (·.1)))] ++
      (if pr.alg = 0 then [] else [(e.m2, f32Bytes (res.map (·.2.1)))])
    if e.wq = 0 then
      (match lift (writeAll s p base (some k)) with | .error x => .error x | .ok s1 => .ok (s1, none))
    else if pfld s p Reg.scuSlots 0 13 ≤ e.slot then .error (.of St.cmdInvalid)
    else match lift (tableQ s p n e.slot k) with
      | .error x => .error x
      | .ok q =>
        let qs := ws1.map (fun w => quantise e.fmt w q)
        let amax := ws1.foldl amaxOf 0
        let ovf := qs.any (fun r => r.2 &&& (Fl.iv + Fl.of + Fl.sat) != 0)
        match lift (writeAll s p (base ++ [(e.wq, qs.flatMap (fun r => leBytes (typeBytes e.fmt) r.1))]) (some k)) with
        | .error x => .error x
        | .ok s1 => .ok (s1, some (e.slot, amax, ovf))

/-- A significand scaled by a power of two and rounded to a format. -/
def scaleTo (f : Fmt) (v : Fv) (k : Int) : Nat :=
  match v with
  | .num n m e => (f.convert (.num n m (e + k))).1
  | w => (f.convert w).1

/-- k of a PACK: −floor(log2 amax), or 0 when amax is 0 or not finite (05 R164). -/
def packExp (amax : Nat) : Int :=
  match Fmt.fp32.decode amax with
  | .num _ m e => if m = 0 then 0 else -(e + bitLen m - 1)
  | _ => 0

/-- PACK of one moment tensor: its BF16 image, and k (05 R164). -/
def packTensor (ms : List Nat) : List Byte × Int :=
  let k := packExp (ms.foldl amaxOf 0)
  (ms.flatMap (fun m => leBytes 2 (scaleTo Fmt.bf16 (Fmt.fp32.decode m) k)), k)

/-- UNPACK of one moment tensor from its BF16 image (05 R165). -/
def unpackTensor (b : List Byte) (n k : Nat) : List Byte :=
  (List.range n).flatMap (fun i => leBytes 4 (scaleTo Fmt.fp32 (Fmt.bf16.decode (leField b (2 * i) 2)) (-(toSigned 16 k))))

/-- PACK of an entry (05 R163, R164). -/
def packEntry (s : State) (p k addr : Nat) (e : OptEntry) : Except MemErr State :=
  match readF32s s p e.m1 e.n k, readF32s s p e.m2 e.n k with
  | .error x, _ => .error x
  | _, .error x => .error x
  | .ok a, .ok b =>
    let (b1, k1) := packTensor a
    let (b2, k2) := packTensor b
    writeAll s p [(e.g, b1), (e.wq, b2), (addr + 56, leBytes 2 (ofSigned 16 k1) ++ leBytes 2 (ofSigned 16 k2))] (some k)

/-- UNPACK of an entry (05 R163, R165). -/
def unpackEntry (s : State) (p k : Nat) (e : OptEntry) : Except MemErr State :=
  match readVa s p e.g (2 * e.n) (some k), readVa s p e.wq (2 * e.n) (some k) with
  | .error x, _ => .error x
  | _, .error x => .error x
  | .ok a, .ok b => writeAll s p [(e.m1, unpackTensor a e.n e.k1), (e.m2, unpackTensor b e.n e.k2)] (some k)

/-- The address ranges that a descriptor's operation writes for the entry at `a`: of an UPDATE W, M1, M2 and WQ, of a PACK P1, P2, K1 and K2, of an
UNPACK M1 and M2 (05 R162, R163). -/
def optTargets (op a : Nat) (e : OptEntry) : List (Nat × Nat) :=
  match op with
  | 0 => [(e.w, 4 * e.n), (e.m1, 4 * e.n), (e.m2, 4 * e.n)] ++ (if e.wq = 0 then [] else [(e.wq, typeBytes e.fmt * e.n)])
  | 1 => [(e.g, 2 * e.n), (e.wq, 2 * e.n), (a + 56, 4)]
  | _ => [(e.m1, 4 * e.n), (e.m2, 4 * e.n)]

/-- What the entries of an optimiser descriptor gave: the state, the posts and the ranges written. -/
structure OptRun where
  s     : State
  posts : List (Nat × Nat × Bool)
  wrote : List (Nat × Nat)

/-- The entries of a descriptor in turn; a failure comes with the address ranges touched so far. -/
def optEntries (d : Desc) (f : State → Nat → OptEntry → Except Fail (State × Option (Nat × Nat × Bool))) :
    List Nat → OptRun → Except (Fail × List (Nat × Nat)) OptRun
  | [], x => .ok x
  | i :: rest, x =>
    let a := d.fld 58 6 + 64 * i
    match readVa x.s d.part a 64 (some (optDie d)) with
    | .error e => .error (memFail St.tileAddress e, x.wrote)
    | .ok b =>
      match OptEntry.ofBytes b with
      | none => .error (.of St.descInvalid, x.wrote)
      | some e =>
        let w := x.wrote ++ optTargets d.op a e
        match f x.s a e with
        | .error y => .error (y, w)
        | .ok (s1, q) => optEntries d f rest ⟨s1, x.posts ++ q.toList, w⟩

/-- Start of an optimiser descriptor: its groups are held, not fenced and idle (05 R157, 03 R79, R80). -/
def optStart (r : Nat) (seq : BitVec 32) (op : Nat) (s : State) (k : Desc → State) : State :=
  match startable s r seq 2 op with
  | none => s
  | some d =>
    let m := d.fld 20 21
    if m &&& groupMask s d.part != m then endDesc s r d St.tileNotOwned 0
    else if groupsFenced s m then endFenced s r d
    else if !(groupsIdle s m && firstReady s r seq (fun e => descGroups e &&& m != 0)) then s
    else k d

/-- The outcome of a descriptor's entries: a failure ends it, and what it touched holds free values; success leaves it running until its posts are
accepted (05 R162, R163). -/
def optFinish (r : Nat) (d : Desc) (s : State) : Except (Fail × List (Nat × Nat)) OptRun → State
  | .error (e, l) => endFail (scramble s (storeRanges s d.part l)) r d e 0
  | .ok x =>
    let posts := x.posts.map (fun q => Post.mk (optDie d) d.part r d.seq none q.1 q.2.1 q.2.2)
    startWork { x.s with posts := x.s.posts ++ posts } r d (.opt ⟨posts.length, St.ok, storeRanges s d.part x.wrote⟩)

/-- UPDATE (05 R158 to R162); of two closes of one step the later counts. -/
def optUpdate (r : Nat) (seq : BitVec 32) (s : State) : State :=
  optStart r seq 0 s (fun d =>
    let n := d.fld 44 8
    match (closedSteps s d.part).reverse.find? (fun x => x.1 == n) with
    | none => endDesc s r d St.scuStep 0
    | some (_, true) => startWork s r d (.opt ⟨0, St.skipped, []⟩)
    | some (_, false) =>
      match readVa s d.part (d.fld 52 6) 64 (some (optDie d)) with
      | .error e => endMem s r d St.tileAddress e 0
      | .ok b => match OptParams.ofBytes b with
        | none => endDesc s r d St.descInvalid 0
        | some pr => optFinish r d s (optEntries d (fun s _ e => updateTensor s d n pr e) (List.range (d.fld 42 2)) ⟨s, [], []⟩))

/-- PACK and UNPACK change only what they write (05 R163). -/
def optMove (pack : Bool) (r : Nat) (seq : BitVec 32) (s : State) : State :=
  optStart r seq (if pack then 1 else 2) s (fun d =>
    optFinish r d s (optEntries d (fun s a e =>
      match (if pack then packEntry s d.part (optDie d) a e else unpackEntry s d.part (optDie d) e) with
      | .error x => .error (memFail St.tileAddress x)
      | .ok s1 => .ok (s1, none)) (List.range (d.fld 42 2)) ⟨s, [], []⟩))

/-- OPTIMISER_DONE: the descriptor completes once its posts are accepted (05 R158, 04 R128). -/
def optDone (r : Nat) (seq : BitVec 32) (s : State) : State :=
  match runningDesc s r seq 2 with
  | none => s
  | some d =>
    match d.work with
    | .opt w => if w.posts = 0 then endDesc s r d w.final 0 else s
    | _ => s

/-- UPDATE. -/
def execUpdate (r : Nat) (seq : BitVec 32) (s : State) : Host.Outcome State Fault Refusal := onUnit (r < 4096) (optUpdate r seq s)
/-- PACK. -/
def execPack (r : Nat) (seq : BitVec 32) (s : State) : Host.Outcome State Fault Refusal := onUnit (r < 4096) (optMove true r seq s)
/-- UNPACK. -/
def execUnpack (r : Nat) (seq : BitVec 32) (s : State) : Host.Outcome State Fault Refusal := onUnit (r < 4096) (optMove false r seq s)
/-- OPTIMISER_DONE. -/
def execOptimiserDone (r : Nat) (seq : BitVec 32) (s : State) : Host.Outcome State Fault Refusal := onUnit (r < 4096) (optDone r seq s)

end Sys2Proof.Machine
end

