-- ==== Sys2Proof/Machine/Dispatch.lean ====
section
/-! DEFINITION. The dispatch of each command to its meaning. -/

namespace Sys2Proof.Machine

def exec (i : Instr) (s : State) : Host.Outcome State Fault Refusal :=
  match i with
  | .sqTail who ring v => Sys2Proof.Machine.execSqTail who ring v s
  | .cqHead who ring v => Sys2Proof.Machine.execCqHead who ring v s
  | .abortTo who ring v => Sys2Proof.Machine.execAbort who ring v s
  | .base who ring v => Sys2Proof.Machine.execBase who ring v s
  | .shadowSnoop ring tail head => Sys2Proof.Machine.execShadowSnoop ring tail head s
  | .shadowReread ring => Sys2Proof.Machine.execShadowReread ring s
  | .descReadIssue ring => Sys2Proof.Machine.execDescReadIssue ring s
  | .descFetch ring check => Sys2Proof.Machine.execDescFetch ring check s
  | .waitLimitExpiry ring seq => Sys2Proof.Machine.execWaitLimitExpiry ring seq s
  | .modUsExpiry ring => Sys2Proof.Machine.execModUsExpiry ring s
  | .ringEnable view ring v => Sys2Proof.Machine.execRingEnable view ring v s
  | .ringDisable view ring v => Sys2Proof.Machine.execRingDisable view ring v s
  | .hmwWrite part win word v => Sys2Proof.Machine.execHmwWrite part win word v s
  | .hostWindowAccess part write off len data => Sys2Proof.Machine.execHostWindowAccess part write off len data s
  | .pcieLinkUp slot width speed => Sys2Proof.Machine.execPcieLinkUp slot width speed s
  | .perstDeassert slot => Sys2Proof.Machine.execPerstDeassert slot s
  | .linkDown slot => Sys2Proof.Machine.execLinkDown slot s
  | .flr slot => Sys2Proof.Machine.execFlr slot s
  | .hotReset slot => Sys2Proof.Machine.execHotReset slot s
  | .d3hotEntry slot => Sys2Proof.Machine.execD3hotEntry slot s
  | .partitionReset view part v => Sys2Proof.Machine.execPartitionReset view part v s
  | .partitionResetEnd part => Sys2Proof.Machine.execPartitionResetEnd part s
  | .registerWrite who view off size v => Sys2Proof.Machine.execRegisterWrite who view off size v s
  | .detSignatureRead view part => Sys2Proof.Machine.execDetSignatureRead view part s
  | .nopDescriptor ring seq => Sys2Proof.Machine.execNopDescriptor ring seq s
  | .tileWork ring seq => Sys2Proof.Machine.execTileWork ring seq s
  | .nop tile => Sys2Proof.Machine.execNop tile s
  | .endCmd tile => Sys2Proof.Machine.execEnd tile s
  | .loop tile => Sys2Proof.Machine.execLoop tile s
  | .setbase tile => Sys2Proof.Machine.execSetbase tile s
  | .addbase tile => Sys2Proof.Machine.execAddbase tile s
  | .ldbase tile => Sys2Proof.Machine.execLdbase tile s
  | .bar tile => Sys2Proof.Machine.execBar tile s
  | .barRelease tile => Sys2Proof.Machine.execBarRelease tile s
  | .mmaH tile => Sys2Proof.Machine.execMmaH tile s
  | .mmaD tile => Sys2Proof.Machine.execMmaD tile s
  | .accld tile => Sys2Proof.Machine.execAccld tile s
  | .accst tile => Sys2Proof.Machine.execAccst tile s
  | .vec tile => Sys2Proof.Machine.execVec tile s
  | .dmaIn tile => Sys2Proof.Machine.execDmaIn tile s
  | .dmaOut tile => Sys2Proof.Machine.execDmaOut tile s
  | .tileQueueCmdComplete tile queue => Sys2Proof.Machine.execTileQueueCmdComplete tile queue s
  | .tileFailQuiesce ring seq => Sys2Proof.Machine.execTileFailQuiesce ring seq s
  | .tileGroupZeroed group => Sys2Proof.Machine.execTileGroupZeroed group s
  | .scuPost die => Sys2Proof.Machine.execScuPost die s
  | .scuReset ring seq => Sys2Proof.Machine.execScuReset ring seq s
  | .scuClose ring seq => Sys2Proof.Machine.execScuClose ring seq s
  | .scuSave ring seq => Sys2Proof.Machine.execScuSave ring seq s
  | .scuLoad ring seq => Sys2Proof.Machine.execScuLoad ring seq s
  | .update ring seq => Sys2Proof.Machine.execUpdate ring seq s
  | .pack ring seq => Sys2Proof.Machine.execPack ring seq s
  | .unpack ring seq => Sys2Proof.Machine.execUnpack ring seq s
  | .solve ring seq => Sys2Proof.Machine.execSolve ring seq s
  | .sieHaloArrival ring seq => Sys2Proof.Machine.execSieHaloArrival ring seq s
  | .sieReductionResult ring seq => Sys2Proof.Machine.execSieReductionResult ring seq s
  | .haloWaitExpiry ring seq => Sys2Proof.Machine.execHaloWaitExpiry ring seq s
  | .sieSwitchOut die => Sys2Proof.Machine.execSieSwitchOut die s
  | .sieReservationPeriod => Sys2Proof.Machine.execSieReservationPeriod s
  | .gather ring seq => Sys2Proof.Machine.execGather ring seq s
  | .scatter ring seq => Sys2Proof.Machine.execScatter ring seq s
  | .copy ring seq => Sys2Proof.Machine.execCopy ring seq s
  | .fill ring seq => Sys2Proof.Machine.execFill ring seq s
  | .dmaBurstDone engine check => Sys2Proof.Machine.execDmaBurstDone engine check s
  | .sepia ring seq => Sys2Proof.Machine.execSepia ring seq s
  | .hartVatAccess hart op addr size data cmp => Sys2Proof.Machine.execHartVatAccess hart op addr size data cmp s
  | .qadd hart f => Sys2Proof.Machine.execQadd hart f s
  | .qsub hart f => Sys2Proof.Machine.execQsub hart f s
  | .qmul hart f => Sys2Proof.Machine.execQmul hart f s
  | .qmulh hart f => Sys2Proof.Machine.execQmulh hart f s
  | .qmin hart f => Sys2Proof.Machine.execQmin hart f s
  | .qmax hart f => Sys2Proof.Machine.execQmax hart f s
  | .qminu hart f => Sys2Proof.Machine.execQminu hart f s
  | .qmaxu hart f => Sys2Proof.Machine.execQmaxu hart f s
  | .qand hart f => Sys2Proof.Machine.execQand hart f s
  | .qor hart f => Sys2Proof.Machine.execQor hart f s
  | .qxor hart f => Sys2Proof.Machine.execQxor hart f s
  | .qandn hart f => Sys2Proof.Machine.execQandn hart f s
  | .qsll hart f => Sys2Proof.Machine.execQsll hart f s
  | .qsrl hart f => Sys2Proof.Machine.execQsrl hart f s
  | .qsra hart f => Sys2Proof.Machine.execQsra hart f s
  | .qsaduW hart f => Sys2Proof.Machine.execQsaduW hart f s
  | .qsadsW hart f => Sys2Proof.Machine.execQsadsW hart f s
  | .qsaduX hart f => Sys2Proof.Machine.execQsaduX hart f s
  | .qsadsX hart f => Sys2Proof.Machine.execQsadsX hart f s
  | .qhadd hart f => Sys2Proof.Machine.execQhadd hart f s
  | .qfadd hart f => Sys2Proof.Machine.execQfadd hart f s
  | .qfsub hart f => Sys2Proof.Machine.execQfsub hart f s
  | .qfmul hart f => Sys2Proof.Machine.execQfmul hart f s
  | .qfma hart f => Sys2Proof.Machine.execQfma hart f s
  | .qfmin hart f => Sys2Proof.Machine.execQfmin hart f s
  | .qfmax hart f => Sys2Proof.Machine.execQfmax hart f s
  | .qfneg hart f => Sys2Proof.Machine.execQfneg hart f s
  | .qfdiv hart f => Sys2Proof.Machine.execQfdiv hart f s
  | .qfsqrt hart f => Sys2Proof.Machine.execQfsqrt hart f s
  | .qf2sum hart f => Sys2Proof.Machine.execQf2sum hart f s
  | .qf2prod hart f => Sys2Proof.Machine.execQf2prod hart f s
  | .qcmpeq hart f => Sys2Proof.Machine.execQcmpeq hart f s
  | .qcmplt hart f => Sys2Proof.Machine.execQcmplt hart f s
  | .qcmple hart f => Sys2Proof.Machine.execQcmple hart f s
  | .qfcmpeq hart f => Sys2Proof.Machine.execQfcmpeq hart f s
  | .qfcmplt hart f => Sys2Proof.Machine.execQfcmplt hart f s
  | .qfcmple hart f => Sys2Proof.Machine.execQfcmple hart f s
  | .qsel hart f => Sys2Proof.Machine.execQsel hart f s
  | .qins hart f => Sys2Proof.Machine.execQins hart f s
  | .qext hart f => Sys2Proof.Machine.execQext hart f s
  | .qcvt hart src f => Sys2Proof.Machine.execQcvt hart src f s
  | .qld hart f => Sys2Proof.Machine.execQld hart f s
  | .qst hart f => Sys2Proof.Machine.execQst hart f s
  | .qgather hart f => Sys2Proof.Machine.execQgather hart f s
  | .qscatter hart f => Sys2Proof.Machine.execQscatter hart f s
  | .pbankHandover view die v => Sys2Proof.Machine.execPbankHandover view die v s
  | .pbankDrainDone die bank => Sys2Proof.Machine.execPbankDrainDone die bank s
  | .pbankZeroDone die bank => Sys2Proof.Machine.execPbankZeroDone die bank s
  | .lakePerform die => Sys2Proof.Machine.execLakePerform die s
  | .patrolRead stack pc ecc => Sys2Proof.Machine.execPatrolRead stack pc ecc s
  | .hmcRepair view v => Sys2Proof.Machine.execHmcRepair view v s
  | .hmcRepairDone repaired => Sys2Proof.Machine.execHmcRepairDone repaired s
  | .readDeviceIdentity view v => Sys2Proof.Machine.execReadDeviceIdentity view v s
  | .readTemperature view v => Sys2Proof.Machine.execReadTemperature view v s
  | .readClearEccLog view v => Sys2Proof.Machine.execReadClearEccLog view v s
  | .readRepairResources view v => Sys2Proof.Machine.execReadRepairResources view v s
  | .memoryBist view v => Sys2Proof.Machine.execMemoryBist view v s
  | .testPortDone reading => Sys2Proof.Machine.execTestPortDone reading s
  | .clkTileTargetWrite view die v => Sys2Proof.Machine.execClkTileTargetWrite view die v s
  | .clkPcoreTargetWrite view die v => Sys2Proof.Machine.execClkPcoreTargetWrite view die v s
  | .pllSlewDone domain => Sys2Proof.Machine.execPllSlewDone domain s
  | .clockLoss domain => Sys2Proof.Machine.execClockLoss domain s
  | .pwrDomainRequest view v => Sys2Proof.Machine.execPwrDomainRequest view v s
  | .domainRampDone domain => Sys2Proof.Machine.execDomainRampDone domain s
  | .regulatorFault domain => Sys2Proof.Machine.execRegulatorFault domain s
  | .p0InternalCheck => Sys2Proof.Machine.execP0InternalCheck s
  | .vinApplied mv => Sys2Proof.Machine.execVinApplied mv s
  | .vinRemoved => Sys2Proof.Machine.execVinRemoved s
  | .porRelease => Sys2Proof.Machine.execPorRelease s
  | .smcVerifyDone => Sys2Proof.Machine.execSmcVerifyDone s
  | .glbReset view v => Sys2Proof.Machine.execGlbReset view v s
  | .supplyStageRaise mv1 mv2 droop => Sys2Proof.Machine.execSupplyStageRaise mv1 mv2 droop s
  | .supplyS4Enter mv => Sys2Proof.Machine.execSupplyS4Enter mv s
  | .supplyS5Enter => Sys2Proof.Machine.execSupplyS5Enter s
  | .supplyStageLower mv => Sys2Proof.Machine.execSupplyStageLower mv s
  | .supplyS4Recovery mv => Sys2Proof.Machine.execSupplyS4Recovery mv s
  | .thermalCapDown die temp => Sys2Proof.Machine.execThermalCapDown die temp s
  | .thermalCapUp die temp => Sys2Proof.Machine.execThermalCapUp die temp s
  | .thermalDuty die temp => Sys2Proof.Machine.execThermalDuty die temp s
  | .hbmTempRead stack temp => Sys2Proof.Machine.execHbmTempRead stack temp s
  | .powerLimitCheck watts hot => Sys2Proof.Machine.execPowerLimitCheck watts hot s
  | .thermalTrip stack temp => Sys2Proof.Machine.execThermalTrip stack temp s
  | .inputRawEdge input => Sys2Proof.Machine.execInputRawEdge input s
  | .throttleAssert => Sys2Proof.Machine.execThrottleAssert s
  | .faultInAssert => Sys2Proof.Machine.execFaultInAssert s
  | .tamperEvent land => Sys2Proof.Machine.execTamperEvent land s
  | .warmRstAssert => Sys2Proof.Machine.execWarmRstAssert s
  | .ppsEdge interval => Sys2Proof.Machine.execPpsEdge interval s
  | .ppsSilence => Sys2Proof.Machine.execPpsSilence s
  | .inputStuck input => Sys2Proof.Machine.execInputStuck input s
  | .tmbAdjust view v => Sys2Proof.Machine.execTmbAdjust view v s
  | .tmbAdjustDone => Sys2Proof.Machine.execTmbAdjustDone s
  | .tmbSet view v => Sys2Proof.Machine.execTmbSet view v s
  | .heartbeat => Sys2Proof.Machine.execHeartbeat s
  | .bypass => Sys2Proof.Machine.execBypass s
  | .idcode => Sys2Proof.Machine.execIdcode s
  | .samplePreload => Sys2Proof.Machine.execSamplePreload s
  | .extest => Sys2Proof.Machine.execExtest s
  | .clamp => Sys2Proof.Machine.execClamp s
  | .highz => Sys2Proof.Machine.execHighz s
  | .portAdminUp view port v => Sys2Proof.Machine.execPortAdminUp view port v s
  | .portAdminDown view port v => Sys2Proof.Machine.execPortAdminDown view port v s
  | .portTrained port => Sys2Proof.Machine.execPortTrained port s
  | .portTrainTimeout port => Sys2Proof.Machine.execPortTrainTimeout port s
  | .portTrainRetry port => Sys2Proof.Machine.execPortTrainRetry port s
  | .portAlignDone port => Sys2Proof.Machine.execPortAlignDone port s
  | .discovery port record => Sys2Proof.Machine.execDiscovery port record s
  | .miswiredRetry port => Sys2Proof.Machine.execMiswiredRetry port s
  | .linkLoss port => Sys2Proof.Machine.execLinkLoss port s
  | .drain port => Sys2Proof.Machine.execDrain port s
  | .portDrainDone port => Sys2Proof.Machine.execPortDrainDone port s
  | .flitData port flit => Sys2Proof.Machine.execFlitData port flit s
  | .flitReplayRequest port flit => Sys2Proof.Machine.execFlitReplayRequest port flit s
  | .flitCreditUpdate port flit => Sys2Proof.Machine.execFlitCreditUpdate port flit s
  | .laneWear port lane => Sys2Proof.Machine.execLaneWear port lane s
  | .laneSpareDone port => Sys2Proof.Machine.execLaneSpareDone port s
  | .vatRequestIssue fdie => Sys2Proof.Machine.execVatRequestIssue fdie s
  | .packetForward pkt residence => Sys2Proof.Machine.execPacketForward pkt residence s
  | .pktRead pkt => Sys2Proof.Machine.execPktRead pkt s
  | .pktWrite pkt => Sys2Proof.Machine.execPktWrite pkt s
  | .pktAtomic pkt => Sys2Proof.Machine.execPktAtomic pkt s
  | .readResp pkt => Sys2Proof.Machine.execReadResp pkt s
  | .ack pkt => Sys2Proof.Machine.execAck pkt s
  | .nack pkt => Sys2Proof.Machine.execNack pkt s
  | .reject pkt => Sys2Proof.Machine.execReject pkt s
  | .resync pkt => Sys2Proof.Machine.execResync pkt s
  | .nackBackoffExpiry pair => Sys2Proof.Machine.execNackBackoffExpiry pair s
  | .retransmitTimer pair seq => Sys2Proof.Machine.execRetransmitTimer pair seq s
  | .deadTargetTimeout pair seq => Sys2Proof.Machine.execDeadTargetTimeout pair seq s
  | .fence ring seq => Sys2Proof.Machine.execFence ring seq s
  | .netWrite ring seq => Sys2Proof.Machine.execNetWrite ring seq s
  | .netWriteImm ring seq => Sys2Proof.Machine.execNetWriteImm ring seq s
  | .netSend ring seq => Sys2Proof.Machine.execNetSend ring seq s
  | .netSendImm ring seq => Sys2Proof.Machine.execNetSendImm ring seq s
  | .netRead ring seq => Sys2Proof.Machine.execNetRead ring seq s
  | .netRecv ring seq => Sys2Proof.Machine.execNetRecv ring seq s
  | .netModify ring seq => Sys2Proof.Machine.execNetModify ring seq s
  | .roceFrameReceive part frame => Sys2Proof.Machine.execRoceFrameReceive part frame s
  | .qpRetryTimeout part qpn rnr => Sys2Proof.Machine.execQpRetryTimeout part qpn rnr s
  | .cnpReceive part qpn => Sys2Proof.Machine.execCnpReceive part qpn s
  | .rateRecoveryPeriod part qpn => Sys2Proof.Machine.execRateRecoveryPeriod part qpn s
  | .allreduce ring seq => Sys2Proof.Machine.execAllreduce ring seq s
  | .reduce ring seq => Sys2Proof.Machine.execReduce ring seq s
  | .broadcast ring seq => Sys2Proof.Machine.execBroadcast ring seq s
  | .barrier ring seq => Sys2Proof.Machine.execBarrier ring seq s
  | .bulkAllreduce ring seq => Sys2Proof.Machine.execBulkAllreduce ring seq s
  | .alltoallv ring seq => Sys2Proof.Machine.execAlltoallv ring seq s
  | .qpush ring seq => Sys2Proof.Machine.execQpush ring seq s
  | .qpop ring seq => Sys2Proof.Machine.execQpop ring seq s
  | .qrelease ring seq => Sys2Proof.Machine.execQrelease ring seq s
  | .queueTimeout ring seq => Sys2Proof.Machine.execQueueTimeout ring seq s
  | .mordantPartial pkt => Sys2Proof.Machine.execMordantPartial pkt s
  | .mordantResult pkt => Sys2Proof.Machine.execMordantResult pkt s
  | .mordantFail pkt => Sys2Proof.Machine.execMordantFail pkt s
  | .mordantNack pkt => Sys2Proof.Machine.execMordantNack pkt s
  | .mordantResend group opseq => Sys2Proof.Machine.execMordantResend group opseq s
  | .mordantChildTimeout group opseq child => Sys2Proof.Machine.execMordantChildTimeout group opseq child s
  | .mordantMemberTimeout group opseq => Sys2Proof.Machine.execMordantMemberTimeout group opseq s
  | .launch ring seq => Sys2Proof.Machine.execLaunch ring seq s
  | .teardown ring seq => Sys2Proof.Machine.execTeardown ring seq s
  | .prepare pkt => Sys2Proof.Machine.execPrepare pkt s
  | .launchPrepared job key => Sys2Proof.Machine.execLaunchPrepared job key s
  | .launchAck pkt => Sys2Proof.Machine.execLaunchAck pkt s
  | .report pkt => Sys2Proof.Machine.execReport pkt s
  | .notice pkt => Sys2Proof.Machine.execNotice pkt s
  | .commit pkt => Sys2Proof.Machine.execCommit pkt s
  | .launchAbort pkt => Sys2Proof.Machine.execLaunchAbort pkt s
  | .teardownPacket pkt => Sys2Proof.Machine.execTeardownPacket pkt s
  | .launchAckTimeout job key node => Sys2Proof.Machine.execLaunchAckTimeout job key node s
  | .launchReportTimeout job key node => Sys2Proof.Machine.execLaunchReportTimeout job key node s
  | .launchBusyRetry job key => Sys2Proof.Machine.execLaunchBusyRetry job key s
  | .launchBusyExpiry job key node => Sys2Proof.Machine.execLaunchBusyExpiry job key node s
  | .jobScrubDone entry => Sys2Proof.Machine.execJobScrubDone entry s
  | .jobEntryFree entry => Sys2Proof.Machine.execJobEntryFree entry s
  | .unitError e => Sys2Proof.Machine.execUnitError e s
  | .unitHandlingDone unitType unit => Sys2Proof.Machine.execUnitHandlingDone unitType unit s
  | .unitClear view v => Sys2Proof.Machine.execUnitClear view v s
  | .unitSelfTestDone pass => Sys2Proof.Machine.execUnitSelfTestDone pass s
  | .errorRingEnable view v => Sys2Proof.Machine.execErrorRingEnable view v s
  | .mergeWindowExpiry kind unitType unit => Sys2Proof.Machine.execMergeWindowExpiry kind unitType unit s
  | .partWear cls die index events => Sys2Proof.Machine.execPartWear cls die index events s
  | .spareInRequest view v => Sys2Proof.Machine.execSpareInRequest view v s
  | .tileSpareIn tile badBanks => Sys2Proof.Machine.execTileSpareIn tile badBanks s
  | .tileSpareDone tile => Sys2Proof.Machine.execTileSpareDone tile s
  | .coreSpareIn hart => Sys2Proof.Machine.execCoreSpareIn hart s
  | .lakeWaySpareIn die array => Sys2Proof.Machine.execLakeWaySpareIn die array s
  | .lakeWayCopyDone die array => Sys2Proof.Machine.execLakeWayCopyDone die array s
  | .swatchLoad view v => Sys2Proof.Machine.execSwatchLoad view v s
  | .swatchLoadDone pkg => Sys2Proof.Machine.execSwatchLoadDone pkg s
  | .swatchPatternRun group pattern => Sys2Proof.Machine.execSwatchPatternRun group pattern s
  | .swatchPatternDone group tile digest => Sys2Proof.Machine.execSwatchPatternDone group tile digest s
  | .swatchPreempt group => Sys2Proof.Machine.execSwatchPreempt group s
  | .snap ring seq => Sys2Proof.Machine.execSnap ring seq s
  | .restore ring seq => Sys2Proof.Machine.execRestore ring seq s
  | .digest ring seq => Sys2Proof.Machine.execDigest ring seq s
  | .sign ring seq => Sys2Proof.Machine.execSign ring seq s
  | .snapWriteStall part va data => Sys2Proof.Machine.execSnapWriteStall part va data s
  | .snapStallResume part => Sys2Proof.Machine.execSnapStallResume part s
  | .proof ring seq => Sys2Proof.Machine.execProof ring seq s
  | .proofReady ring seq => Sys2Proof.Machine.execProofReady ring seq s
  | .proofTimeout ring seq => Sys2Proof.Machine.execProofTimeout ring seq s
  | .prtCommit view v => Sys2Proof.Machine.execPrtCommit view v s
  | .commitDrainDone => Sys2Proof.Machine.execCommitDrainDone s
  | .commitReleaseDone => Sys2Proof.Machine.execCommitReleaseDone s
  | .confirm view v => Sys2Proof.Machine.execConfirm view v s
  | .lcArm view v => Sys2Proof.Machine.execLcArm view v s
  | .lcGo view v => Sys2Proof.Machine.execLcGo view v s
  | .lcArmExpiry => Sys2Proof.Machine.execLcArmExpiry s
  | .getVersion via => Sys2Proof.Machine.execGetVersion via s
  | .getCapabilities via => Sys2Proof.Machine.execGetCapabilities via s
  | .negotiateAlgorithms via p384 sha384 => Sys2Proof.Machine.execNegotiateAlgorithms via p384 sha384 s
  | .getDigests via => Sys2Proof.Machine.execGetDigests via s
  | .getCertificate via slot off len => Sys2Proof.Machine.execGetCertificate via slot off len s
  | .challenge via slot nonce => Sys2Proof.Machine.execChallenge via slot nonce s
  | .getMeasurements via index nonce => Sys2Proof.Machine.execGetMeasurements via index nonce s
  | .mctpControl via cmd => Sys2Proof.Machine.execMctpControl via cmd s
  | .mgmtFirmwareUpdate via img => Sys2Proof.Machine.execMgmtFirmwareUpdate via img s
  | .mgmtLifeCycleRequest via target => Sys2Proof.Machine.execMgmtLifeCycleRequest via target s
  | .mgmtLogRead via first count => Sys2Proof.Machine.execMgmtLogRead via first count s
  | .porAssert => Sys2Proof.Machine.execPorAssert s
  | .inputDeassert input => Sys2Proof.Machine.execInputDeassert input s
  | .fxeRowDone ring seq die => Sys2Proof.Machine.execFxeRowDone ring seq die s
  | .scuDescriptorDone ring seq => Sys2Proof.Machine.execScuDescriptorDone ring seq s
  | .optimiserDone ring seq => Sys2Proof.Machine.execOptimiserDone ring seq s
  | .signDone ring seq => Sys2Proof.Machine.execSignDone ring seq s
  | .memoryInitDone domain => Sys2Proof.Machine.execMemoryInitDone domain s
  | .hartMemoryAccess hart op addr size data cmp => Sys2Proof.Machine.execHartMemoryAccess hart op addr size data cmp s

end Sys2Proof.Machine
end

