-- ==== Sys2Proof/Safety.lean ====
section
/-! DEFINITION. The terms in which statements speak of the machine: units that exist, the canonical form of memory, a byte of the
store, an open doorbell, a command that a tile dispatches, and the registers of a hart. -/

namespace Sys2Proof.Machine

/-- The units, rings, ports, tiles, harts and indices that a command names exist in the package (02 R28 to R31, 03 R57, 08 R232,
10 R302, R314, 11 R341, 12 R398; the widths of the command's own fields bound the rest). -/
def unitsExist : Instr → Bool
  | .sqTail who ring _ => isRing ring && isParty who
  | .cqHead who ring _ => isRing ring && isParty who
  | .abortTo who ring _ => isRing ring && isParty who
  | .base who ring _ => isRing ring && isParty who
  | .shadowSnoop ring _ _ => isRing ring
  | .shadowReread ring => isRing ring
  | .descReadIssue ring => isRing ring
  | .descFetch ring _ => isRing ring
  | .waitLimitExpiry ring _ => isRing ring
  | .modUsExpiry ring => isRing ring
  | .ringEnable view ring _ => isRing ring && decide (view ≤ 8)
  | .ringDisable view ring _ => isRing ring && decide (view ≤ 8)
  | .hmwWrite part win word _ => part < 8 && win < 16 && word < 2
  | .hostWindowAccess part _ _ _ _ => part < 8
  | .pcieLinkUp slot _ _ => slot < 8
  | .perstDeassert slot => slot < 8
  | .linkDown slot => slot < 8
  | .flr slot => slot < 8
  | .hotReset slot => decide (slot < 8)
  | .d3hotEntry slot => slot < 8
  | .partitionReset _ part _ => part < 8
  | .partitionResetEnd part => part < 8
  | .registerWrite _ view _ _ _ => view ≤ 8 || (decide (16 ≤ view) && decide (view < 24))
  | .detSignatureRead _ part => part < 8
  | .nopDescriptor ring _ => isRing ring
  | .tileWork ring _ => ring < 4096
  | .nop tile => isTile tile
  | .endCmd tile => isTile tile
  | .loop tile => isTile tile
  | .setbase tile => isTile tile
  | .addbase tile => isTile tile
  | .ldbase tile => isTile tile
  | .bar tile => isTile tile
  | .barRelease tile => isTile tile
  | .mmaH tile => isTile tile
  | .mmaD tile => isTile tile
  | .accld tile => isTile tile
  | .accst tile => isTile tile
  | .vec tile => isTile tile
  | .dmaIn tile => isTile tile
  | .dmaOut tile => isTile tile
  | .tileQueueCmdComplete tile _ => isTile tile
  | .tileFailQuiesce ring _ => ring < 4096
  | .tileGroupZeroed group => group < 168
  | .scuPost die => die < 8
  | .scuReset ring _ => ring < 4096
  | .scuClose ring _ => ring < 4096
  | .scuSave ring _ => ring < 4096
  | .scuLoad ring _ => ring < 4096
  | .update ring _ => ring < 4096
  | .pack ring _ => ring < 4096
  | .unpack ring _ => ring < 4096
  | .solve ring _ => ring < 4096
  | .sieHaloArrival ring _ => ring < 4096
  | .sieReductionResult ring _ => ring < 4096
  | .haloWaitExpiry ring _ => ring < 4096
  | .sieSwitchOut die => die < 8
  | .sieReservationPeriod => true
  | .gather ring _ => ring < 4096
  | .scatter ring _ => ring < 4096
  | .copy ring _ => ring < 4096
  | .fill ring _ => ring < 4096
  | .dmaBurstDone engine _ => engine < 8
  | .sepia ring _ => ring < 4096
  | .hartVatAccess hart _ _ _ _ _ => isHart hart
  | .qadd hart _ => isHart hart
  | .qsub hart _ => isHart hart
  | .qmul hart _ => isHart hart
  | .qmulh hart _ => isHart hart
  | .qmin hart _ => isHart hart
  | .qmax hart _ => isHart hart
  | .qminu hart _ => isHart hart
  | .qmaxu hart _ => isHart hart
  | .qand hart _ => isHart hart
  | .qor hart _ => isHart hart
  | .qxor hart _ => isHart hart
  | .qandn hart _ => isHart hart
  | .qsll hart _ => isHart hart
  | .qsrl hart _ => isHart hart
  | .qsra hart _ => isHart hart
  | .qsaduW hart _ => isHart hart
  | .qsadsW hart _ => isHart hart
  | .qsaduX hart _ => isHart hart
  | .qsadsX hart _ => isHart hart
  | .qhadd hart _ => isHart hart
  | .qfadd hart _ => isHart hart
  | .qfsub hart _ => isHart hart
  | .qfmul hart _ => isHart hart
  | .qfma hart _ => isHart hart
  | .qfmin hart _ => isHart hart
  | .qfmax hart _ => isHart hart
  | .qfneg hart _ => isHart hart
  | .qfdiv hart _ => isHart hart
  | .qfsqrt hart _ => isHart hart
  | .qf2sum hart _ => isHart hart
  | .qf2prod hart _ => isHart hart
  | .qcmpeq hart _ => isHart hart
  | .qcmplt hart _ => isHart hart
  | .qcmple hart _ => isHart hart
  | .qfcmpeq hart _ => isHart hart
  | .qfcmplt hart _ => isHart hart
  | .qfcmple hart _ => isHart hart
  | .qsel hart _ => isHart hart
  | .qins hart _ => isHart hart
  | .qext hart _ => isHart hart
  | .qcvt hart _ _ => isHart hart
  | .qld hart _ => isHart hart
  | .qst hart _ => isHart hart
  | .qgather hart _ => isHart hart
  | .qscatter hart _ => isHart hart
  | .pbankHandover _ die _ => die < 2
  | .pbankDrainDone die bank => die < 2 && bank < 64
  | .pbankZeroDone die bank => die < 2 && bank < 64
  | .lakePerform die => die < 8
  | .patrolRead stack pc _ => stack < 16 && pc < 32
  | .hmcRepair _ _ => true
  | .hmcRepairDone _ => true
  | .readDeviceIdentity _ _ => true
  | .readTemperature _ _ => true
  | .readClearEccLog _ _ => true
  | .readRepairResources _ _ => true
  | .memoryBist _ _ => true
  | .testPortDone _ => true
  | .clkTileTargetWrite _ die _ => die < 8
  | .clkPcoreTargetWrite _ die _ => die < 2
  | .pllSlewDone domain => domain < 25
  | .clockLoss domain => domain < 25
  | .pwrDomainRequest _ _ => true
  | .domainRampDone domain => domain < 30
  | .regulatorFault domain => domain < 30
  | .p0InternalCheck => true
  | .vinApplied _ => true
  | .vinRemoved => true
  | .porRelease => true
  | .smcVerifyDone => true
  | .glbReset _ _ => true
  | .supplyStageRaise _ _ _ => true
  | .supplyS4Enter _ => true
  | .supplyS5Enter => true
  | .supplyStageLower _ => true
  | .supplyS4Recovery _ => true
  | .thermalCapDown die _ => die < 12
  | .thermalCapUp die _ => die < 12
  | .thermalDuty die _ => die < 12
  | .hbmTempRead stack _ => stack < 16
  | .powerLimitCheck _ _ => true
  | .thermalTrip _ _ => true
  | .inputRawEdge input => input < 5
  | .throttleAssert => true
  | .faultInAssert => true
  | .tamperEvent _ => true
  | .warmRstAssert => true
  | .ppsEdge _ => true
  | .ppsSilence => true
  | .inputStuck input => input < 5
  | .tmbAdjust view _ => view ≤ 8
  | .tmbAdjustDone => true
  | .tmbSet view _ => view ≤ 8
  | .heartbeat => true
  | .bypass => true
  | .idcode => true
  | .samplePreload => true
  | .extest => true
  | .clamp => true
  | .highz => true
  | .portAdminUp _ port _ => isPort port
  | .portAdminDown _ port _ => isPort port
  | .portTrained port => isPort port
  | .portTrainTimeout port => isPort port
  | .portTrainRetry port => isPort port
  | .portAlignDone port => isPort port
  | .discovery port _ => isPort port
  | .miswiredRetry port => isPort port
  | .linkLoss port => isPort port
  | .drain port => isPort port
  | .portDrainDone port => isPort port
  | .flitData port _ => isPort port
  | .flitReplayRequest port _ => isPort port
  | .flitCreditUpdate port _ => isPort port
  | .laneWear port lane => isPort port && lane < 8
  | .laneSpareDone port => isPort port
  | .vatRequestIssue fdie => isFdie fdie
  | .packetForward _ _ => true
  | .pktRead _ => true
  | .pktWrite _ => true
  | .pktAtomic _ => true
  | .readResp _ => true
  | .ack _ => true
  | .nack _ => true
  | .reject _ => true
  | .resync _ => true
  | .nackBackoffExpiry pair => isPair pair
  | .retransmitTimer pair _ => isPair pair
  | .deadTargetTimeout pair _ => isPair pair
  | .fence ring _ => ring < 4096
  | .netWrite ring _ => ring < 4096
  | .netWriteImm ring _ => ring < 4096
  | .netSend ring _ => ring < 4096
  | .netSendImm ring _ => ring < 4096
  | .netRead ring _ => ring < 4096
  | .netRecv ring _ => ring < 4096
  | .netModify ring _ => ring < 4096
  | .roceFrameReceive part _ => part < 8
  | .qpRetryTimeout part qpn _ => isQp part qpn
  | .cnpReceive part qpn => isQp part qpn
  | .rateRecoveryPeriod part qpn => isQp part qpn
  | .allreduce ring _ => ring < 4096
  | .reduce ring _ => ring < 4096
  | .broadcast ring _ => ring < 4096
  | .barrier ring _ => ring < 4096
  | .bulkAllreduce ring _ => ring < 4096
  | .alltoallv ring _ => ring < 4096
  | .qpush ring _ => ring < 4096
  | .qpop ring _ => ring < 4096
  | .qrelease ring _ => ring < 4096
  | .queueTimeout ring _ => ring < 4096
  | .mordantPartial _ => true
  | .mordantResult _ => true
  | .mordantFail _ => true
  | .mordantNack _ => true
  | .mordantResend group _ => group < 256
  | .mordantChildTimeout group _ _ => group < 256
  | .mordantMemberTimeout group _ => group < 256
  | .launch ring _ => ring < 4096
  | .teardown ring _ => ring < 4096
  | .prepare _ => true
  | .launchPrepared _ _ => true
  | .launchAck _ => true
  | .report _ => true
  | .notice _ => true
  | .commit _ => true
  | .launchAbort _ => true
  | .teardownPacket _ => true
  | .launchAckTimeout _ _ _ => true
  | .launchReportTimeout _ _ _ => true
  | .launchBusyRetry _ _ => true
  | .launchBusyExpiry _ _ _ => true
  | .jobScrubDone entry => entry < 64
  | .jobEntryFree entry => entry < 64
  | .unitError e => e.unitType = 0 || unitIndex e.unit < unitCount e.unitType
  | .unitHandlingDone unitType unit => unit < unitCount unitType
  | .unitClear _ _ => true
  | .unitSelfTestDone _ => true
  | .errorRingEnable view _ => view ≤ 8
  | .mergeWindowExpiry _ _ _ => true
  | .partWear cls die _ _ => 1 ≤ cls && cls ≤ 5 && die < 8
  | .spareInRequest _ _ => true
  | .tileSpareIn tile _ => tile < 1344
  | .tileSpareDone tile => tile < 1344
  | .coreSpareIn hart => hart < 96
  | .lakeWaySpareIn die array => die < 8 && array < 256
  | .lakeWayCopyDone die array => die < 8 && array < 256
  | .swatchLoad _ _ => true
  | .swatchLoadDone _ => true
  | .swatchPatternRun group _ => group < 168
  | .swatchPatternDone group _ _ => group < 168
  | .swatchPreempt group => group < 168
  | .snap ring _ => ring < 4096
  | .restore ring _ => ring < 4096
  | .digest ring _ => ring < 4096
  | .sign ring _ => ring < 4096
  | .snapWriteStall part _ _ => part < 8
  | .snapStallResume part => part < 8
  | .proof ring _ => ring < 4096
  | .proofReady ring _ => ring < 4096
  | .proofTimeout ring _ => ring < 4096
  | .prtCommit _ _ => true
  | .commitDrainDone => true
  | .commitReleaseDone => true
  | .confirm view _ => view ≤ 8
  | .lcArm view _ => view ≤ 8
  | .lcGo view _ => view ≤ 8
  | .lcArmExpiry => true
  | .getVersion _ => true
  | .getCapabilities _ => true
  | .negotiateAlgorithms _ _ _ => true
  | .getDigests _ => true
  | .getCertificate _ _ _ _ => true
  | .challenge _ _ _ => true
  | .getMeasurements _ _ _ => true
  | .mctpControl _ _ => true
  | .mgmtFirmwareUpdate _ _ => true
  | .mgmtLifeCycleRequest _ _ => true
  | .mgmtLogRead _ _ _ => true
  | .porAssert => true
  | .inputDeassert input => input < 5
  | .fxeRowDone ring _ die => ring < 4096 && die < 8
  | .scuDescriptorDone ring _ => ring < 4096
  | .optimiserDone ring _ => ring < 4096
  | .signDone ring _ => ring < 4096
  | .memoryInitDone domain => domain < 30
  | .hartMemoryAccess hart _ _ _ _ _ => isHart hart

/-- Memory is in its canonical form: keys rise strictly and no listed byte is 0, the value of an unlisted byte. -/
def Memory.wf (m : Sparse Byte) : Bool := swf (fun _ => 0#8) m

/-- One byte of the store. -/
def byteAt (s : State) (key : Nat) : Byte := sget (fun _ => 0#8) s.mem key

/-- The bytes of the store that a write through a translation covers: those of each piece of the range, at the place the translation
gives the piece. -/
def writtenBy (tr : Nat → Option Nat) (a n key : Nat) : Bool :=
  (sectorsOf a n).any (fun x => match tr x.1 with
    | some k => decide (k ≤ key) && decide (key < k + x.2)
    | none => false)

/-- Writing an error record touches nothing but the error rings (their bookkeeping, registers, merge windows and records in memory), the
flash log, and the raised vectors with their pending bits (14 R454 to R461, 10 R333). -/
def OnlyReports (s t : State) : Prop :=
  t = { s with
    errRings := t.errRings, windows := t.windows, flashLog := t.flashLog, msix := t.msix, slots := t.slots, regs := t.regs, mem := t.mem, bad := t.bad, poison := t.poison
    resvs := t.resvs }

/-- A store touches nothing but bytes, marks of bad sectors and of bytes that cannot be read, and reservations. -/
def OnlyBytes (s t : State) : Prop := t = { s with mem := t.mem, bad := t.bad, poison := t.poison, resvs := t.resvs }

/-- A write of a doorbell register of ring `r` reaches the ring: the ring lies in partition `p`, the party acts for that partition, the
partition is READY, and neither an obituary nor the supply ended the ring's work (10 R305, R308, R318, R338, R563). -/
def DoorbellOpen (s : State) (who : Party) (r p : Nat) : Prop :=
  isRing r = true ∧ isParty who = true ∧ ringPart s r = some p ∧
    (who = .host p ∨ ∃ h, who = .hart h ∧ hartPart s h = some p ∧ hartOwner h = false) ∧
    partReady s p = true ∧ (ringOf s r).obituary = false ∧ alive s = true ∧ stage s < 4

/-- Only hart `h` changes: every byte of memory and everything else is as before. -/
def OnlyHart (s t : State) (h : Nat) : Prop :=
  t = { s with harts := t.harts } ∧ (∀ k, k ≠ h → hartOf t k = hartOf s k) ∧ ∀ key, byteAt t key = byteAt s key

/-- A hart's short-vector extension executes: the hart exists, may act, and XS is on for its mode (08 R242). -/
def QuadReady (s : State) (h : Nat) : Prop := isHart h = true ∧ hartReady s h = true ∧ xsOn (hartOf s h) = true

/-- Element width of a command of format QA. -/
def laneWidth (f : QA) : Nat := 8 * 2 ^ f.esz.toNat

/-- Element `i` of width `w` of a short-vector register (08 R241). -/
def lane (x : Hart) (w r i : Nat) : Nat := fieldOf (qReg x r) (i * w) w

/-- The operation gives each element of qd from the same element of its sources (08 Table 2). -/
def laneWise (op : QOp) : Bool :=
  !([QOp.saduW, .sadsW, .saduX, .sadsX, .hadd, .twoSum, .twoProd, .sel, .ins, .ext].contains op)

/-- The result of a lane-wise operation on one element, before it is cut to the element's width. -/
def laneResult (op : QOp) (w a b d : Nat) : Nat := if isFp op then (fpElem op w a b d).1 else intElem op w a b

/-- What a short-vector write leaves alone: of the hart, everything but the register `qd`, fflags, QSTAT, XS (which becomes Dirty) and the pc; the bits of qd above
the form are clear (08 R241, R242). -/
def QuadWrote (x y : Hart) (qd bits : Nat) : Prop :=
  y = { x with
    q := y.q, fcsr := y.fcsr, qstat := y.qstat, csr := x.dirty.csr, pc := x.pc + 4 } ∧
  (∀ r, r ≠ qd → qReg y r = qReg x r) ∧ qReg y qd < 2 ^ bits

/-- The hart enters the mode that takes the exception `cause`: the pc, the cause and the value are saved in that mode's registers, the pc is at its vector, and
the general, floating-point and short-vector registers are as before (08 R250; the registers by log entry 8). -/
def Took (x y : Hart) (cause : Nat) (tval : Word) : Prop :=
  y = { x with mode := x.trapMode cause, pc := y.pc, csr := y.csr } ∧ match x.trapMode cause with
  | .hs => y.pc = x.vector Csr.stvec ∧ y.csrw Csr.sepc = x.pc.toNat ∧ y.csrw Csr.scause = cause ∧ y.csrw Csr.stval = tval.toNat
  | .vs => y.pc = x.vector Csr.vstvec ∧ y.csrw Csr.vsepc = x.pc.toNat ∧ y.csrw Csr.vscause = cause ∧ y.csrw Csr.vstval = tval.toNat
  | _ => y.pc = x.vector Csr.mtvec ∧ y.csrw Csr.mepc = x.pc.toNat ∧ y.csrw Csr.mcause = cause ∧ y.csrw Csr.mtval = tval.toNat

/-- The next command of tile `t` is `b` and may dispatch: the tile runs descriptor `d` of ring `r`, its stream goes on, no barrier, failure or abort holds it, the
command is fetched, which gives the tile `y`, and the waits of its header are met (03 R86, R87, R94, R98). -/
def Dispatches (s : State) (t r : Nat) (d : Desc) (y : Tile) (b : List Byte) : Prop :=
  isTile t = true ∧ (tileOf s t).running = some (r, d.seq) ∧ findDesc s r d.seq = some d ∧ (tileOf s t).ended = false ∧
    (tileOf s t).stopped = false ∧ (tileOf s t).bar = none ∧ d.abort = false ∧
    (tileOf s t).fetch s t d = (y, .inr b) ∧ waitsOk (tileOf s t) b = true ∧ tileOpcodes.contains (fieldOf (leField b 0 4) 0 8) = true

/-- The opcode of a tile command. -/
def tileOp (b : List Byte) : Nat := fieldOf (leField b 0 4) 0 8

/-- There is a next command within the stream. -/
def Tile.more (x : Tile) (d : Desc) : Prop := x.onward.pos < tileCmds d

end Sys2Proof.Machine
end

