-- ==== Sys2Proof/Certificates/Slice0/Obligations.lean ====
section
/-! DEFINITION. The statements for the provers. Each docstring names the rules of spec/ it speaks of. -/

open Sys2Proof Sys2Proof.Machine

/-! ### The queue, reset and the units -/

/-- A step on a queue that is not empty is `exec` of the command at its front on the state with the queue's rest. -/
def Obligations.StepRunsFrontCommand : Prop :=
  ∀ (c : Instr) (rest : List Instr) (s : State), s.pending = c :: rest → core.step s = exec c { s with pending := rest }

/-- MODEL'S CHOICE (log entry 1): on an empty queue one REFCLK period of 10 ns passes. It counts one period, and it changes nothing but
the timebase, the clocks that slew and the regulator controller's S4 count (02 R38, 16 R532, R533). -/
def Obligations.IdleStepPassesOnePeriod : Prop :=
  ∀ s : State, s.pending = [] → ∃ t, core.step s = .next t ∧ t.tick = s.tick + 1 ∧
    t = { s with tick := t.tick, s4count := t.s4count, tmbFrac := t.tmbFrac, adjFrac := t.adjFrac, regs := t.regs, pll := t.pll }

/-- The package right after reset: XS Off and q0 to q31 zero on every hart (08 R242), every ring disabled with its counters 0 (10 R316),
every slot in PERST with its link down (10 R302), no partition VALID and none READY (15 R487), every set-up register at its Reset
column (17 R550), the queue empty and nothing in memory. The scalar registers and the values of boot are the model's (log entries 1, 5, 8). -/
def Obligations.ResetState : Prop :=
  let z := core.reset
  (∀ h, (hartOf z h).xs = 0 ∧ ∀ r, qReg (hartOf z h) r = 0) ∧
  (∀ r, (ringOf z r).enabled = false ∧ (ringOf z r).tail = 0 ∧ (ringOf z r).fetch = 0 ∧ (ringOf z r).comp = 0 ∧
    (ringOf z r).cqh = 0 ∧ (ringOf z r).base = 0) ∧
  (∀ sl, (slotOf z sl).perst = true ∧ (slotOf z sl).up = false) ∧
  (∀ p, partValid z p = false ∧ (p < 8 → partReady z p = false)) ∧
  (∀ k, reg z k = (regReset k).toNat) ∧ z.pending = [] ∧ ∀ k, byteAt z k = 0#8

/-- A command that names only units the package has answers a next state, and one that names another unit stops with `noSuchUnit`, by
which the model refuses nothing else. -/
def Obligations.CommandsStopOnlyOnMissingUnits : Prop :=
  ∀ (c : Instr) (s : State), (unitsExist c = true → ∃ t, exec c s = .next t) ∧ (unitsExist c = false → exec c s = .fault .noSuchUnit)

/-- Right after reset memory is in its canonical form, and every store through a translation keeps that form. -/
def Obligations.StoresKeepMemoryCanonical : Prop :=
  Memory.wf core.reset.mem = true ∧
  (∀ (s t : State) (tr : Nat → Option Nat) (a : Nat) (bs : List Byte) (src : Option Nat), Memory.wf s.mem = true → writeVia s tr a bs src = .ok t →
    Memory.wf t.mem = true) ∧
  (∀ (s : State) (k : Nat) (bs : List Byte), Memory.wf s.mem = true → Memory.wf (putBytes s k bs).mem = true) ∧
  ∀ (s : State) (lo hi : Nat), Memory.wf s.mem = true → Memory.wf (zeroRange s lo hi).mem = true

/-! ### Short-vector words -/

/-- Every short-vector command with legal fields has one 32-bit word, and that word decodes to the command (08 R254, Table 5). -/
def Obligations.QuadWordDecodesToItsCommand : Prop :=
  ∀ i : Instr, quadLegal i = true → ∃ w : BitVec 32, encodeQuad i = some w.toNat ∧ decodeQuad (quadHart i) w = some i

/-- A word that decodes to a short-vector command is that command's own word: no bit of it is dropped, so no other word means the same, and
the command's fields are legal (08 R254, R255). -/
def Obligations.QuadCommandHasOneWord : Prop :=
  ∀ (h : Nat) (w : BitVec 32) (i : Instr), decodeQuad h w = some i → encodeQuad i = some w.toNat ∧ quadHart i = h ∧ quadLegal i = true

/-- Words written bit by bit from Table 5 of chapter 08 decode to the commands they stand for, and words with an undefined FUNCT pair, an ESZ
out of range, a set unused field or an element that does not exist decode to none. -/
def Obligations.QuadWordsDecodeRight : Prop :=
  -- QADD q3, q1, q2 in Q form on 32-bit elements
  decodeQuad 5 0b0000_10_1_00010_00001_000_00011_0001011#32 = some (.qadd 5 ⟨3, 1, 2, true, 2⟩) ∧
  -- QSADU.X q4, q5, q6 in D form on 8-bit elements
  decodeQuad 5 0b0010_00_0_00110_00101_001_00100_0001011#32 = some (.qsaduX 5 ⟨4, 5, 6, false, 0⟩) ∧
  -- QF2PROD q31, q30, q29
  decodeQuad 5 0b1010_11_1_11101_11110_010_11111_0001011#32 = some (.qf2prod 5 ⟨31, 30, 29, true, 3⟩) ∧
  -- QSEL q1, q2, q3 in D form
  decodeQuad 5 0b0000_00_0_00011_00010_100_00001_0001011#32 = some (.qsel 5 ⟨1, 2, 3, false, 0⟩) ∧
  -- QCVT q7, q8 from FP32 (5) to BF16 (0) in Q form
  decodeQuad 5 0b0101_00_1_00000_01000_110_00111_0001011#32 = some (.qcvt 5 5 ⟨7, 8, 0, true, 0⟩) ∧
  -- QLD q9 from x10 with OFFSET -1 in Q form
  decodeQuad 5 0b1111_00_1_11111_01010_000_01001_0101011#32 = some (.qld 5 ⟨9, 10, 31, true, 0, 15⟩) ∧
  -- QGATHER q2 from x11 with 16-bit elements and 32-bit indices in q4 and q5
  decodeQuad 5 0b0010_01_1_00100_01011_010_00010_0101011#32 = some (.qgather 5 ⟨2, 11, 4, true, 1, 2⟩) ∧
  decodeQuad 5 0b0101_10_1_00010_00001_001_00011_0001011#32 = none ∧
  decodeQuad 5 0b0000_01_1_00010_00001_010_00011_0001011#32 = none ∧
  decodeQuad 5 0b0000_01_0_00011_00010_100_00001_0001011#32 = none ∧
  decodeQuad 5 0b0001_11_1_00010_00001_101_00011_0001011#32 = none

/-! ### Short-vector commands -/

/-- A lane-wise short-vector command that executes writes each element of qd from the same element of its sources, accrues the elements'
exceptions in fflags and leaves everything else alone (08 R241, R242, Table 2). -/
def Obligations.QuadLaneCommands : Prop :=
  ∀ (s : State) (h : Nat) (f : QA) (op : QOp), QuadReady s h → QA.legal op f = true → laneWise op = true →
    ∃ t, exec (qaInstr h f op) s = .next t ∧ OnlyHart s t h ∧
      QuadWrote (hartOf s h) (hartOf t h) f.qd.toNat (formBits f.q) ∧
      (∀ i, i < formBits f.q / laneWidth f →
        lane (hartOf t h) (laneWidth f) f.qd.toNat i =
          laneResult op (laneWidth f) (lane (hartOf s h) (laneWidth f) f.qs1.toNat i) (lane (hartOf s h) (laneWidth f) f.qs2.toNat i)
            (lane (hartOf s h) (laneWidth f) f.qd.toNat i) % 2 ^ laneWidth f) ∧
      (hartOf t h).qstat = (hartOf s h).qstat ∧ (isFp op = false → (hartOf t h).fcsr = (hartOf s h).fcsr) ∧
      (isFp op = true → (hartOf t h).fcsr = (accrue (hartOf s h) ((List.range (formBits f.q / laneWidth f)).foldl (fun fl i =>
        fl ||| (fpElem op (laneWidth f) (lane (hartOf s h) (laneWidth f) f.qs1.toNat i)
          (lane (hartOf s h) (laneWidth f) f.qs2.toNat i) (lane (hartOf s h) (laneWidth f) f.qd.toNat i)).2) 0)).fcsr)

/-- QSADU and QSADS: each lane of qd gains the exact absolute differences of the input elements within its bits, modulo the lane, and no
flag is raised (08 R243). -/
def Obligations.QuadAbsoluteDifferences : Prop :=
  ∀ (s : State) (h : Nat) (f : QA) (signed wide : Bool), QuadReady s h → f.esz.toNat ≤ 1 →
    let w := laneWidth f
    let lw := if wide then 64 else 32
    let c : Instr := match signed, wide with
      | false, false => .qsaduW h f
      | true, false => .qsadsW h f
      | false, true => .qsaduX h f
      | true, true => .qsadsX h f
    let x := hartOf s h
    let diff : Nat → Nat := fun i =>
      if signed then (toSigned w (lane x w f.qs1.toNat i) - toSigned w (lane x w f.qs2.toNat i)).natAbs
      else ((lane x w f.qs1.toNat i : Int) - (lane x w f.qs2.toNat i : Int)).natAbs
    ∃ t, exec c s = .next t ∧ OnlyHart s t h ∧ QuadWrote x (hartOf t h) f.qd.toNat (formBits f.q) ∧
      (∀ l, l < formBits f.q / lw →
        lane (hartOf t h) lw f.qd.toNat l =
          (lane x lw f.qd.toNat l + ((List.range (lw / w)).map (fun i => diff (l * (lw / w) + i))).sum) % 2 ^ lw) ∧
      (hartOf t h).fcsr = x.fcsr ∧ (hartOf t h).qstat = x.qstat

/-- QSEL chooses each bit of the form from qs1 where qd's bit is 1 and from qs2 where it is 0; QF2SUM and QF2PROD write the rounded result to
element 0 and its error to element 1 (08 R245, Table 2). -/
def Obligations.QuadSelectAndPairs : Prop :=
  ∀ (s : State) (h : Nat) (f : QA), QuadReady s h →
    let x := hartOf s h
    (f.esz = 0 → ∃ t, exec (.qsel h f) s = .next t ∧ OnlyHart s t h ∧ QuadWrote x (hartOf t h) f.qd.toNat (formBits f.q) ∧
      (hartOf t h).fcsr = x.fcsr ∧ (hartOf t h).qstat = x.qstat ∧
      ∀ i, i < formBits f.q → (qReg (hartOf t h) f.qd.toNat).testBit i =
        if (qReg x f.qd.toNat).testBit i then (qReg x f.qs1.toNat).testBit i else (qReg x f.qs2.toNat).testBit i) ∧
    (f.esz = 3 → f.q = true → ∀ prod : Bool,
      let r := pairOp prod (lane x 64 f.qs1.toNat 0) (lane x 64 f.qs2.toNat 0)
      ∃ t, exec (if prod then .qf2prod h f else .qf2sum h f) s = .next t ∧ OnlyHart s t h ∧
        QuadWrote x (hartOf t h) f.qd.toNat 128 ∧ lane (hartOf t h) 64 f.qd.toNat 0 = r.1 % 2 ^ 64 ∧
        lane (hartOf t h) 64 f.qd.toNat 1 = r.2.1 % 2 ^ 64 ∧ (hartOf t h).fcsr = (accrue x r.2.2).fcsr ∧ (hartOf t h).qstat = x.qstat)

/-- QHADD leaves the sum of qs1's elements, modulo the element, in element 0 of qd; the rest of the form is a free value (log entry 19).
QINS writes element E from x[rs1] and keeps the form's other elements; QEXT writes x[rd] from element E, sign-extended, or nothing to x0
(08 Table 2, R255). -/
def Obligations.QuadSumInsertExtract : Prop :=
  ∀ (s : State) (h : Nat) (f : QA), QuadReady s h →
    let x := hartOf s h
    let w := laneWidth f
    let n := formBits f.q / w
    (QA.legal .hadd f = true → ∃ t, exec (.qhadd h f) s = .next t ∧ t = { s with harts := t.harts, freeCount := t.freeCount } ∧
      (∀ k, k ≠ h → hartOf t k = hartOf s k) ∧ QuadWrote x (hartOf t h) f.qd.toNat (formBits f.q) ∧
      lane (hartOf t h) w f.qd.toNat 0 = ((List.range n).map (lane x w f.qs1.toNat)).sum % 2 ^ w ∧ (hartOf t h).fcsr = x.fcsr) ∧
    (f.qs2.toNat < n → ∃ t, exec (.qins h f) s = .next t ∧ OnlyHart s t h ∧
      QuadWrote x (hartOf t h) f.qd.toNat (formBits f.q) ∧
      (∀ i, i < n → lane (hartOf t h) w f.qd.toNat i =
        if i = f.qs2.toNat then (xReg x f.qs1.toNat).toNat % 2 ^ w else lane x w f.qd.toNat i) ∧ (hartOf t h).fcsr = x.fcsr) ∧
    (f.qs2.toNat < n → ∃ t, exec (.qext h f) s = .next t ∧ OnlyHart s t h ∧
      hartOf t h = { x with x := (hartOf t h).x, pc := x.pc + 4 } ∧
      ∀ r, xReg (hartOf t h) r = if r = f.qd.toNat ∧ r ≠ 0 then BitVec.ofInt 64 (toSigned w (lane x w f.qs1.toNat f.qs2.toNat)) else xReg x r)

/-- QCVT converts the low n elements of qs1, packs the results from bit 0 of qd and clears qd's other bits; a saturating conversion sets
SATCVT and accrues NX (08 R246). -/
def Obligations.QuadConvert : Prop :=
  ∀ (s : State) (h : Nat) (src : BitVec 4) (f : QA), QuadReady s h → QA.cvtLegal src f = true →
    let x := hartOf s h
    let sw := 8 * qTypeBytes src.toNat
    let dw := 8 * qTypeBytes f.qs2.toNat
    let n := formBits f.q / max sw dw
    let r := fun i => convertType src.toNat f.qs2.toNat (lane x sw f.qs1.toNat i)
    let fl := (List.range n).foldl (fun fl i => fl ||| (r i).2) 0
    ∃ t, exec (.qcvt h src f) s = .next t ∧ OnlyHart s t h ∧ QuadWrote x (hartOf t h) f.qd.toNat (n * dw) ∧
      (∀ i, i < n → lane (hartOf t h) dw f.qd.toNat i = (r i).1 % 2 ^ dw) ∧
      (hartOf t h).qstat = (if bitAt fl 5 then x.qstat ||| 1 else x.qstat) ∧
      (hartOf t h).fcsr = (accrue x (if bitAt fl 5 then fl ||| Fl.nx else fl)).fcsr

/-- A short-vector command raises an illegal-instruction exception, cause 2, while XS is Off or when its fields are illegal: the hart takes it with its pc saved, and
no register that the command names changes (08 R242, R254; the trap's registers and its value register, a free value, by log entry 8). -/
def Obligations.QuadIllegalTraps : Prop :=
  ∀ (s : State) (i : Instr), (encodeQuad i).isSome = true → isHart (quadHart i) = true → hartReady s (quadHart i) = true →
    (xsOn (hartOf s (quadHart i)) = false ∨ quadLegal i = false) →
    ∃ t tval, exec i s = .next t ∧ t = { s with harts := t.harts, freeCount := t.freeCount } ∧
      (∀ k, k ≠ quadHart i → hartOf t k = hartOf s k) ∧ Took (hartOf s (quadHart i)) (hartOf t (quadHart i)) 2 tval

/-! ### Short-vector and scalar memory accesses of the harts -/

/-- QLD fills qd with the bytes at its address and QST stores qd's form there; a QGATHER fills each element from its own address, and a
QSCATTER writes each element to its own address, a higher element over a lower one. A load changes the hart alone. A store changes
bytes of its own range alone, and the pc (08 R247, R248, R251, R255, Table 4). -/
def Obligations.QuadMemoryCommands : Prop :=
  ∀ (s : State) (h : Nat) (f : QM), QuadReady s h →
    let x := hartOf s h
    let n := formBits f.q / 8
    let m := 2 ^ f.esz.toNat
    let from_ := some (hartDie h)
    (∀ bs, QM.lineLegal f = true → readVia s (hartKey s h .r) (lineAddr x f) n from_ = .ok bs →
      ∃ t, exec (.qld h f) s = .next t ∧ OnlyHart s t h ∧ QuadWrote x (hartOf t h) f.qd.toNat (formBits f.q) ∧
        qReg (hartOf t h) f.qd.toNat = leNat bs ∧ (hartOf t h).fcsr = x.fcsr) ∧
    (∀ u, QM.lineLegal f = true → writeVia s (hartKey s h .w) (lineAddr x f) (leBytes n (qReg x f.qd.toNat)) from_ = .ok u →
      ∃ t, exec (.qst h f) s = .next t ∧ t = setHart u h { x with pc := x.pc + 4 } ∧ OnlyBytes s u ∧
        (∀ key, writtenBy (hartKey s h .w) (lineAddr x f) n key = false → byteAt t key = byteAt s key) ∧
        (∀ k, hartKey s h .w (lineAddr x f) = some k → lineAddr x f % 32 + n ≤ 32 →
          ∀ i, i < n → byteAt t (k + i) = BitVec.ofNat 8 (qReg x f.qd.toNat / 256 ^ i))) ∧
    (∀ v : Nat → List Byte, QM.gatherLegal f = true →
      (∀ i, i < QM.count f → readVia s (gatherKey s h .r) ((elemAddrs x f).getD i 0) m from_ = .ok (v i)) →
      ∃ t, exec (.qgather h f) s = .next t ∧ OnlyHart s t h ∧ QuadWrote x (hartOf t h) f.qd.toNat (formBits f.q) ∧
        (∀ i, i < QM.count f → lane (hartOf t h) (8 * m) f.qd.toNat i = leNat (v i)) ∧ (hartOf t h).fcsr = x.fcsr) ∧
    (QM.groupLegal f = true → (∀ a, a ∈ elemAddrs x f → writeError s (gatherKey s h .w) from_ (sectorsOf a m) = none) →
      ∃ t, exec (.qscatter h f) s = .next t ∧
        t = setHart ((List.range (QM.count f)).foldl (fun u i =>
          putPieces (gatherKey s h .w) (sectorsOf ((elemAddrs x f).getD i 0) m) (leBytes m (lane x (8 * m) f.qd.toNat i)) u) s) h
            { x with pc := x.pc + 4 } ∧
        ∀ key, (elemAddrs x f).all (fun a => !writtenBy (gatherKey s h .w) a m key) = true → byteAt t key = byteAt s key)

/-- A hart's load returns the bytes at its address and changes nothing but the value returned; a store changes the bytes of its range
alone; an AMO returns the old value and writes the new one; LR takes a reservation on the line, SC stores and returns 0 with it and
returns 1 without it (08 R236, 09 R279 to R282). Every byte outside the range stored to keeps its value. At a register view or a doorbell page an operation
reaches the register and no memory, and a CSR read returns the register and changes nothing else of the hart (10 R563, 17 R545, 08 R242). A scalar instruction of the integer or
floating-point operations writes its register and goes on, a branch goes where its operands say, and a load from memory extends its value into the register
(08 R236, R238; the instructions by log entry 8). -/
def Obligations.HartMemoryCommands : Prop :=
  ∀ (s : State) (h : Nat) (addr : Word) (size : Nat) (data cmp : BitVec 128), isHart h = true → hartReady s h = true →
    [1, 2, 4, 8, 16].contains size = true →
    let a := addr.toNat
    let v := data.toNat % 2 ^ (8 * size)
    let from_ := some (hartDie h)
    (∀ bs, readVia s (hartKey s h .r) a size from_ = .ok bs →
      ∃ t, exec (.hartMemoryAccess h .load addr size data cmp) s = .next t ∧ OnlyHart s t h ∧
        hartOf t h = { hartOf s h with reply := BitVec.ofNat 128 (leNat bs) }) ∧
    (∀ u, writeVia s (hartKey s h .w) a (leBytes size v) from_ = .ok u →
      exec (.hartMemoryAccess h .store addr size data cmp) s = .next u ∧ OnlyBytes s u ∧
        (∀ key, writtenBy (hartKey s h .w) a size key = false → byteAt u key = byteAt s key) ∧
        (∀ k, hartKey s h .w a = some k → a % 32 + size ≤ 32 → ∀ i, i < size → byteAt u (k + i) = BitVec.ofNat 8 (v / 256 ^ i))) ∧
    (∀ code k w, lineKey s h size a .a = some k → isHbm k = true → wayOff s from_ k = false →
      coreAmo code size (leNat (getBytes s k size)) v (cmp.toNat % 2 ^ (8 * size)) = some w →
      ∃ t, exec (.hartMemoryAccess h (.amo code) addr size data cmp) s = .next t ∧
        t = { s with mem := t.mem, poison := t.poison, resvs := t.resvs, harts := t.harts } ∧
        hartOf t h = { hartOf s h with reply := BitVec.ofNat 128 (leNat (getBytes s k size)) } ∧
        ∀ key, byteAt t key = if k ≤ key ∧ key < k + size then BitVec.ofNat 8 (w / 256 ^ (key - k)) else byteAt s key) ∧
    (∀ k, lineKey s h size a .r = some k → wayOff s from_ k = false →
      ∃ t, exec (.hartMemoryAccess h .lr addr size data cmp) s = .next t ∧ t = { s with resvs := t.resvs, harts := t.harts } ∧
        t.resvs.contains (h, k / 64) = true ∧ (∀ g, g ≠ h → ∀ l, t.resvs.contains (g, l) = s.resvs.contains (g, l)) ∧
        hartOf t h = { hartOf s h with reply := BitVec.ofNat 128 (leNat (getBytes s k size)) }) ∧
    (∀ k, lineKey s h size a .w = some k → wayOff s from_ k = false →
      ∃ t, exec (.hartMemoryAccess h .sc addr size data cmp) s = .next t ∧
        t = { s with mem := t.mem, poison := t.poison, resvs := t.resvs, harts := t.harts } ∧ (∀ l, t.resvs.contains (h, l) = false) ∧
        hartOf t h = { hartOf s h with reply := if s.resvs.contains (h, k / 64) then 0 else 1 } ∧
        ∀ key, byteAt t key = if s.resvs.contains (h, k / 64) = true ∧ k ≤ key ∧ key < k + size then BitVec.ofNat 8 (v / 256 ^ (key - k))
          else byteAt s key) ∧
    (∀ op z, (op = .load ∨ op = .store ∨ op = .lr ∨ op = .sc ∨ ∃ code, op = .amo code) → deviceAddr s h (opAcc op) a = some z →
      exec (.hartMemoryAccess h op addr size data cmp) s = .next (deviceDo s h op .value a z size v)) ∧
    (∀ num w, let x := hartOf s h
      x.csrRefused num false = none → x.csrRead h (x.csrNo num) = some w →
      exec (.hartMemoryAccess h (.csr num .read) addr size data cmp) s = .next (setHart s h { x with reply := BitVec.ofNat 128 w })) ∧
    ∀ (u : BitVec 32), let x := hartOf s h
      let w := u.toNat
      let ra := xReg x (fieldOf w 15 5)
      let rb := xReg x (fieldOf w 20 5)
      let goes : Hart → State := fun y => setHart s h { y with pc := y.pc + 4 }
      let code := fieldOf w 0 7
      (∀ y, (code = 0x13 ∨ code = 0x1B ∨ code = 0x33 ∨ code = 0x3B) → aluValue w ra rb = some y →
        exec (.hartMemoryAccess h (.scalar u) addr size data cmp) s = .next (goes (setX x (fieldOf w 7 5) y))) ∧
      (∀ y, fsOn x = true → (code = 0x53 ∧ fpOp x w = some y ∨ (code = 0x43 ∨ code = 0x47 ∨ code = 0x4B ∨ code = 0x4F) ∧ fpFma x w = some y) →
        exec (.hartMemoryAccess h (.scalar u) addr size data cmp) s = .next (goes y)) ∧
      (∀ b, code = 0x63 → branchTaken (fieldOf w 12 3) ra rb = some b →
        exec (.hartMemoryAccess h (.scalar u) addr size data cmp) s =
          .next (setHart s h { x with pc := x.pc + if b then immB w else 4 })) ∧
      ∀ bs, let n := 2 ^ (fieldOf w 12 3 % 4)
        code = 3 → fieldOf w 12 3 ≠ 7 → deviceAddr s h .r (ra + immI w).toNat = none →
        readVia s (hartKey s h .r) (ra + immI w).toNat n from_ = .ok bs →
        exec (.hartMemoryAccess h (.scalar u) addr size data cmp) s =
          .next (goes (setX x (fieldOf w 7 5)
            (if fieldOf w 12 3 < 4 then BitVec.ofInt 64 (toSigned (8 * n) (leNat bs % 2 ^ (8 * n))) else BitVec.ofNat 64 (leNat bs))))

/-- An access of a hart that fails traps with nothing read into a register and nothing written to memory: a gather or scatter on the address
of its lowest faulting element, another access on its first failing address. The trap saves the pc, the cause and the address in the registers of the mode that
takes it (08 R249 to R251, R258; the trap's registers by log entry 8). -/
def Obligations.HartAccessFaults : Prop :=
  ∀ (s : State) (h : Nat), isHart h = true → hartReady s h = true →
    let x := hartOf s h
    let from_ := some (hartDie h)
    (∀ (addr : Word) (size : Nat) (data cmp : BitVec 128) (e : MemErr) (y : Nat × Nat), [1, 2, 4, 8, 16].contains size = true →
      let a := addr.toNat
      (deviceAddr s h .r a = none → readVia s (hartKey s h .r) a size from_ = .error e →
        (localParts s h .r a size).find? (fun y => !(readOnes s h (hartKey s h .r) y.1 y.2).isOk) = some y →
        let b := failingAt s (hartKey s h .r) .r y.1 y.2
        exec (.hartMemoryAccess h .load addr size data cmp) s = .next (accessFault s h .r b b)) ∧
      (deviceAddr s h .w a = none → writeVia s (hartKey s h .w) a (leBytes size (data.toNat % 2 ^ (8 * size))) from_ = .error e →
        (localParts s h .w a size).find? (fun y => writeFails s h (hartKey s h .w) y.1 y.2) = some y →
        let b := failingAt s (hartKey s h .w) .w y.1 y.2
        exec (.hartMemoryAccess h .store addr size data cmp) s = .next (accessFault s h .w b b))) ∧
    (∀ (f : QM) (a : Nat), xsOn x = true →
      let m := 2 ^ f.esz.toNat
      (QM.gatherLegal f = true → (elemAddrs x f).find? (fun b => !(readOnes s h (gatherKey s h .r) b m).isOk) = some a →
        exec (.qgather h f) s = .next (accessFault s h .r a (failingAt s (gatherKey s h .r) .r a m))) ∧
      (QM.groupLegal f = true → (elemAddrs x f).find? (fun b => writeFails s h (gatherKey s h .w) b m) = some a →
        exec (.qscatter h f) s = .next (accessFault s h .w a (failingAt s (gatherKey s h .w) .w a m)))) ∧
    ∀ acc va b, let t := accessFault s h acc va b
      Took x (hartOf t h) (faultCause s h acc b).1 (BitVec.ofNat 64 va) ∧ (bankRefused s h acc b = false → OnlyHart s t h)

/-- A hart's access within a Vat page becomes a request of the hart's F-die queue: a load or AMO then waits for its answer and a store does not;
an LR or SC there raises an access fault. With the F-die's domain off a load answers all ones and a store is dropped, each with a record (11 R360, 02 R51). -/
def Obligations.HartVatCommands : Prop :=
  ∀ (s : State) (h : Nat) (addr : Word) (size : Nat) (data cmp : BitVec 128) (p node off : Nat) (prio : Bool), isHart h = true →
    hartReady s h = true → [1, 2, 4, 8, 16].contains size = true → hartPart s h = some p → addr.toNat % 4096 + size ≤ 4096 →
    let a := addr.toNat
    let v := data.toNat % 2 ^ (8 * size)
    let ask : Nat → List Byte → State := fun op d => { s with vatQueue := s.vatQueue ++ [⟨p, .hart h a 0, h / 48, node, off, prio, op, size, d⟩] }
    let wait : State → State := fun u => setHart u h { hartOf s h with waiting := some ⟨.value, 1, a, List.replicate size 0#8⟩ }
    (hartXlate s h .r a = some (.vat node off prio) →
      (fdieOpen s h = true → exec (.hartVatAccess h .load addr size data cmp) s = .next (wait (ask 0 []))) ∧
      (fdieOpen s h = false → exec (.hartVatAccess h .load addr size data cmp) s =
        .next (hartReturns (offRecord s a) h (leNat (List.replicate size 0xFF#8)))) ∧
      exec (.hartVatAccess h .lr addr size data cmp) s = .next (accessFault s h .r a a) ∧ faultCause s h .r a = (5, 0)) ∧
    (hartXlate s h .w a = some (.vat node off prio) →
      (fdieOpen s h = true → exec (.hartVatAccess h .store addr size data cmp) s = .next (ask 1 (leBytes size v))) ∧
      (fdieOpen s h = false → exec (.hartVatAccess h .store addr size data cmp) s = .next (offRecord s a)) ∧
      exec (.hartVatAccess h .sc addr size data cmp) s = .next (accessFault s h .w a a) ∧ faultCause s h .w a = (7, 0)) ∧
    ∀ code, 2 ≤ code → code ≤ 15 → a % size = 0 → fdieOpen s h = true → hartXlate s h .a a = some (.vat node off prio) →
      exec (.hartVatAccess h (.amo code) addr size data cmp) s =
        .next (wait (ask code (leBytes size v ++ if code = 11 then leBytes size (cmp.toNat % 2 ^ (8 * size)) else [])))

/-! ### Rings and doorbells -/

/-- A write of SQ_TAIL is accepted, after which every wait is judged again, only if it does not move TAIL backward and leaves TAIL - FETCH at most ENTRIES, and one of CQ_HEAD only
if the new CQH lies between the old CQH and COMP. A refused write changes nothing: it sets DB_ERR and writes an error record (10 R318). -/
def Obligations.DoorbellAcceptance : Prop :=
  ∀ (s : State) (who : Party) (r p : Nat) (v : BitVec 32), DoorbellOpen s who r p → (ringOf s r).enabled = true →
    let g := ringOf s r
    let refused : State → Prop := fun t => OnlyReports (setRing s r { g with dbErr := true }) t ∧
      ∃ e : ErrEvent, e.kind = 0x05 ∧ e.part = some p ∧ e.ring = r ∧ t = (errEmit (setRing s r { g with dbErr := true }) e).1
    (∃ t, exec (.sqTail who r v) s = .next t ∧
      if (g.tail - g.fetch).toNat ≤ (v - g.fetch).toNat ∧ (v - g.fetch).toNat ≤ ringEntries s r then t = settleAll (setRing s r { g with tail := v })
      else refused t) ∧
    ∃ t, exec (.cqHead who r v) s = .next t ∧
      if (v - g.cqh).toNat ≤ (g.comp - g.cqh).toNat then t = ringPoll (setRing s r { g with cqh := v, armed := true }) r p
      else refused t

/-- Whoever writes SQ_TAIL and whatever the value, a ring whose TAIL - FETCH is at most ENTRIES keeps it so, and the write moves no FETCH, CQH or BASE and no other
ring's TAIL, though waits that it decides may complete descriptors (10 R318, 01 R19). -/
def Obligations.TailWriteKeepsRingWindow : Prop :=
  ∀ (s t : State) (who : Party) (r : Nat) (v : BitVec 32), exec (.sqTail who r v) s = .next t →
    ((ringOf s r).tail - (ringOf s r).fetch).toNat ≤ ringEntries s r →
    ((ringOf t r).tail - (ringOf t r).fetch).toNat ≤ ringEntries s r ∧
      ∀ q, (ringOf t q).fetch = (ringOf s q).fetch ∧ (ringOf t q).cqh = (ringOf s q).cqh ∧ (ringOf t q).base = (ringOf s q).base ∧
        (q ≠ r → (ringOf t q).tail = (ringOf s q).tail)

/-- A doorbell write from a party that does not act for the ring's partition is ignored and recorded: no ring, hart, tile or slot changes
(10 R308, R563). -/
def Obligations.ForeignDoorbellIgnored : Prop :=
  ∀ (s t : State) (who : Party) (r : Nat) (v : BitVec 32),
    (match who with
      | .host p => ringPart s r ≠ some p
      | .hart h => ringPart s r = none ∨ hartPart s h ≠ ringPart s r ∨ hartOwner h = true) →
    (exec (.sqTail who r v) s = .next t ∨ exec (.cqHead who r v) s = .next t ∨ exec (.abortTo who r v) s = .next t ∨
      exec (.base who r v) s = .next t) →
    OnlyReports s t

/-- BASE takes a value equal to TAIL, after which every wait is judged again, and refuses any other; ABORT of a sequence number in the open
range aborts the descriptors up to it, ABORT of a later one aborts those before TAIL, and ABORT of an earlier one does nothing
(10 R325, R326, 01 R18). -/
def Obligations.BaseAndAbort : Prop :=
  ∀ (s : State) (who : Party) (r p : Nat) (v : BitVec 32), DoorbellOpen s who r p → (ringOf s r).enabled = true →
    let g := ringOf s r
    let o := firstOpen g
    (v = g.tail → exec (.base who r v) s = .next (settleAll (setRing s r { g with base := v, bad := [] }))) ∧
    (v ≠ g.tail → ∃ t, exec (.base who r v) s = .next t ∧ OnlyReports (setRing s r { g with dbErr := true }) t ∧
      ∃ e : ErrEvent, e.kind = 0x05 ∧ e.part = some p ∧ e.ring = r ∧ t = (errEmit (setRing s r { g with dbErr := true }) e).1) ∧
    ((v - o).toNat < (g.tail - o).toNat → exec (.abortTo who r v) s = .next (abortBefore s r (v + 1))) ∧
    ((g.tail - o).toNat ≤ (v - o).toNat → (v - o).toNat < 2 ^ 31 → exec (.abortTo who r v) s = .next (abortBefore s r g.tail)) ∧
    ((g.tail - o).toNat ≤ (v - o).toNat → 2 ^ 31 ≤ (v - o).toNat → exec (.abortTo who r v) s = .next s)

/-- A host write of a shadow line held by the device marks it stale with the new values; the re-read takes them, and each value that changed
acts as its doorbell by the ring's own host (10 R313). -/
def Obligations.ShadowLine : Prop :=
  ∀ (s : State) (r p : Nat) (tail head : BitVec 32), isRing r = true → ringPart s r = some p →
    let g := ringOf s r
    let taken := setRing s r { g with stale := false, shadowTail := g.lineTail, shadowHead := g.lineHead }
    (shadowHeld s r = true →
      exec (.shadowSnoop r tail head) s = .next (setRing s r { g with lineTail := tail, lineHead := head, stale := true })) ∧
    (g.stale = true → g.lineTail = g.shadowTail → g.lineHead = g.shadowHead → exec (.shadowReread r) s = .next taken) ∧
    (g.stale = true → p < 8 → g.lineTail ≠ g.shadowTail → g.lineHead = g.shadowHead →
      exec (.shadowReread r) s = exec (.sqTail (.host p) r g.lineTail) taken) ∧
    (g.stale = true → p < 8 → g.lineTail = g.shadowTail → g.lineHead ≠ g.shadowHead →
      exec (.shadowReread r) s = exec (.cqHead (.host p) r g.lineHead) taken)

/-- A descriptor read is issued while fewer than 16 are in flight, it lies before TAIL and its CQ slot is free; its slot is translated then (10 R311, R319). Its
return moves FETCH by one and appends the descriptor with its 64 bytes and the partition's wait limit, waiting, after which every wait is judged; an
invalid header ends it with FAILED_DESC_INVALID, and a disable or ABORT ends it with ABORTED_BY_HOST (10 R319, R324, R325, R328, R564). -/
def Obligations.DescriptorReadAndFetch : Prop :=
  ∀ (s : State) (r p : Nat), isRing r = true → ringPart s r = some p → (ringOf s r).enabled = true → alive s = true →
    let g := ringOf s r
    let n := g.reads.length
    ((ringOf s r).obituary = false → s.tapHeld = false → stage s < 3 → s.resetting.contains p = false → n < 16 →
      n < (g.tail - g.fetch).toNat → (g.fetch + BitVec.ofNat 32 n - g.cqh).toNat < ringEntries s r →
      exec (.descReadIssue r) s = .next (setRing s r { g with reads := g.reads ++ [xlateMem s p .r (sqSlot s r (g.fetch + BitVec.ofNat 32 n))] })) ∧
    ∀ k ks bs, g.reads = k :: ks → issuedRead s p (sqSlot s r g.fetch) k = .ok bs →
      let d : Desc := ⟨g.fetch, bs, p, pfld s p Reg.hifWaitLimit 0 16, .waiting, .idle, false, false, false, false, none⟩
      let u := setRing s r { g with fetch := g.fetch + 1, reads := ks, abortLeft := g.abortLeft - 1, descs := g.descs ++ [d] }
      (g.disabling = false → g.abortLeft = 0 → descInvalid bs = false → exec (.descFetch r .good) s = .next (settleAll u)) ∧
      (g.disabling = false → g.abortLeft = 0 → descInvalid bs = true →
        exec (.descFetch r .good) s = .next (endDesc u r d St.descInvalid 0)) ∧
      (g.disabling = true ∨ 0 < g.abortLeft → exec (.descFetch r .good) s = .next (endDesc u r d St.aborted 0))

/-- A NOP descriptor whose waits are met completes OK; a descriptor whose wait is still open when its limit expires fails with
FAILED_DEPENDENCY; the moderation timer of an armed ring raises its vector and disarms the ring. A vector's message goes out unless MSI-X, the function or the vector
is masked, where its pending bit is set (10 R328, R333, 01 R22; the mask bits by log entry 39). -/
def Obligations.NopWaitLimitAndModeration : Prop :=
  ∀ (s : State) (r : Nat) (seq : BitVec 32), isRing r = true →
    (∀ d, startable s r seq 0 0 = some d → exec (.nopDescriptor r seq) s = .next (settleAll (completeOne s r d St.ok 0 false))) ∧
    (∀ d w, findDesc s r seq = some d → d.phase = .waiting → d.waits.find? (fun w => judgeWait s d.part w.1 w.2 == .open) = some w →
      exec (.waitLimitExpiry r seq) s = .next (settleAll (completeOne s r d St.dependency (waitDetail w true) false))) ∧
    (∀ p, ringPart s r = some p → (ringOf s r).armed = true → 0 < (ringOf s r).unsignalled →
      ofld s (Reg.rngCfg + 64 * r) 32 10 ≠ 0 → linkUsable s p = true →
      exec (.modUsExpiry r) s = .next (setRing (raiseVector s p (ofld s (Reg.rngCfg + 64 * r) 16 11)) r
        { ringOf s r with unsignalled := 0, armed := false })) ∧
    ∀ p v sl, linkUsable s p = true → partSlot s p = some sl →
      let x := slotOf s sl
      (x.msixOn = true → x.fmask = false → x.clear.contains v = true → raiseVector s p v = { s with msix := s.msix ++ [(p, v)] }) ∧
      (x.msixOn = false ∨ x.fmask = true ∨ x.clear.contains v = false →
        raiseVector s p v = setSlot s sl { x with pend := if x.pend.contains v then x.pend else x.pend ++ [v] })

/-- A completed descriptor's record: 32 bytes in the CQ slot of COMP that carry its sequence number, status and tag; COMP moves by one and the
descriptor is in flight no more (10 R321, R331). -/
def Obligations.CompletionRecordWritten : Prop :=
  ∀ (s u : State) (r : Nat) (d : Desc) (st : BitVec 16) (detail : Nat) (errec : Bool), writeRecord s r d st detail errec = some u →
    (ringOf u r).comp = (ringOf s r).comp + 1 ∧ (∀ x, x ∈ (ringOf u r).descs → x.seq ≠ d.seq) ∧
      (∀ q, q ≠ r → ringOf u q = ringOf s q) ∧
      ∃ v, writeVa s d.part (cqSlot s r) (cqBytes r d st detail (stamp s (18 + partPdie s d.part))
          ((ringOf s r).comp.toNat / ringEntries s r % 2 == 0) errec) = .ok v ∧
        ∀ key, byteAt u key = byteAt v key

/-- An accepted enable zeroes TAIL, FETCH, COMP, CQH and BASE and sets ENABLED, after which every wait is judged again; it is refused, with only the fields stored, when LOG2_ENTRIES
lies outside 4 to 16 (10 R323). A disable of an enabled ring aborts the descriptors before TAIL and the ring is disabled once each has
its record (10 R324). -/
def Obligations.RingEnableAndDisable : Prop :=
  ∀ (s : State) (view r p : Nat) (v : Word), isRing r = true → view ≤ 8 → alive s = true →
    (regAt s view (Reg.rngCfg + 64 * r)).isSome = true → ringPart s r = some p →
    let s1 := storeWord s view (Reg.rngCfg + 64 * r) v.toNat
    (bitAt v.toNat 8 = true → (ringOf s r).enabled = false → partReady s p = true → (ringOf s r).obituary = false →
      4 ≤ fieldOf v.toNat 0 5 → fieldOf v.toNat 0 5 ≤ 16 →
      exec (.ringEnable view r v) s = .next (settleAll (setRing s1 r { Ring.init with enabled := true, dbErr := (ringOf s1 r).dbErr }))) ∧
    (bitAt v.toNat 8 = true → (ringOf s r).enabled = false → (fieldOf v.toNat 0 5 < 4 ∨ 16 < fieldOf v.toNat 0 5) →
      exec (.ringEnable view r v) s = .next s1) ∧
    (bitAt v.toNat 8 = false → (ringOf s r).enabled = true →
      exec (.ringDisable view r v) s = .next (disableCheck (abortBefore
        (setRing (setRfld s (okey (Reg.rngCfg + 64 * r)) 8 1 0) r { ringOf s r with disabling := true }) r (ringOf s r).tail) r)) ∧
    (bitAt v.toNat 8 = false → (ringOf s r).enabled = false → exec (.ringDisable view r v) s = .next s1)

/-! ### Host attachment, partition reset and register writes -/

/-- A write of a host memory window's word takes effect unless the window would then be empty, clash with another window of the partition or
cover an address the device maps; then the window's VALID reads 0 (10 R310, R311). -/
def Obligations.HostMemoryWindowWrite : Prop :=
  ∀ (s : State) (p n word : Nat) (v : Word), p < 8 → n < 16 → word < 2 → alive s = true →
    let s1 := storeWord s p (Reg.hifHmw + 16 * n + 8 * word) v.toNat
    let k := pkey p (Reg.hifHmw + 16 * n)
    ((rfld s1 k 0 1 = 0 ∨ hmwClash s1 p n = false) → exec (.hmwWrite p n word v) s = .next s1) ∧
    (rfld s1 k 0 1 = 1 → hmwClash s1 p n = true → exec (.hmwWrite p n word v) s = .next (setRfld s k 0 1 0))

/-- HOST_WINDOW_ACCESS completes for every operand: an access within the window's HBM region answers its bytes or stores them, leaving every
byte outside alone, or reports a failure of the memory; one that reaches no memory of the region changes no byte and records an ADDRESS error;
and with no slot, region or usable link, or beyond the window, nothing happens (10 R309). -/
def Obligations.HostWindowAccess : Prop :=
  ∀ (s : State) (p off len : Nat) (write : Bool) (data : List Byte), p < 8 →
    (∀ sl n, partSlot s p = some sl → slotRegion s sl = some n → linkUsable s p = true → alive s = true →
      let span := len.max (if write then data.length else 0)
      let size := fieldOf (regionWord s n) 32 13 * 0x4000000
      let window := windowUnits (slotCxl s sl) (fieldOf (regionWord s n) 32 13) * 0x4000000
      let tr : Nat → Option Nat := fun a => some (regionKey s n (fieldOf (regionWord s n) 16 13 * 0x4000000 + a))
      (off + span ≤ window → off + span ≤ size → bitAt (regionWord s n) 0 = true → holdsRegion s p n = true →
        (write = false → exec (.hostWindowAccess p write off len data) s = .next (match readVia s tr off len (some (8 + sl / 4)) with
          | .ok bs => { s with hostReply := bs }
          | .error e => windowFail s p off len false e)) ∧
        (write = true → exec (.hostWindowAccess p write off len data) s = .next (match writeVia s tr off data (some (8 + sl / 4)) with
          | .ok u => u
          | .error e => windowFail s p off len true e) ∧
          ∀ u, writeVia s tr off data (some (8 + sl / 4)) = .ok u → OnlyBytes s u ∧
            ∀ key, writtenBy tr off data.length key = false → byteAt u key = byteAt s key)) ∧
      (off + span ≤ window → (size < off + span ∨ bitAt (regionWord s n) 0 = false ∨ holdsRegion s p n = false) →
        exec (.hostWindowAccess p write off len data) s = .next (windowMiss s p off len (slotCxl s sl) write)) ∧
      (window < off + span → exec (.hostWindowAccess p write off len data) s = .next s)) ∧
    ((linkUsable s p = false ∨ alive s = false ∨ ∀ sl, partSlot s p = some sl → slotRegion s sl = none) →
      exec (.hostWindowAccess p write off len data) s = .next s)

/-- Host link events: PERST_N deasserted frees a slot to train; a link that comes up shows its width and speed in the partition's status; a lost
link sets LINK_LOSS and resets the slot's partition; FLR, a hot reset and D3hot entry reset it while the link stays up (10 R302 to R306, 16
R527; log entry 20 for the link after a hot reset). -/
def Obligations.HostLinkEvents : Prop :=
  ∀ (s : State) (sl p : Nat), sl < 8 →
    let x := slotOf s sl
    exec (.perstDeassert sl) s = .next (setSlot s sl { x with perst := false }) ∧
    (∀ width speed, slotPart s sl = some p → x.perst = false → x.up = false → partValid s p = true → alive s = true → s.tapHeld = false →
      s.boot = .done → slotPowered s sl = true →
      ([1, 2, 4, 8].contains width = true ∨ (width = 16 ∧ bitAt (reg s (okey (Reg.hifPortCfg + 8 * (sl / 2)))) 0 = false)) → 1 ≤ speed → speed ≤ 6 →
      exec (.pcieLinkUp sl width speed) s =
        .next (linkStatus (setSlot s sl { x with up := true, width := width, speed := speed, d3hot := false }) p sl)) ∧
    (x.up = true → slotPart s sl = some p → partValid s p = true → alive s = true →
      exec (.flr sl) s = .next (partitionReset (setSlot s sl x.fresh) p) ∧
      exec (.hotReset sl) s = .next (partitionReset (setSlot s sl x.fresh) p) ∧
      (x.d3hot = false → exec (.d3hotEntry sl) s = .next (partitionReset (setSlot s sl { x with d3hot := true }) p)) ∧
      exec (.linkDown sl) s = .next (resetBySlot
        (setRfld (linkStatus (setSlot s sl { Slot.init with perst := x.perst }) p sl) (pkey p Reg.hifPartStatus) 1 1 1) sl))

/-- Setting RESET of a VALID partition resets it; once its tile groups are zero the reset ends: RESET reads 0 and READY returns (10 R305, R340). -/
def Obligations.PartitionResetStartAndEnd : Prop :=
  ∀ (s : State) (p : Nat), p < 8 → alive s = true →
    (∀ (view : Nat) (v : Word) (s1 : State), bitAt v.toNat 1 = true → actionWrite s view (Reg.prtPartCfg + 0x40 * p) v = some s1 →
      partValid s1 p = true →
      exec (.partitionReset view p v) s = .next (partitionReset (setRfld s1 (okey (Reg.prtPartCfg + 0x40 * p)) 1 1 1) p)) ∧
    (s.resetting.contains p = true → (∀ g, g < 168 → holdsGroup s p g = true → (groupOf s g).zeroing = false) →
      ∃ t, exec (.partitionResetEnd p) s = .next t ∧ t = { s with resetting := t.resetting, regs := t.regs } ∧
        t.resetting.contains p = false ∧ (∀ q, q ≠ p → t.resetting.contains q = s.resetting.contains q) ∧
        partReady t p = partValid s p ∧ ofld t (Reg.prtPartCfg + 0x40 * p) 1 1 = 0)

/-- A partition reset disables every ring the partition holds, with nothing left in flight, and clears READY (10 R340). -/
def Obligations.PartitionResetDisablesRings : Prop :=
  ∀ (s : State) (p r : Nat), p < 8 → r < 4096 → ringPart s r = some p →
    (ringOf (partitionReset s p) r).enabled = false ∧ (ringOf (partitionReset s p) r).descs = [] ∧
      (ringOf (partitionReset s p) r).reads = []

/-- REGISTER_WRITE completes for every operand: an aligned write of 4 or 8 bytes to a register of a view that the party may reach, with no row
of its own and no action bit set, stores the word's writable fields; any other write through a view changes nothing; and a host's write to the
registers of its own function sets them while the link is up (10 R304, R307, R333, 17 R547, R550 to R555; log entry 39 for the places of the
function's registers). -/
def Obligations.RegisterWriteStoresOrIsIgnored : Prop :=
  (∀ (s : State) (who : Party) (view off size : Nat) (v : Word), view ≤ 8 →
    let base := off / 8 * 8
    let w := widenWrite s view off size v.toNat
    let s1 := storeWord s view base w
    (viewAllowed s who view = true → (size = 4 ∨ size = 8) → off % size = 0 → ownRow base = false →
      (isRingWord base 0x10 = false ∨ off % 8 ≠ 0) → ringLocked s off = false → alive s = true → setsAction s view base w = false →
      exec (.registerWrite who view off size v) s = .next
        (if base = Reg.errRing + 8 then errRingEnable s1 view (bitAt (reg s (pkey view base)) 9)
         else if base = Reg.tmbCtrl then ppsEnable s1 (ofld s Reg.tmbCtrl 4 1 == 1)
         else if isRingWord base 0x28 = true then dbErrClear s1 ((base - Reg.rngSqBase) / 64) (regAt s view base).isSome w
         else s1)) ∧
    ((viewAllowed s who view = false ∨ (size ≠ 4 ∧ size ≠ 8) ∨ off % size ≠ 0 ∨ ownRow base = true ∨
        (isRingWord base 0x10 = true ∧ off % 8 = 0) ∨ ringLocked s off = true ∨ alive s = false ∨ setsAction s view base w = true) →
      exec (.registerWrite who view off size v) s = .next s)) ∧
  (∀ (s : State) (who : Party) (sl off size : Nat) (v : Word), sl < 8 →
    let x := slotOf s sl
    let own := ∃ p, who = .host p ∧ slotPart s sl = some p
    (own → x.up = true → exec (.registerWrite who (16 + sl) off size v) s = .next
      (if off = Fn.bar0 then setSlot s sl { x with bar0 := v.toNat / 0x4000000 * 0x4000000 }
       else if off = Fn.bar2 then setSlot s sl { x with bar2 := v.toNat / 0x1000000 * 0x1000000 }
       else if off = Fn.bar4 then setSlot s sl { x with bar4 := alignTo (barSize s sl 4) v.toNat }
       else if off = Fn.power then (if fieldOf v.toNat 0 2 = 0 then setSlot s sl { x with d3hot := false } else s)
       else if off = Fn.msix then fireVectors (setSlot s sl { x with msixOn := bitAt v.toNat 15, fmask := bitAt v.toNat 14 }) sl
       else if off = Fn.aer then setSlot s sl { x with aer := x.aer &&& (2 ^ 64 - 1 - v.toNat) }
       else if off = Fn.hdm then (if x.hdmOn = true ∨ slotCxl s sl = false then s
         else setSlot s sl { x with hdm := v.toNat / 0x10000000 * 0x10000000, hdmOn := bitAt v.toNat 0 })
       else if Fn.vectors ≤ off ∧ off < Fn.vectors + 8 * 2048 ∧ off % 8 = 0 then
         fireVectors (setSlot s sl { x with clear := x.clear.filter (· != (off - Fn.vectors) / 8) ++
           (if bitAt v.toNat 0 = true then [] else [(off - Fn.vectors) / 8]) }) sl
       else s)) ∧
    ((¬ own ∨ x.up = false) → exec (.registerWrite who (16 + sl) off size v) s = .next s))

/-- A write that stores a register word takes the written bits in the word's writable fields, keeps its other bits but for the ones it
clears, and keeps every other register word; a word with a shadow takes them in its shadow (15 R494, 17 R550, R551). -/
def Obligations.StoredWordAlone : Prop :=
  ∀ (s : State) (view off v : Nat) (row : RegRow) (key : Nat), regAt s view off = some (row, key) → actionBusy s row off key = false →
    let t := storeWord s view off v
    let rw := if s.locked then row.rw &&& (2 ^ 64 - 1 - row.lock) else row.rw
    (row.shadow = false → t = { s with regs := t.regs } ∧
      reg t key = taken s off key (mergeWrite (reg s key) rw row.w1c v) % 2 ^ 64 ∧ ∀ k, k ≠ key → reg t k = reg s k) ∧
    (row.shadow = true → t = { s with shadow := t.shadow } ∧
      shadowReg t key = mergeWrite (shadowReg s key) rw 0 v % 2 ^ 64 ∧ ∀ k, k ≠ key → shadowReg t k = shadowReg s k)

/-- A read of DET_SIGNATURE answers the CRC-64 of the partition's signature record, from the partition's own view or the Owner's copy (13
R434). -/
def Obligations.SignatureRead : Prop :=
  ∀ (s : State) (view p : Nat), p < 8 → (view = p ∨ view = 8) → alive s = true →
    exec (.detSignatureRead view p) s = .next { s with hostReply := leBytes 8 (crc64 0 (signatureRecord s p)) }

/-! ### Tiles -/

/-- A tile-work descriptor that may start, over tile groups its partition holds that are idle, unfenced and have lost no state, with no descriptor
that became ready earlier waiting for one of them, runs on every tile of its mask: each tile starts the stream with its rank, BS7 at PARAM + 64 x
rank and its other bases, flags and counts 0 (03 R78 to R82). A NOP, SETBASE, ADDBASE, LDBASE, LOOP, BAR or END that dispatches changes its tile
as its row says, dispatch goes on with the next command, and a barrier opens once every tile in scope has dispatched the matching BAR (03 R90,
R98, R99, Tables 5, 9 and 10). -/
def Obligations.TileSequencerCommands : Prop :=
  (∀ (s : State) (r : Nat) (seq : BitVec 32) (d : Desc), r < 4096 → startable s r seq 1 0 = some d →
    d.fld 20 21 &&& groupMask s d.part = d.fld 20 21 → groupsFenced s (d.fld 20 21) = false → groupsIdle s (d.fld 20 21) = true →
    firstReady s r seq (fun e => descGroups e &&& d.fld 20 21 != 0) = true →
    (maskGroups (d.fld 20 21)).all (fun g => (groupOf s g).lost.isEmpty) = true →
    exec (.tileWork r seq) s =
      .next (startTiles (startWork s r d (.tile [])) r seq (tileParam d) 0 (maskTiles (d.fld 20 21)))) ∧
  (∀ (s : State) (t r : Nat) (d : Desc) (x : Tile) (b : List Byte), Dispatches s t r d x b →
    let s0 := setTile s t x
    let h := leField b 0 4
    let k := fieldOf h 17 3
    (tileOp b = 0x00 → reservedZero b 17 [] = true → x.more d → exec (.nop t) s = .next (setTile s t x.onward)) ∧
    (tileOp b = 0x01 → reservedZero b 17 [] = true →
      exec (.endCmd t) s = .next (tileFinish (mcastOrphans (setTile s t { x with ended := true, loops := [] }) t) r d.seq)) ∧
    (tileOp b = 0x02 → reservedZero b 25 [(4, 4)] = true → 1 ≤ fieldOf h 17 8 → 1 ≤ leField b 4 4 → x.loops.length < 4 →
      (match x.loops with
        | [] => x.pos + 1 + fieldOf h 17 8 ≤ tileCmds d
        | f :: _ => x.pos + 1 + fieldOf h 17 8 ≤ f.last) →
      exec (.loop t) s = .next (setTile s t { x with
        loops := ⟨x.pos + 1, x.pos + 1 + fieldOf h 17 8, leField b 4 4, decide (fieldOf h 17 8 ≤ 64), []⟩ :: x.loops, pos := x.pos + 1 })) ∧
    (tileOp b = 0x03 → reservedZero b 20 [(8, 8)] = true → x.more d →
      exec (.setbase t) s = .next (setTile s t ({ x with bases := x.bases.set k (leField b 8 8) } : Tile).onward)) ∧
    (tileOp b = 0x04 → reservedZero b 20 [(8, 8)] = true → x.more d →
      exec (.addbase t) s =
        .next (setTile s t ({ x with bases := x.bases.set k ((x.bases.getD k 0 + leField b 8 8) % 2 ^ 64) } : Tile).onward)) ∧
    (tileOp b = 0x05 → reservedZero b 17 [] = true →
      (∀ bs, x.more d → (∀ nd o pr, xlate s0 d.part .r (x.bases.getD 7 0) ≠ some (.vat nd o pr)) →
        readVa s0 d.part (x.bases.getD 7 0) 56 (some (tileDie t)) = .ok bs → exec (.ldbase t) s =
          .next (setTile s t ({ x with bases := (List.range 7).map (fun i => leField bs (8 * i) 8) ++ [x.bases.getD 7 0] } : Tile).onward)) ∧
      (∀ nd o pr, xlate s0 d.part .r (x.bases.getD 7 0) = some (.vat nd o pr) → exec (.ldbase t) s =
        .next (pushVat (setTile s t { x with bar := some 2 }) [⟨d.part, .ldbase t, tileFdie t, nd, o, pr, 0, 56, []⟩]))) ∧
    (tileOp b = 0x06 → reservedZero b 18 [] = true → x.more d →
      exec (.bar t) s = .next (setTile s t ({ x with
        bar := some (fieldOf h 17 1)
        barsG := if fieldOf h 17 1 = 0 then x.barsG + 1 else x.barsG
        barsD := if fieldOf h 17 1 = 1 then x.barsD + 1 else x.barsD } : Tile).onward))) ∧
  ∀ (s : State) (t scope : Nat), isTile t = true → (tileOf s t).bar = some scope → scope < 2 → (tileOf s t).stopped = false →
    (∀ u, u ∈ barTiles s t scope → barCount (tileOf s t) scope ≤ barCount (tileOf s u) scope) →
    exec (.barRelease t) s = .next (setTile s t { tileOf s t with bar := none })

/-- MMA_H and MMA_D that dispatch add to each element of their block, slice by slice in ascending order, the products of the operands' elements,
starting from 0 with CLR and from the set otherwise, and leave every other element of the set alone; ACCLD loads a block and zeroes the
rest of its set (03 R61 to R76, Table 6). Each enters the matrix queue as a writer of its set, and nothing but the tile changes; operands
with a double error fail the command (09 R294). -/
def Obligations.TileMatrixCommands : Prop :=
  ∀ (s : State) (t r : Nat) (d : Desc) (x : Tile) (b : List Byte), Dispatches s t r d x b → x.qmat.length < 8 → x.more d →
    let s0 := setTile s t x
    let h := leField b 0 4
    let w1 := leField b 4 4
    let w3 := leField b 12 4
    let m := fieldOf w3 0 6
    let n := fieldOf w3 8 6
    let queued := fun (z : Tile) => ({ z with qmat := x.qmat ++ [⟨x.cmds, fieldOf h 17 2, true⟩], cmds := x.cmds + 1 } : Tile).onward
    (∀ (double : Bool) (tag : Nat), tileOp b = (if double then 0x11 else 0x10) →
      let aT := fieldOf h 20 3
      let bT := fieldOf h 23 3
      let kk := leField b 8 2
      let aLen := if double then 24 else 48
      let set := accOf x (fieldOf h 17 2)
      let set0 := if bitAt h 19 then { AccSet.init with tag := tag } else set
      let bad := (∃ k, k < kk ∧ (poisoned s (spKey t (fieldOf w1 0 16 * 32 + k * aLen * typeBytes aT)) (m * typeBytes aT) = true ∨
        poisoned s (spKey t (fieldOf w1 16 16 * 32 + k * 48 * typeBytes bT)) (n * typeBytes bT) = true))
      reservedZero b 26 [(4, 4), (8, 2), (12, 2)] = true → fieldOf w3 6 2 = 0 → fieldOf w3 14 2 = 0 → 1 ≤ kk → 1 ≤ m → m ≤ aLen → 1 ≤ n →
      n ≤ 48 → pairTag double aT bT = some tag → (bitAt h 19 = true ∨ set.tag = tag) →
      spRangeOk (tileMask d) (fieldOf w1 0 16 * 32) (kk * aLen * typeBytes aT) = true →
      spRangeOk (tileMask d) (fieldOf w1 16 16 * 32) (kk * 48 * typeBytes bT) = true →
      (bad → exec (if double then .mmaD t else .mmaH t) s = .next (tileFail s0 t St.uncorrected)) ∧
      (¬ bad → ∃ y : AccSet, exec (if double then .mmaD t else .mmaH t) s = .next (setTile s t (queued (setAcc x (fieldOf h 17 2) y))) ∧
        y.tag = tag ∧ ∀ i j, i < 48 → j < 48 → accGet y i j =
          if i < m ∧ j < n then (macLoop s t tag aT bT (fieldOf w1 0 16 * 32 + i * typeBytes aT) (fieldOf w1 16 16 * 32 + j * typeBytes bT)
            (aLen * typeBytes aT) (48 * typeBytes bT) kk 0 (accGet set0 i j, false, false, false)).1
          else accGet set0 i j)) ∧
    (tileOp b = 0x12 → fieldOf h 19 2 ≠ 3 → accCheck d b (fieldOf h 19 2) 21 = none →
      let tag := fieldOf h 19 2
      (blockPoisoned s t b (tagBytes tag) = true → exec (.accld t) s = .next (tileFail s0 t St.uncorrected)) ∧
      (blockPoisoned s t b (tagBytes tag) = false → ∃ y : AccSet,
        exec (.accld t) s = .next (setTile s t (queued (setAcc x (fieldOf h 17 2) y))) ∧
        y.tag = tag ∧ y.inv = false ∧ y.ovf = false ∧ y.sat = false ∧ ∀ i j, i < 48 → j < 48 → accGet y i j =
          if i < m ∧ j < n then
            leNat (getBytes s (spKey t ((fieldOf w1 0 16 + i * fieldOf w1 16 16) * 32 + j * tagBytes tag)) (tagBytes tag))
          else 0))

/-- ACCST stores its block, or adds it with ACC, to the scratchpad and no other byte changes; VEC runs its program, whose posts then wait for the
SCU; DMA_IN and DMA_OUT enter the queue, and with no earlier command of theirs incomplete they move their rows at once, part by part between memory
or the fabric and the scratchpad (03 R75, R76, R84 to R97, 04 R104 to R128, 10 R342, 11 R360). -/
def Obligations.TileStoreVectorAndDma : Prop :=
  ∀ (s : State) (t r : Nat) (d : Desc) (x : Tile) (b : List Byte), Dispatches s t r d x b →
    let s0 := setTile s t x
    let h := leField b 0 4
    let w1 := leField b 4 4
    let w3 := leField b 12 4
    (tileOp b = 0x13 → x.qmat.length < 8 → fieldOf h 19 2 = 0 → accCheck d b (accOf x (fieldOf h 17 2)).tag 22 = none →
      let set := accOf x (fieldOf h 17 2)
      let esz := tagBytes set.tag
      let addr := fun (i j : Nat) => spKey t ((fieldOf w1 0 16 + i * fieldOf w1 16 16) * 32 + j * esz)
      (bitAt h 21 = false ∨ blockPoisoned s t b esz = false) →
      ∃ u, OnlyBytes s0 u ∧ exec (.accst t) s =
          .next (matDone (noteWrites u r d.seq ((List.range (fieldOf w3 0 6)).map (fun i => (addr i 0, fieldOf w3 8 6 * esz)))) t (tileCmds d)
            (fieldOf h 17 2) false) ∧
        (∀ i j, i < fieldOf w3 0 6 → j < fieldOf w3 8 6 → leNat (getBytes u (addr i j) esz) =
          (if bitAt h 21 then accAdd set.tag (leNat (getBytes s (addr i j) esz)) (accGet set i j) else accGet set i j) % 2 ^ (8 * esz)) ∧
        ∀ key, (∀ i, i < fieldOf w3 0 6 → key < addr i 0 ∨ addr i 0 + fieldOf w3 8 6 * esz ≤ key) → byteAt u key = byteAt s key) ∧
    (∀ v, tileOp b = 0x20 → x.qvec.length < 8 → runVec s0 t (tileMask d) (pfld s d.part Reg.scuSlots 0 13) x.vstat x.accs b = .ok v →
      let post := fun slot a => (Post.mk (tileDie t) d.part r d.seq (some t) slot a (v.fl &&& 0x1E5 != 0))
      let ps := (if bitAt v.ctrl 0 then [post v.slots.1 v.a0] else []) ++ (if bitAt v.ctrl 1 then [post v.slots.2 v.a1] else [])
      let s1 := noteWrites { v.s with posts := v.s.posts ++ ps } r d.seq v.wrote
      exec (.vec t) s = .next (advance (setTile s1 t { tileOf s1 t with
        vstat := v.vstat, qvec := (tileOf s1 t).qvec ++ [⟨x.cmds, v.sets, ps.length⟩], cmds := x.cmds + 1 }) t (tileCmds d))) ∧
    (let c := DmaCmd.ofBytes b
     let base := x.bases.getD c.slot 0
     let e : DmaEntry := ⟨x.cmds, x.pos, b, base, if c.mcast then some x.mcasts else none, false, 0⟩
     let queued := setTile (noteWrites s0 r d.seq (cmdRanges s0 d.part t x b)) t ({ x with
       qdma := x.qdma ++ [e], cmds := x.cmds + 1, mcasts := if c.mcast then x.mcasts + 1 else x.mcasts } : Tile).onward
     let begun := setTile queued t ((tileOf queued t).mapDma (fun y => if y.no = e.no then { y with begun := true, parts := 0 } else y))
     let first := x.qdma = [] ∧ ∀ u, u ∈ groupTiles t → u ≠ t → dmaNext (tileOf s u) = none
     let at_ := fun (m : DmaMove) => c.memAddr base m.row + m.off
     (tileOp b = 0x30 → x.qdma.length < 16 → c.ok false b = true → c.boundsOk false (tileMask d) = true → x.more d →
      (c.mcast = true → exec (.dmaIn t) s = .next (dmaRun (mcastOrphans queued t) t)) ∧
      (c.mcast = false → first → exec (.dmaIn t) s = .next (movesEnd t e
        (runMoves (fun s m => moveIn s t d.part (at_ m) m.len [spKey t (c.spAddr false m)] (.tile t e.no (spKey t (c.spAddr false m))))
          (c.moves false base (List.range c.rows)) (c.zeroFill t begun, 0))))) ∧
     (tileOp b = 0x31 → x.qdma.length < 16 → c.ok true b = true → (d.cf = false ∨ c.mode = 0) → c.boundsOk true (tileMask d) = true →
      x.more d → first → exec (.dmaOut t) s = .next (movesEnd t e
        (runMoves (fun s m => if poisoned s (spKey t (c.spAddr true m)) m.len then .error (.bad (at_ m) (spKey t (c.spAddr true m)))
            else moveOut s t d.part c.mode (at_ m) (getBytes s (spKey t (c.spAddr true m)) m.len) (.tile t e.no 0))
          (c.moves true base (List.range c.rows)) (begun, 0)))))

/-- The head of a tile queue completes: a matrix command that writes a set once no earlier VEC reads it, a VEC once its posts are accepted and no
earlier matrix command writes a set it reads, a DMA command once it has landed; a failed descriptor's tiles go quiet with its lowest failing tile's
status, what they wrote or were to write being open; a zeroed tile group holds zeros in its scratchpads and sets tagged FP32 (03 R72, R83, R86,
R88, R91, R92). -/
def Obligations.TileQueuesQuiesceAndZeroing : Prop :=
  (∀ (s : State) (t r : Nat) (seq : BitVec 32), isTile t = true → (tileOf s t).running = some (r, seq) →
    let x := tileOf s t
    (∀ c rest, x.qmat = c :: rest →
      ((c.writes = false ∨ ∀ v, v ∈ x.qvec → v.no < c.no → v.sets.contains c.set = false) →
        exec (.tileQueueCmdComplete t .mat) s = .next (tileFinish (setTile s t { x with qmat := rest }) r seq)) ∧
      (∀ v, c.writes = true → v ∈ x.qvec → v.no < c.no → v.sets.contains c.set = true → exec (.tileQueueCmdComplete t .mat) s = .next s)) ∧
    (∀ v rest, x.qvec = v :: rest →
      (v.posts = 0 → (∀ c, c ∈ x.qmat → c.writes = true → c.no < v.no → v.sets.contains c.set = false) →
        exec (.tileQueueCmdComplete t .vec) s = .next (tileFinish (setTile s t { x with qvec := rest }) r seq)) ∧
      (∀ c, c ∈ x.qmat → c.writes = true → c.no < v.no → v.sets.contains c.set = true → exec (.tileQueueCmdComplete t .vec) s = .next s)) ∧
    (∀ e rest, x.qdma = e :: rest →
      (e.begun = true → e.parts = 0 →
        exec (.tileQueueCmdComplete t .dma) s = .next (tileFinish (setTile s t { x with qdma := rest }) r seq)) ∧
      ((e.begun = false ∨ e.parts ≠ 0) → exec (.tileQueueCmdComplete t .dma) s = .next s))) ∧
  (∀ (s : State) (r : Nat) (seq : BitVec 32) (d : Desc) (wrote : List (Nat × Nat)), r < 4096 → runningDesc s r seq 1 = some d →
    d.work = .tile wrote → (tilesOn s r seq).any (fun t => vatBusy s t) = false →
    let failed := ((tilesOn s r seq).filterMap (fun t => (tileOf s t).failed)).head?
    (∀ st detail, failed = some (st, detail) → exec (.tileFailQuiesce r seq) s =
      .next (settleAll (completeOne (tileScramble s r d wrote) r d (BitVec.ofNat 16 st) detail false))) ∧
    (failed = none → d.struck = none → d.abort = true → exec (.tileFailQuiesce r seq) s =
      .next (settleAll (completeOne (tileScramble s r d wrote) r d St.aborted 0 false)))) ∧
  ∀ (s : State) (g : Nat), g < 168 → (groupOf s g).zeroing = true → s.commit = none →
    ∃ u, exec (.tileGroupZeroed g) s = .next u ∧ u = { s with mem := u.mem, poison := u.poison, tiles := u.tiles, groups := u.groups } ∧
      groupOf u g = { groupOf s g with zeroing := false } ∧ (∀ k, k ≠ g → groupOf u k = groupOf s k) ∧
      (∀ j, tileOf u j = if j / 8 = g then { tileOf s j with accs := List.replicate 4 AccSet.init } else tileOf s j) ∧
      ∀ key, byteAt u key = if spKey (8 * g) 0 ≤ key ∧ key < spKey (8 * g + 8) 0 then 0#8 else byteAt s key

/-! ### Scale units, optimiser and sparse iteration -/

/-- SCU_POST takes the oldest post that waits at a die's SCU into the slot's open record: the larger amax, the overflow bits joined, posted (05
R143, R144). RESET, SAVE and LOAD change the slots, the table and the image as their rules say and run until SCU_DESCRIPTOR_DONE; CLOSE
of the open step closes the slots of one partition, or enters the group's operations, whose results then close them; a CLOSE of another step fails
(05 R146, R149, R154). -/
def Obligations.ScaleUnitCommands : Prop :=
  (∀ (s : State) (k : Nat) (q : Post), k < 8 → s.posts.find? (fun q => q.die == k) = some q → fenced s 4 k = false →
    let o := openOf s k q.part q.slot
    exec (.scuPost k) s = .next (fxePoll (postAccepted { s with
      posts := s.posts.erase q
      scuOpen := sset (fun _ => OpenRec.mk 0 false false) s.scuOpen (openKey k q.part q.slot)
        ⟨max o.amax (postRank q.amax), o.ovf || q.ovf, true⟩ } q))) ∧
  (∀ (s : State) (r : Nat) (seq : BitVec 32) (d : Desc), r < 4096 → (partDies s d.part).any (fun k => fenced s 4 k) = false →
    let p := d.part
    let w := scuSample s p
    let range := scuRange d
    (∀ cfgs u, startable s r seq 5 0 = some d → scuFirst d + scuCount d ≤ w.nslots →
      slotCfgs s p w.cfg w.nslots (List.range w.nslots) = .ok cfgs →
      let s1 := range.foldl (fun s i => match cfgs[i]? with
        | some c => setSlotScu s p i (if c.fmt = 0 then { ScuSlot.init with q := one32, d := one32 }
            else { ScuSlot.init with q := c.initQ, d := ratio32 1 0 (parts32 c.initQ).1 (parts32 c.initQ).2 })
        | none => s) s
      let s2 := clearOpen (setDp s1 p cfgs range) p (scuFirst d) (scuCount d)
      writeAll s2 p (tableWrites s2 p w.table w.nslots 0 range ++ tableWrites s2 p w.table w.nslots 1 range) = .ok u →
      exec (.scuReset r seq) s = .next (startWork (setReg u (pkey p Reg.scuStep) (scuStepOf d)) r d (.scu w))) ∧
    (∀ u, startable s r seq 5 2 = some d → scuFirst d + scuCount d ≤ w.nslots →
      writeVa s p (scuAddr d) (layoutBytes 32 [(0, 8, pfld s p Reg.scuStep 0 64), (8, 2, scuFirst d), (10, 2, scuCount d)] ++
        range.flatMap (fun i => imageRec (slotOfScu s p i))) = .ok u →
      exec (.scuSave r seq) s = .next (startWork u r d (.scu w))) ∧
    (∀ b u, startable s r seq 5 3 = some d → scuFirst d + scuCount d ≤ w.nslots → readVa s p (scuAddr d) (32 + 96 * scuCount d) = .ok b →
      leField b 8 2 = scuFirst d → leField b 10 2 = scuCount d →
      let recs := (List.range (scuCount d)).map (fun i => (i + scuFirst d, slotOfImage ((b.drop (32 + 96 * i)).take 96)))
      recs.all (fun x => x.2.isSome) = true →
      let s2 := clearOpen (recs.foldl (fun s x => match x.2 with | some y => setSlotScu s p x.1 y | none => s) s) p (scuFirst d) (scuCount d)
      writeAll s2 p (tableWrites s2 p w.table w.nslots 0 range ++ tableWrites s2 p w.table w.nslots 1 range) = .ok u →
      exec (.scuLoad r seq) s = .next (startWork (setReg u (pkey p Reg.scuStep) (leField b 0 8)) r d (.scu w))) ∧
    (startable s r seq 5 1 = some d → scuStepOf d ≠ pfld s p Reg.scuStep 0 64 → exec (.scuClose r seq) s = .next (collGo (endDesc s r d St.scuStep 0))) ∧
    (∀ cfgs, startable s r seq 5 1 = some d → scuStepOf d = pfld s p Reg.scuStep 0 64 →
      slotEntries s p w.cfg w.nslots (List.range w.nslots) = .ok cfgs →
      let w1 := { w with cfgs := cfgs }
      let opened := fun i => if i < w.nslots then gatherOpen s p i else ⟨0, false, false⟩
      (∀ u, d.fld 29 1 = 0 → closeWith s p (scuStepOf d) w1 opened = .ok u →
        exec (.scuClose r seq) s = .next (collGo (startWork (clearOpen u p 0 4096) r d (.scu w1)))) ∧
      (d.fld 29 1 ≠ 0 → ∃ taken, (∀ i, i < w.nslots → sget (fun _ => OpenRec.mk 0 false false) taken i = gatherOpen s p i) ∧
        let ops := closeOps r d w.nslots opened
        let s1 := startWork (clearOpen s p 0 4096) r d (.scu { w1 with taken := taken, opsLeft := ops.length })
        exec (.scuClose r seq) s = .next (collGo { s1 with mordantWait := s1.mordantWait ++ ops })))) ∧
  ∀ (s : State) (r : Nat) (seq : BitVec 32) (d : Desc) (w : ScuWork), r < 4096 → runningDesc s r seq 5 = some d → d.work = .scu w →
    (0 < w.opsLeft → exec (.scuDescriptorDone r seq) s = .next s) ∧
    (w.opsLeft = 0 → (d.op ≠ 1 ∨ d.fld 29 1 ≠ 1) → exec (.scuDescriptorDone r seq) s = .next (settleAll (completeOne s r d St.ok 0 false))) ∧
    (∀ u, w.opsLeft = 0 → d.op = 1 → d.fld 29 1 = 1 → closeWith s d.part (scuStepOf d) w (groupRec w) = .ok u →
      exec (.scuDescriptorDone r seq) s = .next (settleAll (completeOne u r d St.ok 0 false)))

/-- An optimiser descriptor over idle, unfenced groups of its partition, with no descriptor that became ready earlier waiting for one of them, runs
its entries in order and posts their amaxes; where an entry fails it ends with that status, and what it touched is open; an UPDATE of a step
that is not closed fails and one of an invalid step is skipped; the descriptor completes once its posts are accepted (05 R157 to R165). -/
def Obligations.OptimiserCommands : Prop :=
  (∀ (s : State) (r : Nat) (seq : BitVec 32) (d : Desc), r < 4096 → d.fld 20 21 &&& groupMask s d.part = d.fld 20 21 →
    groupsFenced s (d.fld 20 21) = false → groupsIdle s (d.fld 20 21) = true →
    firstReady s r seq (fun e => descGroups e &&& d.fld 20 21 != 0) = true →
    let n := d.fld 44 8
    let outcome : Except (Fail × List (Nat × Nat)) OptRun → State
      | .ok x => startWork { x.s with
          posts := x.s.posts ++ x.posts.map (fun q => Post.mk (optDie d) d.part r d.seq none q.1 q.2.1 q.2.2) }
          r d (.opt ⟨x.posts.length, St.ok, storeRanges s d.part x.wrote⟩)
      | .error (e, l) => endFail (scramble s (storeRanges s d.part l)) r d e 0
    let step := (closedSteps s d.part).reverse.find? (fun x => x.1 == n)
    (∀ b pr, startable s r seq 2 0 = some d → step = some (n, false) →
      readVa s d.part (d.fld 52 6) 64 (some (optDie d)) = .ok b → OptParams.ofBytes b = some pr →
      exec (.update r seq) s =
        .next (outcome (optEntries d (fun s _ e => updateTensor s d n pr e) (List.range (d.fld 42 2)) ⟨s, [], []⟩))) ∧
    (startable s r seq 2 0 = some d → step = some (n, true) →
      exec (.update r seq) s = .next (startWork s r d (.opt ⟨0, St.skipped, []⟩))) ∧
    (startable s r seq 2 0 = some d → step = none → exec (.update r seq) s = .next (endDesc s r d St.scuStep 0)) ∧
    ∀ (pack : Bool), startable s r seq 2 (if pack then 1 else 2) = some d →
      exec (if pack then .pack r seq else .unpack r seq) s =
        .next (outcome (optEntries d (fun s a e => match (if pack then packEntry s d.part (optDie d) a e else unpackEntry s d.part (optDie d) e) with
          | .error x => .error (memFail St.tileAddress x)
          | .ok s1 => .ok (s1, none)) (List.range (d.fld 42 2)) ⟨s, [], []⟩))) ∧
  ∀ (s : State) (r : Nat) (seq : BitVec 32) (d : Desc) (w : OptWork), r < 4096 → runningDesc s r seq 2 = some d → d.work = .opt w →
    (w.posts = 0 → exec (.optimiserDone r seq) s = .next (endDesc s r d w.final 0)) ∧
    (w.posts ≠ 0 → exec (.optimiserDone r seq) s = .next s)

/-- A solve whose control block and inputs are valid starts on free SIEs and idle tile groups that no reservation bars and no other ready solve comes
before, with its own part of WORK open and its arrival counter 0: a single member at once with its factors, a group with the check reduction; a halo
arrival brings the mirror data once the counter has reached its target, a reduction result its lanes, and both let the solve run on; a halo or reduction
wait that expires ends it with FAILED_REMOTE_DEAD; a solve claimed by a reservation is switched out at its next iteration boundary, at
once if it waits there; a period of the reservation lets waiting solves in (06 R180 to R207, 15 R503; log entry 25 for the parts of WORK). -/
def Obligations.SolveCommands : Prop :=
  (∀ (s : State) (r : Nat) (seq : BitVec 32) (d : Desc) (inp : SieIn), r < 4096 → startable s r seq 3 0 = some d →
    let need := solveNeeds s d
    sieBusy s need.1 = false → groupsIdle s need.2 = true → sieBarred s d.part need.1 = false →
    firstReady s r seq (solveAfter s d.part need.1 need.2) = true → sieGather s d.part (d.fld 20 6) = .ok inp →
    let w : SieWork := ⟨inp, 0, [], 0, [], 0, 0, none, 0, 0, 0, [], false, false, 0, 0, none, 0, 0, need.2, List.replicate 128 0#8⟩
    let s0 := tryWrite (scramble s (storeRanges s d.part (sieOwnWork inp true))) d.part (inp.cb 112 8 + Config.sieCounter) (leBytes 4 0)
    let s1 := startWork s0 r d (.sie w)
    let d1 : Desc := { d with phase := .running, work := .sie w, cf := pfld s d.part Reg.detCtrl 0 1 == 1 }
    (inp.multi = false → exec (.solve r seq) s = .next (collGo (sieFactorStage s1 r d1 w))) ∧
    (inp.multi = true → exec (.solve r seq) s =
      .next (collGo (sieEnter s1 r d1 w checkFmts [sieCheck s1 d.part inp, sieCheck s1 d.part inp, 0])))) ∧
  (∀ (s : State) (r : Nat) (seq : BitVec 32) (d : Desc) (w : SieWork), r < 4096 → runningSolve s r seq = some (d, w) → d.abort = false →
    (∀ a c, w.wait = 1 → sieNats s d.part (w.inp.cb 112 8 + Config.sieCounter) 1 4 = .ok c → sieMirrorRead s d.part w.inp w.code = .ok a →
      (haloArrived w (c.getD 0 0) = true →
        exec (.sieHaloArrival r seq) s = .next (collGo (sieWake (sieRun s r d { w with answers := w.answers ++ [a] })))) ∧
      (haloArrived w (c.getD 0 0) = false → exec (.sieHaloArrival r seq) s = .next (collGo s))) ∧
    (∀ a, w.wait = 0 → sieAnswer w = some a → exec (.sieReductionResult r seq) s = .next (collGo (sieWake (sieResult s r d w a)))) ∧
    ((w.wait = 1 ∨ (w.wait = 0 ∧ w.inp.multi = true ∧ w.result = none)) →
      exec (.haloWaitExpiry r seq) s = .next (sieWake (sieFail s r d w St.remoteDead 0)))) ∧
  (∀ (s : State) (k r : Nat) (d : Desc) (w : SieWork), k < 8 → (siesHeld s).find? (fun x => x.2.2.dies.contains k) = some (r, d, w) →
    sieClaimed s d.part k = true → w.asked = false →
    (w.wait = 2 → exec (.sieSwitchOut k) s = .next (countSwitch (setDesc s r { d with work := .sie { w with out := true } }) w)) ∧
    (w.wait ≠ 2 → exec (.sieSwitchOut k) s = .next (setDesc s r { d with work := .sie { w with asked := true } }))) ∧
  ∀ s : State, exec .sieReservationPeriod s = .next (sieWake { s with siePeriodAt := s.tick })


/-! ### Field exchange and copy engines -/

/-- A GATHER or SCATTER whose control block is valid starts on free engines that no descriptor which became ready earlier waits for, after its completion word is cleared; each row that finishes, or
faults, settles the descriptor (07 R210, R211, R223 to R225). -/
def Obligations.FieldExchangeCommands : Prop :=
  (∀ (s : State) (r : Nat) (seq : BitVec 32) (d : Desc) (c : List Byte) (w : FxeWork) (scatter : Bool), r < 4096 →
    startable s r seq 4 0 = some d → fxeRead s d.part (d.fld 28 6) 128 = .ok c → leField c 0 1 = (if scatter then 1 else 0) →
    fxeBusy s (maskDies (leField c 36 1)) = false → firstReady s r seq (fun e => fxeMask s e &&& leField c 36 1 != 0) = true →
    fxeGather s d.part (d.fld 20 8) c = .ok w →
    (w.cb 96 8 = 0 → exec (if scatter then .scatter r seq else .gather r seq) s = .next (startWork s r d (.fxe w))) ∧
    (∀ u, w.cb 96 8 ≠ 0 → writeVa s d.part (w.cb 96 8 + 8 * w.parity) (leBytes 8 0) = .ok u →
      exec (if scatter then .scatter r seq else .gather r seq) s = .next (startWork u r d (.fxe w)))) ∧
  ∀ (s : State) (r k : Nat) (seq : BitVec 32) (d : Desc) (w : FxeWork) (x : FxeDie), r < 4096 → k < 8 → runningDesc s r seq 4 = some d →
    d.work = .fxe w → w.dies.find? (fun x => x.die == k && decide (x.next < x.stop)) = some x → w.halted = false →
    (∀ u y, fxeRow s d.part w x = .ok (u, y) → exec (.fxeRowDone r seq k) s =
      .next (fxeSettle u r d { w with dies := w.dies.map (fun z => if z.die = k then y else z) } (if y.next < y.stop then [] else [y]))) ∧
    (∀ f, fxeRow s d.part w x = .error f → exec (.fxeRowDone r seq k) s = .next (fxeSettle s r d { w with fault := some f, unit := k } w.busyDies))

/-- COPY, FILL and SEPIA start on the copy engine that the partition's placement gives; SEPIA's key is the partition's seed mixed with the step.
A finished burst of the descriptor whose turn it is moves that descriptor on (10 R330, 13 R440, R441). -/
def Obligations.CopyEngineCommands : Prop :=
  (∀ (s : State) (r e : Nat) (seq : BitVec 32) (d : Desc), r < 4096 → copyPlace s d.part = some e →
    (startable s r seq 6 0 = some d → exec (.copy r seq) s = .next (startWork s r d (.copy ⟨e, d.fld 36 4 + 1, 0, [], none, 0⟩))) ∧
    (startable s r seq 6 1 = some d → exec (.fill r seq) s = .next (startWork s r d (.copy ⟨e, d.fld 36 4 + 1, 0, [], none, 0⟩))) ∧
    (startable s r seq 0x0D 0 = some d →
      let step := if bitAt (d.fld 48 1) 4 then d.fld 20 8 else pfld s d.part Reg.detStep 0 64
      let seed := pfld s d.part (Reg.detSeed + 8 * (d.fld 48 1 % 4)) 0 64
      exec (.sepia r seq) s = .next (startWork s r d (.copy ⟨e, 16 * d.fld 44 4, 0, [], none, BitVec.ofNat 64 (seed ^^^ rotl64 step 17)⟩)))) ∧
  ∀ (s : State) (e r : Nat) (d : Desc) (w : CopyWork) (check : PathCheck), e < 8 → alive s = true →
    (turnOrder (sget (fun _ => 7) s.copyTurn e)).findSome? (fun p => engineReady s e p) = some (r, d) → d.work = .copy w →
    let s1 := { s with copyTurn := sset (fun _ => 7) s.copyTurn e d.part }
    exec (.dmaBurstDone e check) s = .next (collGo (if d.abort then copySettle s1 r d w else copyBurst s1 r d w check))

/-! ### P-die SRAM banks, Lake and HBM -/

/-- A granted bank handover shows its banks as 15 and drains them; a drained bank starts to zero, at most 4 of one P-die at a time; a zeroed
bank holds 0 and shows the new owner, and after the last one the epoch and the measurement move on. A refused handover changes nothing
but its RESULT, by the first case that holds (08 R259, R260). -/
def Obligations.BankHandover : Prop :=
  ∀ (s : State) (d : Nat), d < 2 → alive s = true →
    (∀ (view : Nat) (v : Word) (s1 : State), bitAt v.toNat 24 = true → actionWrite s view (Reg.prtPbankCtrl + 0x40 * d) v = some s1 →
      let first := fieldOf v.toNat 0 6
      let count := fieldOf v.toNat 8 6
      let owner := fieldOf v.toNat 16 4
      let off := Reg.prtPbankCtrl + 0x40 * d
      let bad := first ≥ 60 ∨ owner = 9 ∨ (10 ≤ owner ∧ owner ≤ 14)
      let result : Nat := if bad then 2 else if 59 < first + count then 5 else if ringInBanks s d first (first + count) then 3
        else if grantBusy s then 4 else 1
      (result ≠ 1 → exec (.pbankHandover view d v) s = .next (setResult s1 off 24 0 28 3 result)) ∧
      (result = 1 →
        let banks := (List.range (first + count + 1 - first)).map (· + first)
        exec (.pbankHandover view d v) s = .next (setHandover (setResult (banks.foldl (fun s b => setBankOwner s d b 15) s1) off 24 1 28 3 1) d
          (some ⟨first, first + count, owner, banks, []⟩)))) ∧
    (∀ b h, b < 64 → handoverOf s d = some h → h.draining.contains b = true → h.zeroing.length < 4 →
      exec (.pbankDrainDone d b) s = .next (setHandover s d (some { h with
        draining := h.draining.filter (· != b), zeroing := h.zeroing ++ [b] }))) ∧
    (∀ b h, b < 64 → handoverOf s d = some h → h.zeroing.contains b = true →
      let u := setBankOwner (zeroRange s (sramKey d (b * 0x100000)) (sramKey d ((b + 1) * 0x100000))) d b h.owner
      let rest := h.zeroing.filter (· != b)
      (h.draining = [] → rest = [] → exec (.pbankZeroDone d b) s = .next (launchWake (extendMeas (bumpPrtEpoch
        (setHandover (setResult u (Reg.prtPbankCtrl + 0x40 * d) 24 0 28 3 0) d none))))) ∧
      ((h.draining ≠ [] ∨ rest ≠ []) →
        exec (.pbankZeroDone d b) s = .next (launchWake (setHandover u d (some { h with zeroing := rest })))) ∧
      ∀ key, byteAt u key = if sramKey d (b * 0x100000) ≤ key ∧ key < sramKey d ((b + 1) * 0x100000) then 0#8 else byteAt s key)

/-- Lake and HBM: the oldest queued request that is the next of its pair, with no earlier one of the queue on its lines, is performed (09 R286, 11 R367); a patrol read counts and records a corrected sector, marks
and records an uncorrectable one, and moves on (09 R291 to R295); a granted repair or test-port operation runs and then ends with its
result, the ECC log read being cleared; a refused one only shows its RESULT, and one refused for want of a replacement row the health level too (09
R298 to R301, Table 7, 14 R467; log entry 12 for the form of the repair resources). -/
def Obligations.LakeAndHbmCommands : Prop :=
  (∀ (s : State) (die : Nat) (x : LakeReq), die < 8 →
    let q := sget (fun _ => []) s.lakeQ die
    q.find? (fun x => (dstOf s (dstKey x.pkt)).queued.head? == some x.pkt.seq.toNat &&
      (q.takeWhile (fun y => y != x)).all (fun y => (reqLines s y).all (fun l => !(reqLines s x).contains l))) = some x →
    let y := dstOf s (dstKey x.pkt)
    exec (.lakePerform die) s = .next (collGo (performReq
      (setDst { s with lakeQ := sset (fun _ => []) s.lakeQ die (q.erase x) } (dstKey x.pkt) { y with queued := y.queued.drop 1 }) x))) ∧
  (∀ (s : State) (stack pc : Nat), stack < 16 → pc < 32 → ofld s Reg.hmcScrub 0 16 ≠ 0 → stackReady s stack = true → alive s = true →
    let k := stack * 32 + pc
    let byte := 32 * sget (fun _ => 0) s.patrolAt k
    let sec := hbmKey stack pc byte / 32
    let st := Reg.hmcStackStatus + 8 * stack
    exec (.patrolRead stack pc .good) s = .next (patrolNext s k) ∧
    exec (.patrolRead stack pc .corrected) s = .next (patrolNext (report (setRfld s (okey st) 48 16 (satNat 16 (ofld s st 48 16 + 1)))
      0x02 1 8 (unitField 8 stack) none 0 (eccDetail stack pc byte)) k) ∧
    exec (.patrolRead stack pc .uncorrectable) s = .next (patrolNext (report { s with
      bad := if s.bad.contains sec then s.bad else s.bad ++ [sec] } 0x02 2 8 (unitField 8 stack) none 0 (eccDetail stack pc byte)) k)) ∧
  (∀ (s s1 : State) (view : Nat) (v : Word), alive s = true →
    let w := v.toNat
    (bitAt w 52 = true → actionWrite s view Reg.hmcRepairCtrl v = some s1 →
      let res := repairResult s (fieldOf w 0 4) (fieldOf w 8 5) (fieldOf w 16 6) (fieldOf w 24 18)
      let u := { setResult s1 Reg.hmcRepairCtrl 52 1 56 3 1 with
        repair := some ⟨fieldOf w 0 4, fieldOf w 8 5, fieldOf w 16 6, fieldOf w 24 18, bitAt w 48⟩ }
      (res = 1 → s.repair = none → exec (.hmcRepair view v) s = .next (takesReserved u
        ((dpaOf u (hbmKey (fieldOf w 0 4) (fieldOf w 8 5) ((fieldOf w 24 18 * 32 + fieldOf w 16 6) * 1024))).bind (fun x => regionPart u x.1))
        (fieldOf w 0 4 / 2) 2)) ∧
      (res = 3 → exec (.hmcRepair view v) s = .next (healthRefresh { setResult s1 Reg.hmcRepairCtrl 52 0 56 3 3 with rowFailed := true })) ∧
      (res ≠ 1 → res ≠ 3 → exec (.hmcRepair view v) s = .next (setResult s1 Reg.hmcRepairCtrl 52 0 56 3 res))) ∧
    (bitAt w 16 = true → actionWrite s view Reg.hmc1500Ctrl v = some s1 →
      let op := fieldOf w 8 4
      let res := testResult s (fieldOf w 0 4) op
      let u := if res = 1 then { setResult s1 Reg.hmc1500Ctrl 16 1 20 3 1 with testPort := some (fieldOf w 0 4, op) }
        else setResult s1 Reg.hmc1500Ctrl 16 0 20 3 res
      ((op = 0 ∨ 4 < op) → exec (.readDeviceIdentity view v) s = .next u) ∧ (op = 1 → exec (.readTemperature view v) s = .next u) ∧
      (op = 2 → exec (.readClearEccLog view v) s = .next u) ∧ (op = 3 → exec (.readRepairResources view v) s = .next u) ∧
      (op = 4 → exec (.memoryBist view v) s = .next u))) ∧
  (∀ (s : State) (w : RepairWork), s.repair = some w →
    let s0 := { s with repair := none }
    let g := bankGroup w.stack w.pc w.bank
    let st := Reg.hmcStackStatus + 8 * w.stack
    let s1 := { setRfld s0 (okey st) 16 16 (ofld s0 st 16 16 + 1) with
      repairUsed := sset (fun _ => 0) s0.repairUsed g (sget (fun _ => 0) s0.repairUsed g + 1)
      hardRepairs := if w.hard then s0.hardRepairs ++ [(w.stack, w.pc, w.bank, w.row)] else s0.hardRepairs
      freeCount := s0.freeCount + 1 }
    exec (.hmcRepairDone true) s = .next (healthRefresh (spareRecord (setResult s1 Reg.hmcRepairCtrl 52 0 56 3 0) 5 w.row w.row
      (fieldOf (Config.freeValue s0.freeCount).toNat 0 16) (rowsLeft s1 g) 8 (unitField 8 w.stack) none)) ∧
    exec (.hmcRepairDone false) s = .next (healthRefresh { setResult s0 Reg.hmcRepairCtrl 52 0 56 3 3 with rowFailed := true })) ∧
  ∀ (s : State) (k op : Nat) (reading : Word), s.testPort = some (k, op) →
    let done := fun v => setReg (setResult { s with testPort := none } Reg.hmc1500Ctrl 16 0 20 3 0) (okey Reg.hmc1500Data) v
    let log := eccLogOf s k
    exec (.testPortDone reading) s = .next
      (if op = 1 then setRfld (done (reading.toNat % 256)) (okey (Reg.hmcStackStatus + 8 * k)) 8 8 (reading.toNat % 256)
       else if op = 2 then { done (log.1 % 2 ^ 32 + log.2 % 2 ^ 32 * 2 ^ 32) with eccLog := sset (fun _ => (0, 0)) s.eccLog k (0, 0) }
       else if op = 3 then done (repairData s k)
       else if op = 4 then zeroStack (done reading.toNat) k else done reading.toNat)

/-! ### Clocks, power, boot and the supply -/

/-- Clock and power-domain commands: a target write stores the clamped target (02 R38, R40); a slew that ends puts the PLL at its goal (02 R38);
a clock lost while it runs is device-fatal (02 R34, R41); a granted power request starts the domain's ramp, or waits for the ramps under way, and a
refused one shows its RESULT (02 R48, R53, R54); a ramp that ends brings the domain up or off, ends the request for it, and lets an ordered sequence
go on, P0 uncore's own starting the boot (02 R48, R50); a regulator fault takes the domain and its descendants down, none of which comes up any
more (02 R46, R52). -/
def Obligations.ClockAndPowerDomainCommands : Prop :=
  (∀ (s : State) (view k : Nat) (v : Word), alive s = true →
    (k < 8 → exec (.clkTileTargetWrite view k v) s = .next (storeWord s view (Reg.clkTileTarget + 8 * k) v.toNat)) ∧
    (k < 2 → exec (.clkPcoreTargetWrite view k v) s = .next (storeWord s view (Reg.clkPcoreTarget + 8 * k) v.toNat))) ∧
  (∀ (s : State) (domain k : Nat), domain < 25 →
    (pllDie domain = some k → slewingMhz s k = true → exec (.pllSlewDone domain) s = .next (setPll s k (goalMhz s k))) ∧
    (alive s = true → clockRuns s domain = true → exec (.clockLoss domain) s = .next (deviceFatal s 2)) ∧
    (clockRuns s domain = false → exec (.clockLoss domain) s = .next s)) ∧
  (∀ (s s1 : State) (view : Nat) (v : Word), bitAt v.toNat 12 = true → alive s = true → actionWrite s view Reg.pwrDomainCtrl v = some s1 →
    let s2 := setRfld s1 (okey Reg.pwrDomainCtrl) 12 1 1
    let d := ofld s2 Reg.pwrDomainCtrl 0 5
    let up := ofld s2 Reg.pwrDomainCtrl 8 1 == 1
    (domainResult s2 d up = 1 → s.ramps = [] → s.rampSteps = [] →
      exec (.pwrDomainRequest view v) s = .next (rampStart (setResult s2 Reg.pwrDomainCtrl 12 1 16 3 1) [(d, up)])) ∧
    (domainResult s2 d up = 1 → (s.ramps ≠ [] ∨ s.rampSteps ≠ []) →
      exec (.pwrDomainRequest view v) s = .next (setResult s2 Reg.pwrDomainCtrl 12 1 16 3 1)) ∧
    (domainResult s2 d up ≠ 1 →
      exec (.pwrDomainRequest view v) s = .next (setResult s2 Reg.pwrDomainCtrl 12 0 16 3 (domainResult s2 d up)))) ∧
  (∀ (s : State) (d : Nat) (up : Bool), d < 30 → s.ramps.find? (fun x => x.1 == d) = some (d, up) →
    let s1 := setRfld { s with ramps := s.ramps.filter (fun x => x.1 != d) } (okey Reg.pwrDomainStatus) (32 + d) 1 0
    let s2 := if up then domainUp s1 d else domainDown s1 d
    let s3 := if ofld s2 Reg.pwrDomainCtrl 12 1 = 1 ∧ ofld s2 Reg.pwrDomainCtrl 0 5 = d then setResult s2 Reg.pwrDomainCtrl 12 0 16 3 0 else s2
    (d ≠ 0 → exec (.domainRampDone d) s = .next (goOn s3)) ∧
    (d = 0 → exec (.domainRampDone d) s = .next (wipeBanks { s3 with boot := .verifying }))) ∧
  ∀ (s : State) (d : Nat), d < 30 → s.boot ≠ .off →
    (d = 0 → exec (.regulatorFault d) s =
      .next (setReg { survivors s with boot := .off, fatal := some 3 } (okey Reg.pwrDomainStatus) 0)) ∧
    (d ≠ 0 → (domainOn s d = true ∨ ∃ up, (d, up) ∈ s.ramps) →
      let stops := fun (x : Nat × Bool) => x.1 == d || ((descendants d).contains x.1 && x.2)
      let f := deviceFatal s 3
      let s0 := (s.ramps.filter stops).foldl (fun s x => setRfld s (okey Reg.pwrDomainStatus) (32 + x.1) 1 0)
        { f with ramps := f.ramps.filter (fun x => !stops x) }
      exec (.regulatorFault d) s = .next (goOn { domainDown s0 d with rampSteps := downOrder.map (fun l => l.filter (fun x =>
        (descendants d).contains x.1 || s.rampSteps.any (fun m => m.contains x))) }))

/-- Thermal and power control: a die at 100 °C lowers its cap, one at 97 °C or less raises it, one at its lowest cap at 105 °C or more is
duty-cycled (16 R528); a stack at 85 °C doubles its refresh and at 95 °C lowers its die's cap (16 R529); the power average above PL1 lowers
the package cap and below 97% raises it (16 R530); a die at 115 °C or a stack at 105 °C trips the package off (16 R531). -/
def Obligations.ThermalAndPowerLimitCommands : Prop :=
  (∀ (s : State) (die temp : Nat), die < 12 → alive s = true →
    let s1 := takeReading s die temp
    let hotStack := die < 8 ∧ (95 ≤ stackTemp s (2 * die) ∨ 95 ≤ stackTemp s (2 * die + 1))
    (die < 10 → (100 ≤ temp ∨ hotStack) → exec (.thermalCapDown die temp) s = .next (capFall s1 die)) ∧
    (die < 10 → temp ≤ 97 → ¬ hotStack →
      exec (.thermalCapUp die temp) s = .next (setHeatCap s1 die (min (nominalMhz die) (heatCap s1 die + 100)))) ∧
    (die < 8 → 105 ≤ temp → heatCap s1 die = floorMhz die → s1.dutyDie.contains die = false →
      exec (.thermalDuty die temp) s = .next { s1 with dutyDie := s1.dutyDie ++ [die] })) ∧
  (∀ (s : State) (k temp : Nat), k < 16 → alive s = true → domainOn s (14 + k / 2) = true →
    let s1 := setRfld s (okey (Reg.hmcStackStatus + 8 * k)) 8 8 (satNat 8 temp)
    (temp < 85 → exec (.hbmTempRead k temp) s = .next { s1 with refresh2 := s.refresh2.filter (· != k) }) ∧
    (85 ≤ temp → temp < 95 → s.refresh2.contains k = false → exec (.hbmTempRead k temp) s = .next { s1 with refresh2 := s.refresh2 ++ [k] }) ∧
    (95 ≤ temp → s.refresh2.contains k = true → exec (.hbmTempRead k temp) s = .next (capFall s1 (k / 2)))) ∧
  (∀ (s : State) (watts : Nat) (hot : Bool), alive s = true →
    let pl1 := ofld s Reg.pwrLimit 0 12
    let s1 := { setRfld s (okey Reg.pwrSagStatus) 48 16 (satNat 16 watts) with dutyAll := hot || (s.dutyAll && decide (pl1 ≤ watts)) }
    (pl1 < watts → pcapDue s 10000 = true →
      exec (.powerLimitCheck watts hot) s = .next { s1 with pcap := max 1200 (s.pcap - 100), pcapAt := some s.tick }) ∧
    (watts * 100 < pl1 * 97 → s.pcap < 3300 → pcapDue s 100000 = true →
      exec (.powerLimitCheck watts hot) s = .next { s1 with pcap := min 3300 (s.pcap + 100), pcapAt := some s.tick }) ∧
    (watts ≤ pl1 → pl1 * 97 ≤ watts * 100 → exec (.powerLimitCheck watts hot) s = .next s1)) ∧
  ∀ (s : State) (stack : Bool) (temp : Nat), s.boot ≠ .off → (if stack then 105 else 115) ≤ temp →
    exec (.thermalTrip stack temp) s = .next { coldOff s with trip := true, tripSeen := true }

/-- Power, boot and reset: VIN present lets POR_N start P0's ramp; the boot ROM runs the image its choice finds, or the SMC enters recovery; a
configuration block whose CRC-32C does not check is defaulted, which CFG_STATUS shows; VIN removed and POR_N asserted turn everything off; memory that is initialised ends the boot; GLB_RESET with its key and WARM_RST_N reset
warmly, and an internal check is device-fatal (02 R48, 15 R507 to R513, 16 R517, R525 to R527, 14 R451). -/
def Obligations.BootAndResetCommands : Prop :=
  (∀ (s : State) (mv : Nat), s.vin = false → exec (.vinApplied mv) s = .next (setRfld { s with vin := true } (okey Reg.pwrSagStatus) 16 16 (satNat 16 mv))) ∧
  (∀ s : State, s.vin = true → exec .vinRemoved s =
    .next (setRfld { coldOff s with vin := false, trip := false, s4count := 0, droop := false } (okey Reg.pwrSagStatus) 0 3 0)) ∧
  (∀ s : State, exec .porAssert s = .next { coldOff s with por := true, trip := false }) ∧
  (∀ s : State, s.boot = .off → s.por = true → s.vin = true → s.trip = false → exec .porRelease s =
    .next (rampStart (setRfld { s with por := false } (okey Reg.pwrSagStatus) 0 3 (if 4 ≤ stage s then 0 else stage s)) [(0, true)])) ∧
  (∀ s : State, s.boot = .verifying → s.ramps = [] → s.warm = 0 → s.fatal = none →
    let k := okey Reg.secStatus
    let s0 := setRfld (setRfld s k 2 1 (b2n s.dirActive)) k 3 1 0
    (bootChoice s = none → exec .smcVerifyDone s = .next { s0 with boot := .recovery }) ∧
    (∀ b img, bootChoice s = some (b, img) →
      let s2 := setRfld { setRfld s0 k 3 1 (b2n (s.dirTrial && b == s.dirNext)) with
        running := some img, smcStart := s.tick, dirTrial := false, boot := .powering
        keys := ofld s Reg.secStatus 0 2 == 1 || ofld s Reg.secStatus 0 2 == 2 } (okey Reg.glbId) 32 32 (imageVersion img)
      let s3 := (List.range 8).foldl (fun s p => setRfld s (pkey p Reg.detInfo) 0 16 (imageRed img)) s2
      let s4 := if s3.tripSeen then { logNote s3 [] with tripSeen := false } else s3
      exec .smcVerifyDone s = .next (nextStep (upOrder.map (fun l => l.map (fun d => (d, true)))) (checkBlocks s4)))) ∧
  (∀ b : CfgBlock, 32 ≤ b.bytes.length → (cfgBlockOk b = true ↔ leField b.bytes 4 4 + 32 = b.bytes.length ∧
    leField b.bytes 8 4 = crc32c (b.bytes.take 8 ++ leBytes 4 0 ++ b.bytes.drop 12))) ∧
  (∀ s : State, (∀ b, b ∈ s.cfgBlocks → cfgBlockOk b = false) → ∀ id, 1 ≤ id → id ≤ 5 →
    let w := reg (checkBlocks s) (okey Reg.cfgStatus)
    bitAt w 0 = true ∧ bitAt w (8 + id) = true) ∧
  (∀ (s : State) (d : Nat), d < 30 → s.initing.contains d = true → alive s = true →
    let s1 := initDomain { s with initing := s.initing.filter (· != d) } d
    (s.boot ≠ .memInit → s1.boot ≠ .memInit → exec (.memoryInitDone d) s = .next s1) ∧
    (s.boot = .memInit → s1.boot = .memInit → s1.initing = [] → exec (.memoryInitDone d) s = .next (bootCommit { s1 with boot := .done })) ∧
    (s1.boot = .memInit → s1.initing ≠ [] → exec (.memoryInitDone d) s = .next s1)) ∧
  (∀ (s : State) (v : Word), bitAt v.toNat 0 = true → fieldOf v.toNat 8 8 = 0x5A → alive s = true → exec (.glbReset 8 v) s = .next (warmReset s)) ∧
  (∀ s : State, inputOn s 4 = true → inputLevel s 4 = false → exec .warmRstAssert s = .next (warmReset (setLevel s 4 true))) ∧
  ∀ s : State, alive s = true → exec .p0InternalCheck s = .next (deviceFatal s 5)

/-- The supply: two samples or a droop raise the stage at once, a single sample below 10 V enters S4, a stage falls by one once the supply has
recovered, S5 takes all power without a record, and recovery from S4 is a warm reset (16 R518 to R522). -/
def Obligations.SupplyStageCommands : Prop :=
  (∀ (s : State) (mv1 mv2 : Nat) (droop : Bool), s.vin = true →
    let s1 := takeSample (takeSample { s with droop := s.droop || droop } mv1) mv2
    let want := max (min (sampleStage mv1) (sampleStage mv2)) (b2n droop)
    (stage s < want → exec (.supplyStageRaise mv1 mv2 droop) s = .next (enterStage s1 want)) ∧
    (want ≤ stage s → exec (.supplyStageRaise mv1 mv2 droop) s = .next s1)) ∧
  (∀ (s : State) (mv : Nat), s.vin = true → mv < 10000 → stage s < 4 → exec (.supplyS4Enter mv) s = .next (enterS4 (takeSample s mv))) ∧
  (∀ s : State, s.vin = true → exec .supplyS5Enter s = .next (setRfld (coldOff s) (okey Reg.pwrSagStatus) 0 3 5)) ∧
  (∀ (s : State) (mv : Nat), s.vin = true → stage s ≠ 0 → stage s < 4 → leaveMv (stage s) ≤ mv →
    exec (.supplyStageLower mv) s =
      .next (sieWake (setStage { takeSample s mv with droop := s.droop && decide (1 < stage s) } (stage s - 1)))) ∧
  ∀ (s : State) (mv : Nat), s.vin = true → stage s = 4 → 11400 ≤ mv → inputLevel s 1 = false →
    exec (.supplyS4Recovery mv) s = .next (warmReset (setRfld (takeSample s mv) (okey Reg.pwrSagStatus) 0 4 0))

/-! ### Board inputs, the timebase and the test access port -/

/-- Inputs, time and the TAP: a raw edge counts (16 R536); a recognised input shows its level; FAULT_N enters S4, a tamper event wipes the secure
banks, counts and is device-fatal, a stuck input is told once (16 R537, R538, 15 R511); an accepted PPS edge latches the count to within
5 ns and a stray one counts as IGNORED (16 R535); the timebase is adjusted, and set while no partition is VALID (16 R533, R534); a heartbeat
writes the nine slots (14 R470); BYPASS, IDCODE and SAMPLE/PRELOAD leave the package running and every other TAP instruction holds it
(16 R541; the codes are the model's, log entry 7). -/
def Obligations.InputTimeAndTestPortCommands : Prop :=
  (∀ (s : State) (i : Nat), i < 5 →
    (s.boot ≠ .off → exec (.inputRawEdge i) s =
      .next (setRfld s (okey (Reg.pwrInput + 8 * i)) 16 16 (satNat 16 (ofld s (Reg.pwrInput + 8 * i) 16 16 + 1)))) ∧
    (s.boot ≠ .off → inputLevel s i = true → s.stuckTold.contains i = false → exec (.inputStuck i) s =
      .next { setRfld s (okey (Reg.pwrInput + 8 * i)) 2 1 1 with
        alertPulses := s.alertPulses + 1, stuckTold := s.stuckTold ++ [i] }) ∧
    ((i ≠ 4 ∨ s.warm ≠ 3) → exec (.inputDeassert i) s = .next { setLevel s i false with stuckTold := s.stuckTold.filter (· != i) }) ∧
    (i = 4 → s.warm = 3 → exec (.inputDeassert i) s = .next { setLevel s i false with
      stuckTold := s.stuckTold.filter (· != i), boot := .verifying, warm := 0 })) ∧
  (∀ s : State, exec .throttleAssert s = .next (setLevel s 0 true)) ∧
  (∀ s : State, inputOn s 1 = true → inputLevel s 1 = false → stage s < 4 → s.boot ≠ .off →
    exec .faultInAssert s = .next (enterS4 (setRfld (setLevel s 1 true) (okey Reg.pwrSagStatus) 3 1 1))) ∧
  (∀ s : State, s.boot ≠ .off →
    let fatal := fun u => deviceFatal (setRfld (wipeBanks u) (okey Reg.secStatus) 24 8 (satNat 8 (ofld s Reg.secStatus 24 8 + 1))) 6
    exec (.tamperEvent false) s = .next (fatal s) ∧
    (inputLevel s 2 = false → inputOn s 2 = true → exec (.tamperEvent true) s = .next (fatal (setLevel s 2 true)))) ∧
  (∀ (s : State) (interval : Nat), s.boot ≠ .off → ofld s Reg.tmbCtrl 4 1 ≠ 0 → inputOn s 3 = true →
    let s0 := setLevel s 3 true
    (s.ppsSince = false → exec (.ppsEdge interval) s = .next { s0 with ppsSince := true }) ∧
    (s.ppsSince = true → 999000000 ≤ interval → interval ≤ 1001000000 → ∃ c : Nat, c ≤ 10 ∧ exec (.ppsEdge interval) s =
      .next (setRfld (setReg { s0 with freeCount := s0.freeCount + 1 } (okey Reg.tmbPpsLatch) (now s + c - 5)) (okey Reg.tmbPpsStatus) 0 32
        (ofld s Reg.tmbPpsStatus 0 32 + 1))) ∧
    (s.ppsSince = true → (interval < 999000000 ∨ 1001000000 < interval) → exec (.ppsEdge interval) s =
      .next (setRfld s0 (okey Reg.tmbPpsStatus) 32 16 (satNat 16 (ofld s Reg.tmbPpsStatus 32 16 + 1))))) ∧
  (∀ s : State, exec .ppsSilence s = .next { s with ppsSince := false }) ∧
  (∀ (s : State) (view : Nat) (v : Word), view ≤ 8 → alive s = true →
    ((regAt s view Reg.tmbAdjust).isSome = true → exec (.tmbAdjust view v) s = .next { storeWord s view Reg.tmbAdjust v.toNat with adjFrac := 0 }) ∧
    (view = 8 → partsOf s = [] → exec (.tmbSet view v) s = .next (setReg { s with tmbFrac := 0 } (okey Reg.tmbCount) v.toNat)) ∧
    ((view ≠ 8 ∨ partsOf s ≠ []) → exec (.tmbSet view v) s = .next s)) ∧
  (∀ s : State, exec .tmbAdjustDone s = .next (setReg (setReg { s with adjFrac := 0 } (okey Reg.tmbCount)
    (now s + (toSigned 32 (ofld s Reg.tmbAdjust 0 32)).toNat)) (okey Reg.tmbAdjust) 0)) ∧
  (∀ s : State, alive s = true → exec .heartbeat s = .next ((List.range 9).foldl heartbeatOf s)) ∧
  ∀ s : State, exec .bypass s = .next { s with tapInstr := 0, tapOut := 0 } ∧
    exec .idcode s = .next { s with tapInstr := 1, tapOut := 0x14820000 + Config.manufacturer % 0x1000 } ∧
    (∃ x : Nat, exec .samplePreload s = .next { s with tapInstr := 2, tapOut := x, freeCount := s.freeCount + 1 }) ∧
    let held := fun code : Nat => { s with tapInstr := code, tapOut := 0, tapHeld := true }
    let down := fun code : Nat => (List.range 8).foldl (fun s sl => slotDown sl s) (replayDown ((List.range 16).foldl linkDrop (held code)))
    (s.boot = .off → exec .extest s = .next (held 3) ∧ exec .clamp s = .next (held 4) ∧ exec .highz s = .next (held 5)) ∧
    (s.boot ≠ .off → exec .extest s = .next (down 3) ∧ exec .clamp s = .next (down 4) ∧ exec .highz s = .next (down 5))

/-! ### Fabric ports and links -/

/-- Fabric ports: administration (11 R345, R348, R353), training, alignment and discovery (11 R348, R351, R352), link loss and drains (11 R350,
R353), flits with their sequence numbers, acknowledgements, replays and credits, and the packets that a data flit completes (11 R347, R349; log entry
15 for the credits), and spare lanes (11 R355 to R357). A port that leaves UP has its unacknowledged requests sent again (11 R379). -/
def Obligations.FabricPortCommands : Prop :=
  (∀ (s : State) (p : Nat) (v : Word), p < 16 → alive s = true →
    (bitAt v.toNat 8 = true → portAdmin s p = false → exec (.portAdminUp 8 p v) s =
      .next (startTrain (storeWord s 8 (Reg.fabPortCfg + 8 * p) v.toNat) p)) ∧
    (bitAt v.toNat 8 = false → portAdmin s p = true → exec (.portAdminDown 8 p v) s = .next (replayDown (drainPort (storeWord s 8
      (Reg.fabPortCfg + 8 * p) (setFieldOf v.toNat 0 7 (ofld s (Reg.fabPortCfg + 8 * p) 0 7))) p)))) ∧
  (∀ (s : State) (p : Nat), p < 16 →
    (portState s p = 1 → usableLanes (portOf s p) ≠ 0 → exec (.portTrained p) s = .next (healthRefresh (setPortState
      (setRfld s (okey (Reg.fabPortStatus + 8 * p)) 4 4 (usableLanes (portOf s p))) p (if isJarip s p then 2 else 7)))) ∧
    (portState s p = 1 → exec (.portTrainTimeout p) s = .next (linkDrop s p)) ∧
    (portState s p = 0 → mayTrain s p = true → exec (.portTrainRetry p) s =
      .next (setPortState (setPort s p { portOf s p with cfg := ofld s (Reg.fabPortCfg + 8 * p) 0 7 }) p 1)) ∧
    (portState s p = 2 → exec (.portAlignDone p) s = .next (sendRecord (setPortState s p 3) p)) ∧
    (portState s p = 5 → exec (.miswiredRetry p) s = .next (sendRecord s p)) ∧
    (2 ≤ portState s p → exec (.linkLoss p) s = .next (drained (replayDown (startTrain (linkDrop s p) p)))) ∧
    (portState s p = 4 → exec (.drain p) s = .next (setPortState s p 6)) ∧
    (portState s p = 6 → (portOf s p).sparing = none → (portOf s p).sent = [] → (portOf s p).held = [] →
      exec (.portDrainDone p) s = .next (drained (replayDown (linkDrop s p)))) ∧
    (((portOf s p).sparing ≠ none ∨ (portOf s p).sent ≠ [] ∨ (portOf s p).held ≠ []) →
      exec (.portDrainDone p) s = .next (drained (replayDown s)))) ∧
  (∀ (s : State) (p : Nat) (r : List Byte), p < 16 → (portState s p = 3 ∨ portState s p = 5) →
    let k := okey (Reg.fabPortStatus + 8 * p)
    let node := fieldOf (leField r 10 2) 0 12
    let gid := fieldOf (leField r 4 4) 0 18
    let s1 := setRfld (setRfld s k 16 12 node) k 32 18 gid
    let changed := rfld s k 16 12 ≠ node ∨ rfld s k 32 18 ≠ gid
    (recordOk s p r = true → exec (.discovery p r) s =
      .next (setPortState (grantCredits (setPort s1 p { portOf s1 p with nbrCaps := leField r 15 1 }) p) p 4)) ∧
    (recordOk s p r = false → recordHeard r = false → exec (.discovery p r) s = .next (setPortState s p 5)) ∧
    (recordOk s p r = false → recordHeard r = true → (portState s p = 3 ∨ ¬ changed) → exec (.discovery p r) s = .next (setPortState s1 p 5)) ∧
    (recordOk s p r = false → recordHeard r = true → portState s p = 5 → changed → exec (.discovery p r) s = .next (portEvent s1 p 5 5))) ∧
  (∀ (s : State) (p : Nat) (f : List Byte), p < 16 → flitPort s p = true →
    let h := leField f 0 4
    let x := flitAck { portOf s p with fails := 0 } (fieldOf h 12 12)
    let got := unpackPackets 9 (x.rxBytes ++ (f.drop 4).take 248)
    (flitGood f = true →
      (fieldOf h 24 4 = 0 → fieldOf h 0 12 = (x.rxLast + 1) % 4096 → exec (.flitData p f) s =
        .next (collGo (replayDown (got.1.foldl (fun s k => arrive p k s) (setPort s p { x with rxLast := fieldOf h 0 12, rxBytes := got.2 }))))) ∧
      ((fieldOf h 24 4 ≠ 0 ∨ fieldOf h 0 12 ≠ (x.rxLast + 1) % 4096) →
        exec (.flitData p f) s = .next (collGo (replayDown (setPort s p x)))) ∧
      (fieldOf h 24 4 = 2 → exec (.flitReplayRequest p f) s =
        .next (replayDown (x.sent.foldl (fun s g => emit s (.flit p g)) (setPort s p x)))) ∧
      (fieldOf h 24 4 = 3 → exec (.flitCreditUpdate p f) s = .next (replayDown (pumpPort (grantCredits (setPort s p x) p) p)))) ∧
    (flitGood f = false → (portOf s p).fails < 15 →
      let t := setPort (emit s (.flit p (flitBytes (portOf s p).txSeq (portOf s p).rxLast 2 []))) p { portOf s p with fails := (portOf s p).fails + 1 }
      exec (.flitData p f) s = .next (collGo (replayDown t)) ∧ exec (.flitReplayRequest p f) s = .next (replayDown t) ∧
      exec (.flitCreditUpdate p f) s = .next (replayDown t)) ∧
    (flitGood f = false → (portOf s p).fails = 15 → exec (.flitData p f) s = .next (collGo (replayDown (startTrain (linkDrop s p) p))))) ∧
  ∀ (s : State) (p lane : Nat), p < 16 → lane < 8 → 1 ≤ portRole s p → portRole s p ≤ 4 →
    let k := okey (Reg.fabPortStatus + 8 * p)
    let x := (portOf s p).wear lane
    let s1 := setPort s p x
    let s2 := setRfld s1 k 8 1 (b2n (!x.spares.isEmpty))
    let steer := setPort s1 p { x with sparing := some lane }
    let mover := portState s p = 4 ∧ stage s < 2
    let partner := portState s p = 6 ∧ (portOf s p).sparing = none ∧ portAdmin s p = true
    (freeSpare s1 p ≠ none → mover → exec (.laneWear p lane) s = .next (healthRefresh (replayDown (drainPort steer p)))) ∧
    (freeSpare s1 p ≠ none → partner → exec (.laneWear p lane) s = .next (healthRefresh (replayDown steer))) ∧
    ((freeSpare s1 p = none ∨ (¬ mover ∧ ¬ partner)) →
      exec (.laneWear p lane) s = .next (healthRefresh (replayDown (if portState s p = 0 then s2 else if usableLanes x = 0 then linkDrop s2 p
        else setRfld s2 k 4 4 (usableLanes x))))) ∧
    ∀ i, portState s p = 6 → (portOf s p).sparing = some lane → freeSpare s p = some i →
      let t := setPort s p { portOf s p with sparing := none, spares := (portOf s p).spares ++ [(lane, i)] }
      exec (.laneSpareDone p) s = .next (healthRefresh (setPortState (report (bumpEpoch (portWidth t p)) 0x09 0 10 (unitField 10 p) none 0
        (leBytes 1 3 ++ leBytes 2 (8 * p + lane) ++ leBytes 2 (8 * (p % 8) + lane) ++ leBytes 2 (64 + i) ++ leBytes 1 (lanesLeft t (p / 8)))) p 2))

/-! ### Vat requests, packets and their timers -/

/-- Vat traffic: the request that may go first of a bound job is kept under the pair's next number and sent, a RESYNC before it after a failure, one with
no binding ends at its requester, and an F-die that is off answers with an error (02 R51, 11 R362, R365, R366, R374); an arriving
request that is early is held or answered with a NACK, one in order is accepted, one behind is acknowledged again (11 R367); READ_RESP,
ACK and REJECT end the requests they name (11 R363, R368); NACK and its backoff, the retransmit timer and a dead target (11 R369, R372,
R379); RESYNC (11 R374); transit (11 R371, R378); FENCE waits for every pair in its scope (11 R381, R382). -/
def Obligations.FabricRequestCommands : Prop :=
  (∀ (s : State) (f : Nat) (q0 : VatReq), f < 2 → alive s = true → stage s < 4 →
    let q := (splitReq q0).1
    let s1 := match (splitReq q0).2 with
      | none => { s with vatQueue := s.vatQueue.erase q0 }
      | some r => morePart { s with vatQueue := s.vatQueue.map (fun y => if y = q0 then r else y) } q.src
    let k := srcKey q.part f q.node
    let x := srcOf s k
    (∀ n, domainOpen s (4 + f) = true → nextVat s f = some q0 → boundJob s q.part = some n →
      let pkt := { vatPacket s f n q with seq := BitVec.ofNat 16 x.next }
      let sent := sendPacket (if x.resync.isSome then (sendPacket s1 (syncOf pkt)).1 else s1) pkt
      exec (.vatRequestIssue f) s = .next (setSrc sent.1 k { srcOf sent.1 k with
        next := (x.next + 1) % 65536, resync := none
        reqs := x.reqs ++ [⟨x.next, q.src, q.part, q.len, pkt, 0, sent.2, s.tick, x.resync.isSome⟩] }) ∧
      pkt.ptype.toNat = min q.op 2 % 256 ∧ pkt.dest = BitVec.ofNat 12 q.node ∧ pkt.src = BitVec.ofNat 12 (nodeId s) ∧
      pkt.offset = BitVec.ofNat 48 q.off ∧ pkt.data = q.data ∧
      pkt.job.toNat = fieldOf (reg s (okey (Reg.fabJob + 32 * n))) 16 16 ∧ pkt.key.toNat = fieldOf (reg s (okey (Reg.fabJob + 32 * n))) 32 32) ∧
    (domainOpen s (4 + f) = true → nextVat s f = some q0 → boundJob s q.part = none → exec (.vatRequestIssue f) s =
      .next (vatEnd { s with vatQueue := s.vatQueue.erase q0 } ⟨0, q.src, q.part, q.len, vatPacket s f 0 q, 0, none, s.tick, false⟩ .addr)) ∧
    (domainOpen s (4 + f) = false → s.vatQueue.find? (fun y => y.fdie == f) = some q0 → exec (.vatRequestIssue f) s =
      .next (vatEnd { s with vatQueue := s.vatQueue.erase q0 } ⟨0, q0.src, q0.part, q0.len, vatPacket s f 0 q0, 0, none, s.tick, false⟩ .off))) ∧
  (∀ (s : State) (k : Packet) (t : Nat), alive s = true → stage s < 4 → k.age.toNat + t ≤ 250 → k.hops.toNat < 40 → k.dest.toNat ≠ nodeId s →
    exec (.packetForward k t) s =
      .next (sendPacket s { k with age := BitVec.ofNat 16 (k.age.toNat + t), hops := BitVec.ofNat 8 (k.hops.toNat + 1) }).1) ∧
  (∀ (s : State) (k : Packet) (c : Instr), (k.ptype = 0#8 ∧ c = .pktRead k ∨ k.ptype = 1#8 ∧ c = .pktWrite k ∨ k.ptype = 2#8 ∧ c = .pktAtomic k) →
    alive s = true → stage s < 4 → s.tapHeld = false → k.dest.toNat = nodeId s →
    let x := dstOf s (dstKey k)
    let d := seqDiff k.seq.toNat x.expected
    let a := acceptReq mordantAct s k
    (d = 0 → a.2 = true → exec c s = .next (collGo (acceptHeld mordantAct (dstKey k) x.held.length a.1))) ∧
    (d = 0 → a.2 = false → exec c s = .next (collGo a.1)) ∧
    (0 < d → d < 32768 → x.held.any (fun y => y.seq == k.seq) = false → x.held.length < Config.reorderSpace →
      exec c s = .next (collGo (setDst s (dstKey k) { x with held := x.held ++ [k] }))) ∧
    (0 < d → d < 32768 → x.held.any (fun y => y.seq == k.seq) = false → Config.reorderSpace ≤ x.held.length →
      exec c s = .next (collGo (reply s k 5 x.expected []))) ∧
    (32768 ≤ d → exec c s = .next (collGo (reply s k 4 ((x.queued.headD x.expected + 65535) % 65536) [])))) ∧
  (∀ (s : State) (k : Packet), k.dest.toNat = nodeId s →
    let key := replyKey k
    let x := srcOf s key
    (∀ q, x.reqs.find? (fun q => q.seq == k.seq.toNat) = some q →
      let s1 := setSrc s key { x with reqs := x.reqs.filter (fun y => y.seq != q.seq) }
      exec (.readResp k) s = .next (collGo (fencesSee (vatEnd s1 q (.data k.data)) key [])) ∧
      exec (.reject k) s = .next (collGo (fencesSee (vatEnd s1 q .reject) key [q.seq]))) ∧
    (∀ hit : SrcReq → Bool, hit = (fun q => decide (seqDiff k.seq.toNat q.seq < 32768) &&
        (q.pkt.ptype == 1 || q.pkt.ptype == 8 || (q.pkt.ptype == 2 && !bitAt q.pkt.aop.toNat 7))) →
      x.reqs.any hit = true → exec (.ack k) s = .next (collGo (fencesSee ((x.reqs.filter hit).foldl (fun s q => vatEnd s q .done)
        (setSrc s key { x with reqs := x.reqs.filter (fun q => !hit q) })) key []))) ∧
    (x.reqs ≠ [] → exec (.nack k) s = .next (setSrc s key { x with
      backoff := some k.seq.toNat
      reqs := x.reqs.map (fun q => if seqDiff q.seq k.seq.toNat < 32768 then { q with nacks := q.nacks + 1 } else q) })) ∧
    let y := dstOf s (dstKey k)
    let old := y.synced = some k.seq.toNat ∧ seqDiff y.expected k.seq.toNat < 32768
    (¬ old → exec (.resync k) s = .next (setDst s (dstKey k) { y with expected := k.seq.toNat, held := [], synced := some k.seq.toNat })) ∧
    (old → exec (.resync k) s = .next s)) ∧
  (∀ (s : State) (id : PairId), id.part < 8 → id.fdie < 2 → id.node < 4096 →
    let key := srcKey id.part id.fdie id.node
    let x := srcOf s key
    (∀ k, x.backoff = some k → exec (.nackBackoffExpiry id) s = .next
      ((x.reqs.filter (fun q => decide (seqDiff q.seq k < 32768))).foldl (fun s q => resend s key q) (setSrc s key { x with backoff := none }))) ∧
    (∀ (seq : BitVec 16) q, x.reqs.find? (fun q => q.seq == seq.toNat) = some q → exec (.retransmitTimer id seq) s = .next (resend s key q)) ∧
    ∀ seq : BitVec 16, x.reqs.any (fun q => q.seq == seq.toNat) = true → exec (.deadTargetTimeout id seq) s =
      .next (collGo (fencesSee (x.reqs.foldl (fun s q => vatEnd s q .dead)
        (setSrc s key { x with reqs := [], resync := some s.tick, backoff := none })) key (x.reqs.map (·.seq))))) ∧
  ∀ (s : State) (r : Nat) (seq : BitVec 32) (d : Desc), r < 4096 → startable s r seq 8 0 = some d → d.fld 20 1 = 0 →
    s.vatQueue.any (fun q => q.part == d.part && (match q.src with | .hart _ _ _ => true | _ => false)) = false →
    let waits := (s.srcPairs.filter (fun e => e.1 / 8192 == d.part && !e.2.reqs.isEmpty)).map (fun e => (e.1, (e.2.next + 65535) % 65536))
    exec (.fence r seq) s = .next (fenceEnd (startWork s r d (.fence ⟨waits, []⟩)) r { d with phase := .running } ⟨waits, []⟩)

/-! ### Ethernet -/

/-- The network: a NET descriptor that does not name a QP in RTS on its own ring fails; WRITE, WRITE_IMM, SEND, SEND_IMM and READ put the message on
the wire under the QP's next PSNs, RECV queues its buffer, MODIFY moves the QP to a state the context may go to (11 R387 to R389); a frame
that is not RoCEv2 is counted, a request ahead of sequence draws a sequence NAK (11 R385, R386); retries run out into ERROR (11 R390); a
CNP cuts the rate and a quiet period recovers it (11 R391). -/
def Obligations.EthernetCommands : Prop :=
  (∀ (s : State) (r op : Nat) (seq : BitVec 32) (d : Desc) (c : Instr),
    (op = 0 ∧ c = .netWrite r seq ∨ op = 1 ∧ c = .netWriteImm r seq ∨ op = 2 ∧ c = .netSend r seq ∨ op = 3 ∧ c = .netSendImm r seq ∨
      op = 4 ∧ c = .netRead r seq ∨ op = 5 ∧ c = .netRecv r seq) →
    r < 4096 → startable s r seq 7 op = some d →
    let qpn := d.fld 20 2
    let q := qpOf s d.part qpn
    ((qpCount s d.part ≤ qpn ∨ q.st ≠ 3 ∨ neeFenced s q = true ∨ (if op = 5 then q.rring else q.sring) ≠ r) →
      exec c s = .next (endDesc s r d St.netQp 0)) ∧
    (qpn < qpCount s d.part → q.st = 3 → neeFenced s q = false → (if op = 5 then q.rring else q.sring) = r →
      (op = 5 → exec c s = .next (setQp (startWork s r d (.net qpn)) d.part qpn { q with recvs := q.recvs ++ [(r, seq)] })) ∧
      ∀ o bs, op ≠ 5 → (op = 4 → (q.ops.filter (fun o => o.op == 4)).length < 16) → netMessage s d op = .ok (o, bs) →
        exec c s = .next (sendFrame (setQp (startWork s r d (.net qpn)) d.part qpn { q with
          sendPsn := (q.sendPsn + q.packets (d.fld 32 4)) % 2 ^ 24
          ops := q.ops ++ [⟨r, seq, op, q.sendPsn, q.packets (d.fld 32 4)⟩] }) q q.sendPsn o bs))) ∧
  (∀ (s : State) (r : Nat) (seq : BitVec 32) (d d1 : Desc) (ctx : List Byte), r < 4096 → startable s r seq 7 6 = some d →
    let qpn := d.fld 20 2
    let q := qpOf s d.part qpn
    qpn < qpCount s d.part → readVa s d.part (pfld s d.part Reg.ethQpcBase 7 41 * 128 + 128 * qpn) 64 = .ok ctx → q.sring = r →
    leField ctx 0 1 = q.st + 1 → 1 ≤ leField ctx 0 1 → leField ctx 0 1 ≤ 3 →
    let q1 := { q with st := leField ctx 0 1, ctx := ctx }
    let rate := portRate s q1.port
    let q2 := if leField ctx 0 1 = 2 then { q1 with recvPsn := leField ctx 16 3 }
      else if leField ctx 0 1 = 3 then { q1 with sendPsn := leField ctx 12 3, rate := rate, target := rate, alpha := 1, periods := 0 } else q1
    let s2 := qpTouch (setQp s d.part qpn q2) d.part qpn
    findDesc s2 r seq = some d1 → exec (.netModify r seq) s = .next (settleAll (completeOne s2 r d1 St.ok 0 false))) ∧
  (∀ (s : State) (p : Nat) (f : Frame), p < 8 →
    (f.rocev2 = false → exec (.roceFrameReceive p f) s = .next { s with otherFrames := s.otherFrames + 1 }) ∧
    (f.rocev2 = true → f.icrcOk = true → qpBase s p ≤ f.qp → f.qp - qpBase s p < qpCount s p → alive s = true → f.ce = false →
      let qpn := f.qp - qpBase s p
      let q := qpOf s p qpn
      let diff := (f.psn.toNat + 2 ^ 24 - q.recvPsn) % 2 ^ 24
      neeFenced s q = false → (q.st = 2 ∨ q.st = 3) →
      (isRequest f = true → diff = 0 → exec (.roceFrameReceive p f) s = .next (serveRequest s p qpn q f)) ∧
      (isRequest f = true → 0 < diff → diff < 2 ^ 23 → exec (.roceFrameReceive p f) s =
        .next (sendFrame s q q.recvPsn (.nakSequence (BitVec.ofNat 24 q.recvPsn)) [])) ∧
      (isRequest f = false → q.st = 3 → exec (.roceFrameReceive p f) s = .next (serveAnswer s p qpn q f)))) ∧
  ∀ (s : State) (p qpn : Nat), p < 8 → qpn < 65536 → (qpOf s p qpn).st = 3 →
    let q := qpOf s p qpn
    (∀ o rest, q.ops = o :: rest →
      (q.retries < q.retryMax → exec (.qpRetryTimeout p qpn false) s = .next (resendFrom (setQp s p qpn { q with retries := q.retries + 1 }) p qpn o.psn)) ∧
      (q.retryMax ≤ q.retries → exec (.qpRetryTimeout p qpn false) s = .next (qpFlush s p qpn St.netQp 4)) ∧
      (q.rnrs < q.rnrMax → exec (.qpRetryTimeout p qpn true) s = .next (resendFrom (setQp s p qpn { q with rnrs := q.rnrs + 1 }) p qpn o.psn)) ∧
      (q.rnrMax ≤ q.rnrs → exec (.qpRetryTimeout p qpn true) s = .next (qpFlush s p qpn St.netQp 4))) ∧
    exec (.cnpReceive p qpn) s = .next (setQp s p qpn { q with
      target := q.rate, rate := clampRate s q.port (q.rate * (1 - q.alpha / 2))
      alpha := (1 - 1 / 256) * q.alpha + 1 / 256, periods := 0 }) ∧
    exec (.rateRecoveryPeriod p qpn) s = .next (setQp s p qpn { q with
      alpha := q.alpha * (1 - 1 / 256), rate := clampRate s q.port ((q.rate + q.target) / 2)
      target := if (q.periods + 1) % 5 = 0 then clampRate s q.port (q.target + 5000) else q.target, periods := q.periods + 1 })

/-! ### Collectives, inter-stage queues and Mordant packets -/

/-- Collectives: an invalid descriptor fails with COLLECTIVE_INVALID; ALLREDUCE, REDUCE, BROADCAST and BARRIER put their operation in line with the
lanes they give (12 R396, R407), one whose sum depends on order fails in Colourfast mode and sends nothing (13 R431), BULK_ALLREDUCE puts the
check of its parameters in line (12 R408), ALLTOALLV starts its first phase (12 R410), QPUSH, QPOP and QRELEASE of an item in turn start
and one out of turn fails (12 R414 to R416), and a queue operation that waits too long fails (12 R417). A tree edge's packet is a request of
its pair: in turn it is checked, acknowledged and acts, early it is held or answered with a NACK, behind it is acknowledged again (12 R405,
R406, R426, 11 R363, R367); a partial, a result, a failure and a NACK of a node's own tree act on its context, and its timers on a silent
child or parent (12 R397, R398, R403 to R406). Whatever can go on then does (`collGo`). -/
def Obligations.CollectiveCommands : Prop :=
  (∀ (s : State) (r op : Nat) (seq : BitVec 32) (d : Desc) (c : Instr),
    (op = 0 ∧ c = .allreduce r seq ∨ op = 1 ∧ c = .reduce r seq ∨ op = 2 ∧ c = .broadcast r seq ∨ op = 3 ∧ c = .barrier r seq) →
    r < 4096 → startable s r seq 9 op = some d →
    let n := d.fld 21 1
    let gives := op = 0 ∨ op = 1 ∨ op = 2 ∧ morRank s (d.fld 20 1) = d.fld 26 2
    let fmts := (List.range n).map (fun i => d.fld (22 + i) 1)
    let start := fun lanes => pushOp (startWork s r d .idle) r d op fmts lanes (d.fld 26 2) 0
    let loose := pfld s d.part Reg.detCtrl 0 1 = 1 ∧ op ≤ 2 ∧ bitAt (groupWord s (d.fld 20 1)) 1 = false ∧ (5 ∈ fmts ∨ 6 ∈ fmts)
    (morBodyOk s d = false → exec c s = .next (collGo (endDesc s r d St.collInvalid 0))) ∧
    (morBodyOk s d = true → loose → exec c s = .next (collGo (endDesc s r d St.colourfast 0))) ∧
    (∀ bs, morBodyOk s d = true → ¬ loose → gives → readVa s d.part (d.fld 32 6) (16 * n) = .ok bs → exec c s = .next (collGo (start (lanesOf n bs)))) ∧
    (∀ e, morBodyOk s d = true → ¬ loose → gives → readVa s d.part (d.fld 32 6) (16 * n) = .error e →
      exec c s = .next (collGo (endMem s r d St.dmaAddress e 0))) ∧
    (morBodyOk s d = true → ¬ loose → ¬ gives → exec c s = .next (collGo (start [])))) ∧
  (∀ (s : State) (r : Nat) (seq : BitVec 32) (d : Desc), r < 4096 →
    (startable s r seq 9 4 = some d → bulkBodyOk s d = true → ∃ (w : BulkWork) (check : Nat), w.stage = 0 ∧
      check = crc64 0 (leBytes 1 (d.fld 21 1) ++ leBytes 4 (d.fld 24 4) ++ leBytes 6 (d.fld 38 6)) ∧
      exec (.bulkAllreduce r seq) s = .next (collGo (pushOp (startWork s r d (.bulk w)) r d 0 [0x0B, 0x13] [check, check] 0 0))) ∧
    (startable s r seq 9 5 = some d → atoaBodyOk s d = true → ∃ nodes : List Nat,
      (∀ i, i ∈ nodes → ∃ k, k < (groupTree s (d.fld 20 1)).size ∧ i = (groupTree s (d.fld 20 1)).node s ((groupTree s (d.fld 20 1)).place k)) ∧
      exec (.alltoallv r seq) s = .next (collGo (startWork s r d (.atoa ⟨1, false, 0, false, nodes, []⟩)))) ∧
    (startable s r seq 9 4 = some d → bulkBodyOk s d = false → exec (.bulkAllreduce r seq) s = .next (collGo (endDesc s r d St.collInvalid 0))) ∧
    (startable s r seq 9 5 = some d → atoaBodyOk s d = false → exec (.alltoallv r seq) s = .next (collGo (endDesc s r d St.collInvalid 0)))) ∧
  (∀ (s : State) (r op : Nat) (seq : BitVec 32) (d : Desc) (b : List Byte) (c : Instr),
    (op = 6 ∧ c = .qpush r seq ∨ op = 7 ∧ c = .qpop r seq ∨ op = 8 ∧ c = .qrelease r seq) →
    r < 4096 → startable s r seq 9 op = some d → d.fld 28 4 ≤ 60000 → readVa s d.part (d.fld 32 6) 64 = .ok b → qcbOk b = true →
    boundJob s d.part ≠ none →
    let right := if op = 8 then d.fld 20 8 = leField b 48 8 ∧ d.fld 20 8 < leField b 40 8 else d.fld 20 8 = leField b 40 8
    (right → exec c s = .next (collGo (startWork s r d (.queue ⟨b, true, 0⟩)))) ∧
    (¬ right → exec c s = .next (collGo (endDesc s r d St.queueOrder 0)))) ∧
  (∀ (s : State) (r : Nat) (seq : BitVec 32) (d : Desc) (w : QueueWork), r < 4096 → runningDesc s r seq 9 = some d → d.work = .queue w →
    w.waiting = true → exec (.queueTimeout r seq) s = .next (endDesc s r d St.queueTimeout 0)) ∧
  (∀ (s : State) (k : MPacket) (c : Instr),
    (k.kind.toNat < 4 ∧ (k.phase = 0#2 ∧ c = .mordantPartial k ∨ k.phase = 1#2 ∧ c = .mordantResult k ∨ k.phase = 2#2 ∧ c = .mordantFail k ∨
      k.phase = 3#2 ∧ c = .mordantNack k)) →
    alive s = true → stage s < 4 → s.tapHeld = false →
    let w := mordantBytes k (nodeId s)
    let x := dstOf s (dstKey w)
    let n := seqDiff k.seq.toNat x.expected
    let s0 := setDst s (dstKey w) { x with expected := (x.expected + 1) % 65536 }
    let goesOn := fun s => acceptHeld mordantAct (dstKey w) x.held.length s
    (n = 0 → edgeCheck s w = .grant 0 0 → exec c s = .next (collGo (goesOn (mordantAct w (reply s0 w 4 (ackNumber s0 (dstKey w)) []))))) ∧
    (n = 0 → edgeCheck s w = .refuse → exec c s = .next (collGo (goesOn (refuseReq s0 w)))) ∧
    (n = 0 → edgeCheck s w = .discard →
      exec c s = .next (collGo (refusedRecord { s with retiredDiscards := s.retiredDiscards + 1 } w 0 2#8))) ∧
    (0 < n → n < 32768 → x.held.any (fun y => y.seq == k.seq) = false →
      (x.held.length < Config.reorderSpace → exec c s = .next (collGo (setDst s (dstKey w) { x with held := x.held ++ [w] }))) ∧
      (Config.reorderSpace ≤ x.held.length → exec c s = .next (collGo (reply s w 5 x.expected [])))) ∧
    (32768 ≤ n → exec c s = .next (collGo (reply s w 4 (ackNumber s (dstKey w)) [])))) ∧
  (∀ (k : MPacket) (node : Nat), mordantOf (mordantBytes k node) = k) ∧
  (∀ (s : State) (k : MPacket) (c : MCtx) (node : Nat), alive s = true → s.tapHeld = false → morAllowed s k = true → k.kind.toNat < 4 →
    let g := k.group.toNat
    let kids := (groupTree s g).kids s (nodeId s)
    let act := mordantAct (mordantBytes k node) s
    morCtx s g k.opseq.toNat = some c →
    (k.phase = 0#2 → kids.contains k.src.toNat = true → c.got.any (fun x => x.1 == some k.src.toNat) = false → c.fail = none →
      let c1 := { c with got := c.got ++ [(some k.src.toNat, lanesOf k.nlanes.toNat k.payload)] }
      (c.hdr = packetHdr k → act = morAdvance s c1) ∧ (c.hdr ≠ packetHdr k → act = morFailUp (setCtx s c1) c1 (0, 0))) ∧
    (k.phase = 2#2 → (groupTree s g).parent s (nodeId s) ≠ some k.src.toNat → kids.contains k.src.toNat = true → c.ended = false →
      act = morFailUp s c (leField k.payload 0 2 % 4096, leField k.payload 2 2)) ∧
    ((groupTree s g).parent s (nodeId s) = some k.src.toNat →
      (k.phase = 1#2 → c.val ≠ none → act = morDeliver s c (lanesOf k.nlanes.toNat k.payload)) ∧
      (k.phase = 2#2 → act = morEndFail s c (leField k.payload 0 2 % 4096, leField k.payload 2 2)) ∧
      (k.phase = 3#2 → c.val ≠ none → act = setCtx s { c with nacked := true }))) ∧
  ∀ (s : State) (g : Nat) (q : BitVec 16) (c : MCtx), g < 256 → morCtx s g q.toNat = some c →
    (∀ v p, c.nacked = true → c.val = some v → (groupTree s g).parent s (nodeId s) = some p → exec (.mordantResend g q) s =
      .next (sendMordant (setCtx s { c with nacked := false }) p (morPacket s c 0 (laneBytes v)))) ∧
    (∀ child : BitVec 12, c.own ≠ none → c.val = none → ((groupTree s g).kids s (nodeId s)).contains child.toNat = true →
      c.got.any (fun x => x.1 == some child.toNat) = false →
      exec (.mordantChildTimeout g q child) s = .next (collGo (morFailUp s c (child.toNat, 1)))) ∧
    ∀ op v p, c.own = some op → c.val = some v → (groupTree s g).parent s (nodeId s) = some p → exec (.mordantMemberTimeout g q) s =
      .next (collGo (opAnswer (dropCtx s c) op (.error (St.remoteDead, p))))

/-! ### Launch and teardown -/

/-- Launching a job: an invalid LAUNCH or TEARDOWN fails; a valid one starts its tree, a TEARDOWN with this node's own commit (12 R419, R420,
R424); PREPARE and TEARDOWN_PACKET go on to the children and are acknowledged (12 R420, R424); a node that has prepared answers
PREPARED, BUSY or REFUSED and its report goes up (12 R420 to R422); COMMIT installs the job, ABORT releases it (12 R423); a child silent
beyond its limit is failed and its children are adopted (12 R420); the root asks busy nodes again and gives them up (12 R422); a retired
entry is scrubbed and becomes FREE (12 R424). A launch packet is a request of its pair, as every tree edge's is: in turn it is acknowledged
and acts, early it is held or answered with a NACK, behind it is acknowledged again (12 R426, 11 R367). -/
def Obligations.LaunchCommands : Prop :=
  (∀ (s : State) (r : Nat) (seq : BitVec 32) (d : Desc), r < 4096 →
    let start := fun phase => launchStart (startWork s r d .idle) (d.fld 20 2) (d.fld 24 4) phase (launchShape d) none (some (r, seq))
    (startable s r seq 0x0A 0 = some d →
      (launchDescOk s d = false → exec (.launch r seq) s = .next (endDesc s r d St.collInvalid 0)) ∧
      (launchDescOk s d = true → exec (.launch r seq) s = .next (launchGo (start 0).1 (start 0).2))) ∧
    (startable s r seq 0x0A 1 = some d →
      (launchDescOk s d = false → exec (.teardown r seq) s = .next (endDesc s r d St.collInvalid 0)) ∧
      (launchDescOk s d = true → exec (.teardown r seq) s =
        .next (launchGo (launchDo (start 2).1 (start 2).2).1 (launchDo (start 2).1 (start 2).2).2)))) ∧
  (∀ (s : State) (k : MPacket) (c : Instr),
    (k.kind = 8#4 ∧ c = .prepare k ∨ k.kind = 9#4 ∧ c = .launchAck k ∨ k.kind = 10#4 ∧ c = .report k ∨ k.kind = 11#4 ∧ c = .notice k ∨
      k.kind = 12#4 ∧ c = .commit k ∨ k.kind = 13#4 ∧ c = .launchAbort k ∨ k.kind = 14#4 ∧ c = .teardownPacket k) →
    alive s = true → stage s < 4 → s.tapHeld = false →
    let w := mordantBytes k (nodeId s)
    let x := dstOf s (dstKey w)
    let n := seqDiff k.seq.toNat x.expected
    let s0 := setDst s (dstKey w) { x with expected := (x.expected + 1) % 65536 }
    (n = 0 → exec c s =
      .next (acceptHeld mordantAct (dstKey w) x.held.length (mordantAct w (reply s0 w 4 (ackNumber s0 (dstKey w)) [])))) ∧
    (0 < n → n < 32768 → x.held.any (fun y => y.seq == k.seq) = false →
      (x.held.length < Config.reorderSpace → exec c s = .next (setDst s (dstKey w) { x with held := x.held ++ [w] })) ∧
      (Config.reorderSpace ≤ x.held.length → exec c s = .next (reply s w 5 x.expected []))) ∧
    (32768 ≤ n → exec c s = .next (reply s w 4 (ackNumber s (dstKey w)) []))) ∧
  (∀ (s : State) (k : MPacket) (node : Nat), alive s = true → s.tapHeld = false → launchOf s k.job.toNat k.key.toNat = none →
    ((shapeTree k.payload []).rank s (nodeId s)).isSome = true →
    let act := mordantAct (mordantBytes k node) s
    let start := fun phase => launchStart s k.job.toNat k.key.toNat phase k.payload (some k.src.toNat) none
    let acked := fun phase => launchSend (start phase).1 (start phase).2 k.src.toNat 9 0 []
    (k.kind = 8#4 → (shapeTree k.payload []).fits s = true → act = launchGo (acked 0) (start 0).2) ∧
    (k.kind = 14#4 → act = launchGo (launchDo (acked 2) (start 2).2).1 (launchDo (acked 2) (start 2).2).2)) ∧
  (∀ (s : State) (k : MPacket) (x : LaunchSt) (node : Nat), alive s = true → s.tapHeld = false → launchOf s k.job.toNat k.key.toNat = some x →
    let act := mordantAct (mordantBytes k node) s
    (k.kind = 9#4 → act = setLaunch s (updKid x k.src.toNat (fun c => { c with acked := true }))) ∧
    (k.kind = 10#4 → x.kids.any (fun c => c.node == k.src.toNat) = true → act = launchGo s (updKid x k.src.toNat (fun c =>
      { c with
        acked := true
        counts := some (leField k.payload 16 4, leField k.payload 20 4, leField k.payload 24 4, leField k.payload 28 4) }))) ∧
    (k.kind = 11#4 → x.root ≠ none → x.phase ≠ 1 →
      let n := leField k.payload 32 2 % 4096
      act = launchGo s (if x.failed.contains n then x else { x with failed := x.failed ++ [n] })) ∧
    (k.kind = 12#4 → x.phase = 0 → x.answer = 1 →
      let c := launchCommitAll s { x with parent := some k.src.toNat } k.payload
      act = launchGo c.1 c.2) ∧
    (k.kind = 13#4 → x.phase = 0 → act = launchAbortAll s x)) ∧
  (∀ (s : State) (job : BitVec 16) (key : BitVec 32) (x : LaunchSt), alive s = true → launchOf s job.toNat key.toNat = some x →
    (x.phase = 0 → x.answer = 0 →
      let y := launchAnswer s x
      (∀ p, y.answer = 1 → y.part = some p →
        exec (.launchPrepared job key) s = .next (launchGo (setRfld s (okey (Reg.morAdmit + 16 * p)) 17 2 1) y)) ∧
      (y.answer = 2 → exec (.launchPrepared job key) s = .next (launchGo s y)) ∧
      (y.answer = 3 → exec (.launchPrepared job key) s = .next (launchGo (launchNotice s y (nodeId s)).1 (launchNotice s y (nodeId s)).2))) ∧
    (∀ n : BitVec 12, x.phase ≠ 1 →
      (x.kids.any (fun k => k.node == n.toNat && !k.acked) = true →
        exec (.launchAckTimeout job key n) s = .next (launchSilent s x n.toNat)) ∧
      (x.kids.any (fun k => k.node == n.toNat && k.counts.isNone) = true →
        exec (.launchReportTimeout job key n) s = .next (launchSilent s x n.toNat))) ∧
    (x.parent = none → x.phase = 0 → exec (.launchBusyRetry job key) s = .next (launchGo (launchAgain s x).1 (launchAgain s x).2)) ∧
    ∀ n : BitVec 12, n.toNat = nodeId s → x.phase = 0 → x.busy = true → x.answer = 2 →
      exec (.launchBusyExpiry job key n) s =
        .next (launchGo (launchNotice s { x with answer := 4 } n.toNat).1 (launchNotice s { x with answer := 4 } n.toNat).2)) ∧
  ∀ (s : State) (e p : Nat), e < 64 → alive s = true → retiredPart s e = some p →
    let lo := ofld s (Reg.fabJob + 32 * e + 8) 21 27 * 0x200000
    let scrub := ofld s (Reg.morAdmit + 16 * p) 17 2
    (scrub = 3 → exec (.jobScrubDone e) s =
      .next (setRfld (zeroWindow s p lo (lo + ofld s (Reg.fabJob + 32 * e + 16) 0 27 * 0x200000)) (okey (Reg.morAdmit + 16 * p)) 17 2 0)) ∧
    (scrub ≠ 3 → exec (.jobEntryFree e) s = .next (setBoth s (Reg.fabJob + 32 * e) (setFieldOf (reg s (okey (Reg.fabJob + 32 * e))) 0 2 0)))

/-! ### Units, errors, spares and Swatch -/

/-- Units and spares: an error's record and the action of its class, a second error fences (14 R443, R448), what an ECC
error leaves behind (09 R291 to R294), an unwritable record is device-fatal (14 R451); a unit leaves HANDLING, is cleared and tested (14 R448, R450); merge windows end in one record (14 R458); wear, spare requests
and the tile, core and Lake way spares (14 R462 to R467); Swatch loads, runs, retries and reports patterns (14 R472 to R475). Where a free
spare is taken it is one that is free, which one is open. -/
def Obligations.UnitAndSpareCommands : Prop :=
  (∀ (s : State) (e : ErrEvent), alive s = true → (e.unitType = 0 ∨ unitIndex e.unit < unitCount e.unitType) →
    let ix := unitIndex e.unit
    let u := unitOf s e.unitType ix
    let first := (e.unitType, e.unit)
    (u.st = 2 → exec (.unitError e) s = .next (collGo s)) ∧
    (u.st ≠ 2 → e.writable = false → exec (.unitError e) s = .next (collGo (deviceFatal s 1))) ∧
    let s1 := (errEmit (eccEffect e s) e).1
    let wrote := (errEmit (eccEffect e s) e).2
    (e.writable = true → e.unitType ≠ 0 → u.st = 1 → exec (.unitError e) s = .next (collGo
      (fenceUnit (strike s1 { e with cls := min e.cls 2 } wrote) e.unitType ix (u.first.getD first)))) ∧
    (e.writable = true → e.unitType ≠ 0 → u.st = 0 →
      let s2 := setUnit s1 e.unitType ix { u with st := 1, first := some first }
      (e.cls = 3 → exec (.unitError e) s = .next (collGo (fenceUnit (strike s2 e wrote) e.unitType ix first))) ∧
      (e.cls ≠ 3 → let t := classAction s2 e wrote
        let load := e.unitType = 9 ∧ e.cls = 2 ∧ e.struck = false ∧ (e.kind = 1 ∨ e.kind = 2) ∧ hartReady t ix = true
        (load → exec (.unitError e) s = .next (collGo (setHart t ix ((hartOf t ix).trapped 5 e.addr 0)))) ∧
        (¬ load → exec (.unitError e) s = .next (collGo t)))) ∧
    (e.writable = true → e.unitType = 0 → u.st = 0 → e.cls ≠ 3 → exec (.unitError e) s = .next (collGo (classAction s1 e wrote)))) ∧
  (∀ (s : State) (e : ErrEvent),
    let kind := leField e.detail 0 1
    let stack := leField e.detail 1 1 % 16
    let st := Reg.hmcStackStatus + 8 * stack
    let word := spKey (unitIndex e.unit) (e.addr.toNat / 8 * 8)
    (e.kind ≠ 2 → eccEffect e s = s) ∧
    (e.kind = 2 → e.cls = 1 → kind = 0 → eccEffect e s = { setRfld s (okey st) 32 16 (satNat 16 (ofld s st 32 16 + 1)) with
      eccLog := sset (fun _ => (0, 0)) s.eccLog stack ((eccLogOf s stack).1 + 1, leField e.detail 4 4) }) ∧
    (e.kind = 2 → e.cls = 1 → kind = 1 → eccEffect e s = setRfld s (okey st) 48 16 (satNat 16 (ofld s st 48 16 + 1))) ∧
    (e.kind = 2 → 2 ≤ e.cls → kind = 3 → e.unitType = 1 → ∀ i, i < 8 → word + i ∈ (eccEffect e s).poison) ∧
    (e.kind = 2 → 2 ≤ e.cls → kind ≠ 3 → ∀ k, eccKey s e = some k → isHbm k = true → isBad (eccEffect e s) k 1 = true)) ∧
  (∀ (s : State) (ty ix : Nat), ix < unitCount ty → (unitOf s ty ix).st = 1 →
    exec (.unitHandlingDone ty ix) s = .next (setUnit s ty ix { unitOf s ty ix with st := 0, first := none })) ∧
  (∀ (s s1 : State) (view : Nat) (v : Word), bitAt v.toNat 24 = true → alive s = true → actionWrite s view Reg.errUnitCtrl v = some s1 →
    let ty := fieldOf v.toNat 0 4
    let ix := fieldOf v.toNat 8 11
    (fenced s1 ty ix = true → ix < unitCount ty → exec (.unitClear view v) s =
      .next (setUnit (setResult s1 Reg.errUnitCtrl 24 1 25 3 1) ty ix { unitOf s1 ty ix with testing := true })) ∧
    ((fenced s1 ty ix = false ∨ unitCount ty ≤ ix) → exec (.unitClear view v) s = .next (setResult s1 Reg.errUnitCtrl 24 0 25 3 3))) ∧
  (∀ s : State, alive s = true → ofld s Reg.errUnitCtrl 24 1 = 1 →
    let ty := ofld s Reg.errUnitCtrl 0 4
    let ix := ofld s Reg.errUnitCtrl 8 11
    (unitOf s ty ix).testing = true →
    (ty = 9 → let s1 := setUnit (setResult s Reg.errUnitCtrl 24 0 25 3 0) ty ix UnitSt.init
      exec (.unitSelfTestDone true) s = .next (healthRefresh (setHart s1 ix { hartOf s1 ix with stopped := false }))) ∧
    (∀ x, wornClass ty ix = some x → s.worn.contains x = false →
      let s1 := setUnit (setResult s Reg.errUnitCtrl 24 0 25 3 2) ty ix { unitOf s ty ix with testing := false, failed := true }
      exec (.unitSelfTestDone false) s = .next (healthRefresh { s1 with worn := s.worn ++ [x] })) ∧
    (ty ≠ 9 → exec (.unitSelfTestDone true) s = .next (healthRefresh (setUnit (setResult s Reg.errUnitCtrl 24 0 25 3 0) ty ix UnitSt.init))) ∧
    (wornClass ty ix = none → exec (.unitSelfTestDone false) s = .next (healthRefresh (setUnit (setResult s Reg.errUnitCtrl 24 0 25 3 2) ty ix
      { unitOf s ty ix with testing := false, failed := true })))) ∧
  (∀ (s : State) (view : Nat) (v : Word), view ≤ 8 → bitAt v.toNat 8 = true → alive s = true → exec (.errorRingEnable view v) s =
    .next (errRingEnable (storeWord s view (Reg.errRing + 8) v.toNat) view (bitAt (reg s (pkey view (Reg.errRing + 8))) 9))) ∧
  (∀ (s : State) (kind ty unit : Nat) (w : Window) (e : ErrEvent) (t : Nat),
    s.windows.find? (fun w => w.kind == kind && w.utype == ty && w.unit == unit) = some w → w.first = some (e, t) → alive s = true →
    exec (.mergeWindowExpiry kind ty unit) s =
      .next (errPost { s with windows := s.windows.filter (fun x => !(x.kind == kind && x.utype == ty && x.unit == unit)) } e w.count t).1) ∧
  (∀ (s : State) (cls die ix events : Nat), 1 ≤ cls → cls ≤ 5 → die < 8 → alive s = true →
    let s1 := if cls = 3 ∨ cls = 5 ∨ s.worn.contains (cls, die, ix) = true then s else { s with worn := s.worn ++ [(cls, die, ix)] }
    (ofld s Reg.errSpareCtrl 0 1 = 1 → exec (.partWear cls die ix events) s = .next s1) ∧
    (ofld s Reg.errSpareCtrl 0 1 = 0 → exec (.partWear cls die ix events) s =
      .next (report s1 0x0E 0 0 (die * 4096) none 0 (leBytes 1 cls ++ leBytes 2 ix ++ leBytes 4 events)))) ∧
  (∀ (s s1 : State) (view : Nat) (v : Word), bitAt v.toNat 24 = true → alive s = true → actionWrite s view Reg.errSpareCtrl v = some s1 →
    let cls := fieldOf v.toNat 4 3
    let known := cls = 1 ∨ cls = 2 ∨ cls = 4
    let left := sparesFor s1 cls (fieldOf v.toNat 20 3) (fieldOf v.toNat 8 11)
    exec (.spareInRequest view v) s = .next (setResult s1 Reg.errSpareCtrl 24 (if known ∧ stage s1 < 2 ∧ left ≠ 0 then 1 else 0) 25 3
      (if ¬ known then 4 else if 2 ≤ stage s1 then 2 else if left = 0 then 3 else 1))) ∧
  (∀ (s : State) (t : Nat) (mask : BitVec 24), t < 1344 → withdrawMay s 1 (tileDie t) t = true →
    let g := t / 8
    bitAt (busyGroups s) g = false → (groupOf s g).zeroing = false → (groupOf s g).withdrawn = false → (groupOf s g).sparing = none →
    (groupOf s g).swatch = none → domainOpen s (22 + tileDie t) = true →
    (sparesFor s 1 0 t = 0 → exec (.tileSpareIn t mask) s = .next (groupWithdraw s t)) ∧
    (sparesFor s 1 0 t ≠ 0 → spareMay s 1 (tileDie t) t = true → exec (.tileSpareIn t mask) s = .next (loseBanks
      (takesReserved (setGroup s g { groupOf s g with sparing := some t }) (groupPart s g) (tileDie t) 1) t (mask.toNat ||| unreadBanks s t)))) ∧
  (∀ (s : State) (t : Nat), t < 1344 → alive s = true → (groupOf s (t / 8)).sparing = some t → spareTiles s (tileDie t) ≠ [] →
    let die := tileDie t
    let k := okey (Reg.tilDieInfo + 8 * die)
    let s0 := { setGroup s (t / 8) { groupOf s (t / 8) with sparing := none } with freeCount := s.freeCount + 1 }
    ∃ new, new ∈ spareTiles s die ∧
      let s1 := setRfld { s0 with tileGone := s.tileGone ++ [die * 256 + tilePhys s t] } (okey (Reg.tilRemap + 0x100 * die + 8 * (t % 168 / 8)))
        (8 * (t % 8)) 8 new
      let s2 := setUnit (setRfld s1 k 8 8 (rfld s1 k 8 8 - 1)) 1 t UnitSt.init
      exec (.tileSpareDone t) s = .next (healthRefresh (spareRecord (spareEnd s2 1 die t) 1 t (tilePhys s t) new (rfld s2 k 8 8) 1 (tileUnit t)
        (groupPart s (t / 8))))) ∧
  (∀ (s : State) (h : Nat), h < 96 → withdrawMay s 2 (h / 48) h = true → s.clusterGone.contains (12 * (h / 48) + h % 48 / 4) = false →
    let d := h / 48
    let k := okey (Reg.glbPdieInfo + 8 * d)
    (sparesFor s 2 d h = 0 → exec (.coreSpareIn h) s = .next (clusterWithdraw s h)) ∧
    (sparesFor s 2 d h ≠ 0 → spareMay s 2 d h = true → spareCores s d ≠ [] → ∃ new, new ∈ spareCores s d ∧
      let s1 := { s with
        freeCount := s.freeCount + 1, coreGone := s.coreGone ++ [64 * d + corePhys s h]
        coreMap := sset (fun k => k % 48) s.coreMap h new }
      let s2 := setHart (setUnit (setRfld s1 k 8 2 (rfld s1 k 8 2 - 1)) 9 h UnitSt.init) h
        { hartOf s h with stopped := (hartOf s h).stopped && !fenced s 9 h }
      exec (.coreSpareIn h) s = .next (healthRefresh (spareRecord (spareEnd s2 2 d h) 2 h (corePhys s h) new (rfld s2 k 8 2) 9 (unitField 9 h)
        (hartPart s h))))) ∧
  (∀ (s : State) (die array : Nat), die < 8 → array < 256 →
    let k := Reg.lakWayStatus + 8 * die
    (withdrawMay s 4 die array = true → s.wayGone.contains (die, array) = false → sget (fun _ => none) s.wayMove die = none →
      (bitAt (ofld s k 0 16) (array / 16) = true → exec (.lakeWaySpareIn die array) s = .next (wayWithdraw s die array)) ∧
      (bitAt (ofld s k 0 16) (array / 16) = false → spareMay s 4 die array = true → exec (.lakeWaySpareIn die array) s =
        .next { s with wayMove := sset (fun _ => none) s.wayMove die (some array) })) ∧
    (sget (fun _ => none) s.wayMove die = some array →
      let s1 := setRfld { s with wayMove := sset (fun _ => none) s.wayMove die none } (okey k) (array / 16) 1 1
      exec (.lakeWayCopyDone die array) s = .next (healthRefresh (spareRecord (spareEnd s1 4 die array) 4 array (array / 16 * 17 + array % 16)
        (array / 16 * 17 + 16) (16 - popcount 16 (ofld s1 k 0 16)) 0 (die * 4096) (wayPart s die (array % 16)))))) ∧
  (∀ (s s1 : State) (view : Nat) (v : Word), bitAt v.toNat 48 = true → alive s = true → actionWrite s view Reg.errSwatchCtrl v = some s1 →
    exec (.swatchLoad view v) s = .next (setResult s1 Reg.errSwatchCtrl 48 1 49 3 1)) ∧
  (∀ (s : State) (k : SwatchPackage), ofld s Reg.errSwatchCtrl 48 1 = 1 → alive s = true →
    (k.sigOk = true → k.stepping = 1 → ofld s Reg.errSwatchCtrl 16 32 ≤ k.serial.toNat → exec (.swatchLoadDone k) s =
      .next { setRfld (setResult s Reg.errSwatchCtrl 48 0 49 3 0) (okey Reg.errSwatchCtrl) 16 32 k.serial.toNat with swPkg := some k }) ∧
    (k.sigOk = false → exec (.swatchLoadDone k) s = .next (setResult s Reg.errSwatchCtrl 48 0 49 3 2)) ∧
    (k.sigOk = true → k.stepping = 1 → k.serial.toNat < ofld s Reg.errSwatchCtrl 16 32 →
      exec (.swatchLoadDone k) s = .next (setResult s Reg.errSwatchCtrl 48 0 49 3 4))) ∧
  ∀ (s : State) (g : Nat), g < 168 →
    (∀ pat k, alive s = true → bitAt (reg s (okey Reg.errSwatchCtrl)) 0 = true → fieldOf (reg s (okey Reg.errSwatchCtrl)) 1 3 ≠ 0 →
      s.swPkg = some k → pat < k.patterns.length → stage s < 2 → groupsIdle s (2 ^ g) = true → (groupOf s g).withdrawn = false →
      groupAwaited s g = false → domainOpen s (22 + g / 21) = true → exec (.swatchPatternRun g pat) s =
        .next (setGroup s g { groupOf s g with swatch := some pat, swLeft := (List.range 8).map (· + 8 * g), swFailed := [] })) ∧
    (∀ t digest pat k, (groupOf s g).swatch = some pat → s.swPkg = some k → (groupOf s g).swLeft.contains t = true → alive s = true →
      (groupOf s g).swFailed.contains t = false → ∀ x, k.patterns[pat]? = some x →
      (x.expect = digest → exec (.swatchPatternDone g t digest) s = .next (swatchTileEnd s g t)) ∧
      (x.expect ≠ digest → exec (.swatchPatternDone g t digest) s =
        .next (setGroup s g { groupOf s g with swFailed := (groupOf s g).swFailed ++ [t] }))) ∧
    exec (.swatchPreempt g) s = .next (setGroup s g { groupOf s g with swatch := none, swLeft := [], swFailed := [] })

/-! ### Snapshots, digests, signatures and Proof -/

/-- Checkpoints: SNAP makes the slot invalid first and then copies the regions as they are now, a second SNAP of the partition waits (14 R477 to
R479); RESTORE reads and checks a slot's header (14 R480); DIGEST and SIGN start on a copy engine and the signature's 96 bytes, whose value
is open, follow the entries (14 R482, R483); a store to a protected block stalls and proceeds later (14 R478); PROOF starts below stage S2,
compares the digest lists once the buddy's list is there, and fails on a difference in shape or digests or on a timeout (14 R470). -/
def Obligations.SnapshotAndProofCommands : Prop :=
  (∀ (s : State) (r : Nat) (seq : BitVec 32) (d : Desc) (bs data : List Byte) (e : Nat), r < 4096 →
    snapBodyOk s d = true → readVa s d.part (d.fld 32 6) (16 * d.fld 38 2) = .ok bs →
    let l := regionList (d.fld 38 2) bs
    partsOk d l = true → copyPlace s d.part = some e →
    (∀ h d1 s2 w, startable s r seq 0x0B 0 = some d → snapOf s d.part = none → readParts s d.part l = .ok data →
      h = slotHeader (snapStep d) (detSignature s d.part) (ofld s Reg.fabId 0 18) l data →
      let s1 := setSnap (startWork s r d .idle) d.part (some ⟨r, seq, List.range (data.length / 65536), []⟩)
      findDesc s1 r seq = some d1 →
      slotPut s1 r d1 ⟨e, 0, l, data, [], h, 0, 0⟩ (snapToLocal d) (snapToRemote d) commitOff (leBytes 8 0) = .ok (s2, w) →
      exec (.snap r seq) s = .next (setSnapWork s2 r d1 w)) ∧
    (∀ a hd c, startable s r seq 0x0B 1 = some d → restoreLocal s d = some a →
      readVa s d.part a (headerBytes l.length) = .ok hd → readVa s d.part (a + commitOff) 8 = .ok c → ∃ d1 : Desc, d1.seq = d.seq ∧ d1.phase = .running ∧
      exec (.restore r seq) s = .next (setSnapWork (startWork s r d .idle) r d1 ⟨e, 0, l, [], [(0, hd), (commitOff, c)], [], 0, 0⟩))) ∧
  (∀ (s : State) (r : Nat) (seq : BitVec 32) (d : Desc), r < 4096 → startable s r seq 0x0B 0 = some d → snapOf s d.part ≠ none →
    exec (.snap r seq) s = .next s) ∧
  (∀ (s : State) (r : Nat) (seq : BitVec 32) (d : Desc) (e : Nat), r < 4096 → copyPlace s d.part = some e →
    (startable s r seq 0x0B 2 = some d → bodyZeroBut d.bytes [(20, 6), (26, 6), (32, 8)] = true → 0 < d.fld 32 8 → d.fld 32 8 ≤ 2 ^ 40 →
      exec (.digest r seq) s = .next (startWork s r d (.snap ⟨e, 0, [], [], [], [], 0, 0⟩))) ∧
    (∀ h m s1, startable s r seq 0x0B 3 = some d → s.signing = none → bodyZeroBut d.bytes [(20, 6), (28, 4)] = true → readVa s d.part (d.fld 20 6) 128 = .ok h →
      leField h 0 4 = 1 → leField h 4 1 = 0 → leField h 32 4 = d.fld 28 4 → 0 < d.fld 28 4 → d.fld 28 4 ≤ 65535 →
      writeVa s d.part (d.fld 20 6 + 36) (leBytes 4 (ofld s Reg.fabId 0 18)) = .ok s1 →
      readVa s1 d.part (d.fld 20 6) (128 + 96 * d.fld 28 4) = .ok m →
      exec (.sign r seq) s = .next (startWork { s1 with signing := some (r, seq) } r d (.snap ⟨e, 0, [], [], [], sha384 m, 0, 0⟩)))) ∧
  (∀ (s s1 : State) (r : Nat) (seq : BitVec 32) (d : Desc), r < 4096 → alive s = true → s.signing = some (r, seq) →
    let s0 := { s with signing := none }
    runningDesc s0 r seq 0x0B = some d →
    writeVa { s0 with freeCount := s.freeCount + 96 } d.part (d.fld 20 6 + (128 + 96 * d.fld 28 4)) (freeBytes s.freeCount 96) = .ok s1 →
    exec (.signDone r seq) s = .next (settleAll (completeOne s1 r d St.ok 0 false))) ∧
  (∀ (s : State) (p : Nat) (n : Snap), p < 8 → snapOf s p = some n →
    let stays := fun (x : Nat × List Byte) => protectedBy (snapParts s n) n.blocks x.1 x.2.length
    (∀ (va : Word) (data : List Byte), protectedBy (snapParts s n) n.blocks va.toNat data.length = true →
      exec (.snapWriteStall p va data) s = .next (setSnap s p (some { n with stalled := n.stalled ++ [(va.toNat, data)] }))) ∧
    exec (.snapStallResume p) s = .next ((n.stalled.filter (fun x => !stays x)).foldl (resumeWrite p)
      (setSnap s p (some { n with stalled := n.stalled.filter stays })))) ∧
  (∀ (s : State) (r : Nat) (seq : BitVec 32) (d : Desc), r < 4096 → startable s r seq 0x0C 0 = some d → stage s < 2 →
    (proofDescOk d = true → exec (.proof r seq) s = .next (startWork s r d .idle)) ∧
    (proofDescOk d = false → exec (.proof r seq) s = .next (endDesc s r d St.descInvalid 0))) ∧
  ∀ (s : State) (r : Nat) (seq : BitVec 32) (d : Desc), r < 4096 → runningDesc s r seq 0x0C = some d → alive s = true →
    (stage s < 2 → exec (.proofTimeout r seq) s = .next (endDesc s r d St.proofTimeout 0)) ∧
    ∀ inbox own, readVa s d.part (d.fld 38 6) (64 + 8 * d.fld 30 2) = .ok inbox → readVa s d.part (d.fld 32 6) (64 + 8 * d.fld 30 2) = .ok own →
      (leField inbox 56 8 ≠ (d.fld 20 8 + 1) % 2 ^ 64 → exec (.proofReady r seq) s = .next s) ∧
      (leField inbox 56 8 = (d.fld 20 8 + 1) % 2 ^ 64 →
        ((leField own 8 8 ≠ leField inbox 8 8 ∨ leField own 16 4 ≠ leField inbox 16 4) →
          exec (.proofReady r seq) s = .next (endDesc s r d St.proofShape 0)) ∧
        (leField own 8 8 = leField inbox 8 8 → leField own 16 4 = leField inbox 16 4 →
          (proofDiffs own inbox (d.fld 30 2) = [] → exec (.proofReady r seq) s = .next (settleAll (completeOne s r d St.ok 0 false))) ∧
          ∀ i rest, proofDiffs own inbox (d.fld 30 2) = i :: rest → exec (.proofReady r seq) s =
            .next (endWith s r d St.proofMismatch (i + (rest.length + 1) * 65536)
              (mkErr 0x0C 2 0 0 none 0 (leBytes 2 i ++ leBytes 2 (rest.length + 1) ++ leBytes 2 (d.fld 28 2))))))

/-! ### Commits and the life cycle -/

/-- Commits and the Owner's security commands: GO makes the shadow live unless a rule of 15 Table 3 is broken, which RULE and INDEX name (15 R495,
R497); the drain and the release end it (15 R495); CONFIRM within 60 s makes the trial image active and raises the SVN (15 R509); LC_ARM
arms, LC_GO moves the life cycle if armed and allowed, and the arm expires (15 R510). -/
def Obligations.CommitAndLifeCycleCommands : Prop :=
  (∀ (s s1 : State) (view : Nat) (v : Word), bitAt v.toNat 0 = true → alive s = true → actionWrite s view Reg.prtCommit v = some s1 →
    (commitRefusal s1 (makeLive s1) = none → exec (.prtCommit view v) s = .next (setReg (commitApply s1) (okey Reg.prtCommit) 3)) ∧
    ∀ rule ix, commitRefusal s1 (makeLive s1) = some (rule, ix) →
      exec (.prtCommit view v) s = .next (setReg s1 (okey Reg.prtCommit) (4 + rule * 256 + ix * 65536))) ∧
  (∀ (s : State) (w : CommitWork), alive s = true → s.commit = some w →
    exec .commitDrainDone s = .next { s with commit := some { w with drained := true } } ∧
    (w.drained = true → w.groups.all (fun g => !(groupOf s g).zeroing) = true → exec .commitReleaseDone s = .next (launchWake (commitEnd s w)))) ∧
  (∀ (s s1 : State) (view : Nat) (v : Word), view ≤ 8 → alive s = true → actionWrite s view Reg.secCtrl v = some s1 →
    let kc := okey Reg.secCtrl
    let ks := okey Reg.secStatus
    (bitAt v.toNat 0 = true → ofld s Reg.secStatus 3 1 = 1 → s.tick - s.smcStart ≤ 6000000000 → ∀ img, s.running = some img →
      exec (.confirm view v) s = .next (setRfld (setRfld (setRfld { s1 with dirActive := s.dirNext } ks 2 1 (b2n s.dirNext)) ks 3 1 0) ks 8 16
        (max (ofld s Reg.secStatus 8 16) (imageSvn img)))) ∧
    (bitAt v.toNat 3 = true → exec (.lcArm view v) s = .next (setRfld s1 kc 8 3 1)) ∧
    (bitAt v.toNat 4 = true → ofld s Reg.secCtrl 8 3 ≠ 1 → exec (.lcGo view v) s = .next (setRfld s1 kc 8 3 3)) ∧
    (bitAt v.toNat 4 = true → ofld s Reg.secCtrl 8 3 = 1 →
      (fieldMove (lifeCycle s) (ofld s1 Reg.secCtrl 1 2) = false → exec (.lcGo view v) s = .next (setRfld s1 kc 8 3 2)) ∧
      (fieldMove (lifeCycle s) (ofld s1 Reg.secCtrl 1 2) = true →
        exec (.lcGo view v) s = .next (setRfld (lifeChange s1 (ofld s1 Reg.secCtrl 1 2)) kc 8 3 0)))) ∧
  ∀ s : State, ofld s Reg.secCtrl 8 3 = 1 → exec .lcArmExpiry s = .next (setRfld s (okey Reg.secCtrl) 8 3 0)

/-! ### Attestation and management -/

/-- Attestation and management: while the SMC's image runs and the transport reaches it the SPDM commands are answered (15 R505, R506); the device
signs only in SECURED or RETURNED with its keys (15 R504, Table 8); a firmware update, a life-cycle request and a log read are taken over
I3C or its SMBus-compatible fallback and no other transport (15 R506, R508). MODEL'S CHOICE: the layouts of the answers (log entry 13); the signatures and nonces are open values (log entry 2). -/
def Obligations.AttestationCommands : Prop :=
  (∀ (s : State) (via : Transport), spdmReady s via = true →
    exec (.getVersion via) s = .next (answer s via ([0x10#8, 0x04#8, 0#8, 0#8, 0#8, 2#8] ++ leBytes 2 0x1200 ++ leBytes 2 0x1300)) ∧
    (∃ x : List Byte, x.length = 9 ∧ exec (.getCapabilities via) s = .next (answer { s with freeCount := s.freeCount + 9 } via
      (spdm 0x61 0 0 ([0#8] ++ x.take 1 ++ [0#8, 0#8] ++ leBytes 4 0x16 ++ x.drop 1)))) ∧
    exec (.negotiateAlgorithms via true true) s =
      .next (answer s via (spdm 0x63 0 0 (leBytes 2 36 ++ leBytes 2 1 ++ leBytes 4 4 ++ leBytes 4 0x80 ++ leBytes 4 2 ++ List.replicate 16 0#8))) ∧
    (∀ p384 sha : Bool, (p384 && sha) = false → exec (.negotiateAlgorithms via p384 sha) s = .next (spdmError s via 1)) ∧
    exec (.getDigests via) s = .next (answer s via (spdm 0x01 0 3 (sha384 (certChain s 0) ++ sha384 (certChain s 1)))) ∧
    (∀ slot off len : Nat, slot < 2 → off ≤ (certChain s slot).length →
      let part := ((certChain s slot).drop off).take len
      exec (.getCertificate via slot off len) s =
        .next (answer s via (spdm 0x02 slot 0 (leBytes 2 part.length ++ leBytes 2 ((certChain s slot).length - off - part.length) ++ part)))) ∧
    (∀ (slot : Nat) (nonce : List Byte), slot < 2 → nonce.length = 32 →
      (signs s = true → ∃ x : List Byte, x.length = 128 ∧ exec (.challenge via slot nonce) s =
        .next (answer { s with freeCount := s.freeCount + 128 } via
          (spdm 0x03 slot 3 (sha384 (certChain s slot) ++ x.take 32 ++ [0#8, 0#8] ++ x.drop 32)))) ∧
      (signs s = false → exec (.challenge via slot nonce) s = .next (spdmError s via 5))) ∧
    (∀ (ix : Nat) (nonce : List Byte), 1 ≤ ix → ix ≤ 7 → nonce.length = 32 → signs s = true → ∃ x : List Byte, x.length = 128 ∧
      exec (.getMeasurements via ix nonce) s = .next (answer { s with freeCount := s.freeCount + 128 } via (spdm 0x60 0 0
        (leBytes 1 1 ++ leBytes 3 (measBlock s ix).length ++ measBlock s ix ++ x.take 32 ++ [0#8, 0#8] ++ x.drop 32))))) ∧
  ∀ (s : State) (via : Transport), reachable s via = true →
    ((∀ sl, via ≠ .doe sl) → ∀ cmd : Byte, ∃ x : Byte,
      exec (.mctpControl via cmd) s = .next (answer { s with freeCount := s.freeCount + 1 } via [cmd, x])) ∧
    let taken := via = .mctpI3c ∨ via = .mctpSmbus
    (∀ img : Image, taken → exec (.mgmtFirmwareUpdate via img) s = .next { s with
      slotA := if s.dirActive then some img else s.slotA, slotB := if s.dirActive then s.slotB else some img
      dirNext := !s.dirActive, dirTrial := true, boot := if s.boot = .recovery then .verifying else s.boot }) ∧
    (∀ new : BitVec 2, taken → (fieldMove (lifeCycle s) new.toNat = true ∨ new.toNat = 1 ∧ (lifeCycle s = 0 ∨ lifeCycle s = 2)) →
      exec (.mgmtLifeCycleRequest via new) s = .next (lifeChange s new.toNat)) ∧
    (∀ first count : Nat, taken → exec (.mgmtLogRead via first count) s =
      .next (answer s via (((s.flashLog.drop first).take count).flatMap id))) ∧
    ∀ (img : Image) (new : BitVec 2) (first count : Nat), ¬ taken → exec (.mgmtFirmwareUpdate via img) s = .next s ∧
      exec (.mgmtLifeCycleRequest via new) s = .next s ∧ exec (.mgmtLogRead via first count) s = .next s
end

