-- ==== Sys2Proof/Laws/Sparse.lean ====
section
/-! SUPPORT. The laws of the sparse map: what a read gives after a write, and that every operation keeps the canonical form. -/

namespace Sys2Proof.Machine

theorem sget_filter_same {α : Type} (d : Nat → α) (m : Sparse α) (k : Nat) :
    sget d (m.filter (fun e => decide (e.1 ≠ k))) k = d k := by
  induction m with
  | nil => rfl
  | cons e m ih =>
    obtain ⟨j, w⟩ := e
    by_cases h : j = k
    · simp_all
    · simp [sget, h, Ne.symm h] at ih ⊢
      exact ih

theorem sget_filter_keep {α : Type} (d : Nat → α) (p : Nat × α → Bool) (m : Sparse α) (k : Nat) (hp : ∀ v, p (k, v) = true) :
    sget d (m.filter p) k = sget d m k := by
  induction m with
  | nil => rfl
  | cons e m ih =>
    obtain ⟨j, w⟩ := e
    by_cases h : k = j
    · subst h
      simp [sget, hp]
    · by_cases hq : p (j, w) = true <;> simp [sget, h, hq, ih]

theorem sget_sinsert_same {α : Type} (d : Nat → α) (m : Sparse α) (k : Nat) (v : α) : sget d (sinsert m k v) k = v := by
  induction m with
  | nil => simp [sinsert, sget]
  | cons e m ih =>
    obtain ⟨j, w⟩ := e
    simp only [sinsert]
    split
    · simp [sget]
    · split
      · simp [sget]
      · simp [sget, *]

theorem sget_sinsert_other {α : Type} (d : Nat → α) (m : Sparse α) (k i : Nat) (v : α) (h : i ≠ k) :
    sget d (sinsert m k v) i = sget d m i := by
  induction m with
  | nil => simp [sinsert, sget, h]
  | cons e m ih =>
    obtain ⟨j, w⟩ := e
    simp only [sinsert]
    split
    · simp [sget, h]
    · split
      · subst_vars
        simp [sget, h]
      · simp [sget, ih]

/-- A read of the key just written gives the value written. -/
@[simp] theorem sget_sset_same {α : Type} [DecidableEq α] (d : Nat → α) (m : Sparse α) (k : Nat) (v : α) :
    sget d (sset d m k v) k = v := by
  unfold sset
  split
  · rename_i h
    rw [sget_filter_same, h]
  · exact sget_sinsert_same d m k v

/-- A write leaves every other key alone. -/
theorem sget_sset_other {α : Type} [DecidableEq α] (d : Nat → α) (m : Sparse α) (k i : Nat) (v : α) (h : i ≠ k) :
    sget d (sset d m k v) i = sget d m i := by
  unfold sset
  split
  · exact sget_filter_keep d _ m i (by simp [h])
  · exact sget_sinsert_other d m k i v h

/-- A read after a write, at any key. -/
theorem sget_sset {α : Type} [DecidableEq α] (d : Nat → α) (m : Sparse α) (k i : Nat) (v : α) :
    sget d (sset d m k v) i = if i = k then v else sget d m i := by
  split
  · subst_vars
    simp
  · rename_i h
    exact sget_sset_other d m k i v h

/-- A read after a range of keys was cleared. -/
theorem sget_sclear {α : Type} (d : Nat → α) (m : Sparse α) (lo hi i : Nat) :
    sget d (sclear m lo hi) i = if lo ≤ i ∧ i < hi then d i else sget d m i := by
  induction m with
  | nil => simp [sclear, sget]
  | cons e m ih =>
    obtain ⟨j, w⟩ := e
    simp only [sclear, List.filter_cons] at ih ⊢
    by_cases hj : (decide (j < lo) || decide (hi ≤ j)) = true
    · simp only [hj, if_true, sget, ih]
      by_cases hi' : i = j
      · subst hi'
        have : ¬(lo ≤ i ∧ i < hi) := by
          simp at hj
          omega
        simp [this]
      · simp [hi']
    · simp only [hj, sget]
      by_cases hi' : i = j
      · subst hi'
        have : lo ≤ i ∧ i < hi := by
          simp at hj
          omega
        simp [this, ih]
      · simp [hi', ih]

/-! ### The canonical form -/

theorem sabove_mono {α : Type} [DecidableEq α] (d : Nat → α) (m : Sparse α) (a b : Nat) (h : a ≤ b) (hm : sabove d b m = true) :
    sabove d a m = true := by
  cases m with
  | nil => rfl
  | cons e m =>
    obtain ⟨j, w⟩ := e
    simp [sabove] at hm ⊢
    exact ⟨⟨by omega, hm.1.2⟩, hm.2⟩

theorem sabove_filter {α : Type} [DecidableEq α] (d : Nat → α) (p : Nat × α → Bool) (m : Sparse α) (a : Nat) (h : sabove d a m = true) :
    sabove d a (m.filter p) = true := by
  induction m generalizing a with
  | nil => rfl
  | cons e m ih =>
    obtain ⟨j, w⟩ := e
    simp [sabove] at h
    rw [List.filter_cons]
    split
    · simp [sabove, h.1, ih j h.2]
    · exact ih a (sabove_mono d m a j (by omega) h.2)

/-- Leaving pairs out keeps the canonical form. -/
theorem swf_filter {α : Type} [DecidableEq α] (d : Nat → α) (p : Nat × α → Bool) (m : Sparse α) (h : swf d m = true) :
    swf d (m.filter p) = true := by
  induction m with
  | nil => rfl
  | cons e m ih =>
    obtain ⟨j, w⟩ := e
    simp [swf] at h
    rw [List.filter_cons]
    split
    · simp [swf, h.1, sabove_filter d p m j h.2]
    · cases m with
      | nil => rfl
      | cons e' m' =>
        obtain ⟨j', w'⟩ := e'
        have := h.2
        simp [sabove] at this
        exact ih (by simp [swf, this.1, this.2])

theorem sabove_sinsert {α : Type} [DecidableEq α] (d : Nat → α) (m : Sparse α) (a k : Nat) (v : α) (hv : v ≠ d k) (ha : a < k)
    (h : sabove d a m = true) : sabove d a (sinsert m k v) = true := by
  induction m generalizing a with
  | nil => simp [sinsert, sabove, hv, ha]
  | cons e m ih =>
    obtain ⟨j, w⟩ := e
    simp [sabove] at h
    simp only [sinsert]
    split
    · simp [sabove, *]
    · split
      · subst_vars
        simp [sabove, hv, h]
      · simp [sabove, h.1, ih j (by omega) h.2]

/-- A write keeps the canonical form. -/
theorem swf_sset {α : Type} [DecidableEq α] (d : Nat → α) (m : Sparse α) (k : Nat) (v : α) (h : swf d m = true) :
    swf d (sset d m k v) = true := by
  unfold sset
  split
  · exact swf_filter d _ m h
  · rename_i hv
    cases m with
    | nil => simp [sinsert, swf, sabove, hv]
    | cons e m =>
      obtain ⟨j, w⟩ := e
      simp [swf] at h
      simp only [sinsert]
      split
      · simp [swf, sabove, *]
      · split
        · subst_vars
          simp [swf, hv, h]
        · simp [swf, h.1, sabove_sinsert d m j k v hv (by omega) h.2]

/-- Clearing a range of keys keeps the canonical form. -/
theorem swf_sclear {α : Type} [DecidableEq α] (d : Nat → α) (m : Sparse α) (lo hi : Nat) (h : swf d m = true) :
    swf d (sclear m lo hi) = true := swf_filter d _ m h

end Sys2Proof.Machine
end

