-- ==== Sys2Proof/Laws/State.lean ====
section
/-! SUPPORT. What each update of the state leaves alone, and what it writes. -/

namespace Sys2Proof.Machine

@[simp] theorem setReg_pending (s : State) (k v : Nat) : (setReg s k v).pending = s.pending := rfl
@[simp] theorem setReg_tick (s : State) (k v : Nat) : (setReg s k v).tick = s.tick := rfl
@[simp] theorem setReg_freeCount (s : State) (k v : Nat) : (setReg s k v).freeCount = s.freeCount := rfl
@[simp] theorem setReg_mem (s : State) (k v : Nat) : (setReg s k v).mem = s.mem := rfl
@[simp] theorem setReg_bad (s : State) (k v : Nat) : (setReg s k v).bad = s.bad := rfl
@[simp] theorem setReg_shadow (s : State) (k v : Nat) : (setReg s k v).shadow = s.shadow := rfl
@[simp] theorem setReg_locked (s : State) (k v : Nat) : (setReg s k v).locked = s.locked := rfl
@[simp] theorem setReg_boot (s : State) (k v : Nat) : (setReg s k v).boot = s.boot := rfl
@[simp] theorem setReg_fatal (s : State) (k v : Nat) : (setReg s k v).fatal = s.fatal := rfl
@[simp] theorem setReg_rings (s : State) (k v : Nat) : (setReg s k v).rings = s.rings := rfl
@[simp] theorem setReg_slots (s : State) (k v : Nat) : (setReg s k v).slots = s.slots := rfl
@[simp] theorem setReg_resetting (s : State) (k v : Nat) : (setReg s k v).resetting = s.resetting := rfl
@[simp] theorem setReg_errRings (s : State) (k v : Nat) : (setReg s k v).errRings = s.errRings := rfl
@[simp] theorem setReg_windows (s : State) (k v : Nat) : (setReg s k v).windows = s.windows := rfl
@[simp] theorem setReg_flashLog (s : State) (k v : Nat) : (setReg s k v).flashLog = s.flashLog := rfl
@[simp] theorem setReg_msix (s : State) (k v : Nat) : (setReg s k v).msix = s.msix := rfl
@[simp] theorem setReg_hostReply (s : State) (k v : Nat) : (setReg s k v).hostReply = s.hostReply := rfl
@[simp] theorem setReg_por (s : State) (k v : Nat) : (setReg s k v).por = s.por := rfl
@[simp] theorem setReg_vin (s : State) (k v : Nat) : (setReg s k v).vin = s.vin := rfl
@[simp] theorem setReg_droop (s : State) (k v : Nat) : (setReg s k v).droop = s.droop := rfl
@[simp] theorem setReg_tapHeld (s : State) (k v : Nat) : (setReg s k v).tapHeld = s.tapHeld := rfl
@[simp] theorem setReg_keys (s : State) (k v : Nat) : (setReg s k v).keys = s.keys := rfl
@[simp] theorem setReg_tiles (s : State) (k v : Nat) : (setReg s k v).tiles = s.tiles := rfl
@[simp] theorem setReg_groups (s : State) (k v : Nat) : (setReg s k v).groups = s.groups := rfl
@[simp] theorem setReg_posts (s : State) (k v : Nat) : (setReg s k v).posts = s.posts := rfl
@[simp] theorem setReg_scuOpen (s : State) (k v : Nat) : (setReg s k v).scuOpen = s.scuOpen := rfl
@[simp] theorem setReg_scuSlots (s : State) (k v : Nat) : (setReg s k v).scuSlots = s.scuSlots := rfl
@[simp] theorem setReg_scuClosed (s : State) (k v : Nat) : (setReg s k v).scuClosed = s.scuClosed := rfl
@[simp] theorem setReg_harts (s : State) (k v : Nat) : (setReg s k v).harts = s.harts := rfl
@[simp] theorem setReg_resvs (s : State) (k v : Nat) : (setReg s k v).resvs = s.resvs := rfl
@[simp] theorem setReg_coreMap (s : State) (k v : Nat) : (setReg s k v).coreMap = s.coreMap := rfl
@[simp] theorem setReg_handovers (s : State) (k v : Nat) : (setReg s k v).handovers = s.handovers := rfl
@[simp] theorem setReg_vatQueue (s : State) (k v : Nat) : (setReg s k v).vatQueue = s.vatQueue := rfl
@[simp] theorem setReg_ports (s : State) (k v : Nat) : (setReg s k v).ports = s.ports := rfl
@[simp] theorem setReg_wire (s : State) (k v : Nat) : (setReg s k v).wire = s.wire := rfl
@[simp] theorem setReg_spareBind (s : State) (k v : Nat) : (setReg s k v).spareBind = s.spareBind := rfl
@[simp] theorem setReg_srcPairs (s : State) (k v : Nat) : (setReg s k v).srcPairs = s.srcPairs := rfl
@[simp] theorem setReg_dstPairs (s : State) (k v : Nat) : (setReg s k v).dstPairs = s.dstPairs := rfl
@[simp] theorem setReg_lakeQ (s : State) (k v : Nat) : (setReg s k v).lakeQ = s.lakeQ := rfl
@[simp] theorem setReg_qps (s : State) (k v : Nat) : (setReg s k v).qps = s.qps := rfl
@[simp] theorem setReg_mordantWait (s : State) (k v : Nat) : (setReg s k v).mordantWait = s.mordantWait := rfl
@[simp] theorem setReg_mctxs (s : State) (k v : Nat) : (setReg s k v).mctxs = s.mctxs := rfl
@[simp] theorem setReg_launches (s : State) (k v : Nat) : (setReg s k v).launches = s.launches := rfl
@[simp] theorem setReg_units (s : State) (k v : Nat) : (setReg s k v).units = s.units := rfl
@[simp] theorem setReg_snaps (s : State) (k v : Nat) : (setReg s k v).snaps = s.snaps := rfl
@[simp] theorem setReg_signing (s : State) (k v : Nat) : (setReg s k v).signing = s.signing := rfl
@[simp] theorem setReg_cfgBlocks (s : State) (k v : Nat) : (setReg s k v).cfgBlocks = s.cfgBlocks := rfl
@[simp] theorem setReg_commit (s : State) (k v : Nat) : (setReg s k v).commit = s.commit := rfl
@[simp] theorem setReg_readyQ (s : State) (k v : Nat) : (setReg s k v).readyQ = s.readyQ := rfl
@[simp] theorem setReg_poison (s : State) (k v : Nat) : (setReg s k v).poison = s.poison := rfl
@[simp] theorem setReg_eccLog (s : State) (k v : Nat) : (setReg s k v).eccLog = s.eccLog := rfl
@[simp] theorem setReg_badKinds (s : State) (k v : Nat) : (setReg s k v).badKinds = s.badKinds := rfl
@[simp] theorem setReg_fatalAt (s : State) (k v : Nat) : (setReg s k v).fatalAt = s.fatalAt := rfl

@[simp] theorem setRfld_pending (s : State) (k lo n v : Nat) : (setRfld s k lo n v).pending = s.pending := rfl
@[simp] theorem setRfld_tick (s : State) (k lo n v : Nat) : (setRfld s k lo n v).tick = s.tick := rfl
@[simp] theorem setRfld_freeCount (s : State) (k lo n v : Nat) : (setRfld s k lo n v).freeCount = s.freeCount := rfl
@[simp] theorem setRfld_mem (s : State) (k lo n v : Nat) : (setRfld s k lo n v).mem = s.mem := rfl
@[simp] theorem setRfld_bad (s : State) (k lo n v : Nat) : (setRfld s k lo n v).bad = s.bad := rfl
@[simp] theorem setRfld_shadow (s : State) (k lo n v : Nat) : (setRfld s k lo n v).shadow = s.shadow := rfl
@[simp] theorem setRfld_locked (s : State) (k lo n v : Nat) : (setRfld s k lo n v).locked = s.locked := rfl
@[simp] theorem setRfld_boot (s : State) (k lo n v : Nat) : (setRfld s k lo n v).boot = s.boot := rfl
@[simp] theorem setRfld_fatal (s : State) (k lo n v : Nat) : (setRfld s k lo n v).fatal = s.fatal := rfl
@[simp] theorem setRfld_rings (s : State) (k lo n v : Nat) : (setRfld s k lo n v).rings = s.rings := rfl
@[simp] theorem setRfld_slots (s : State) (k lo n v : Nat) : (setRfld s k lo n v).slots = s.slots := rfl
@[simp] theorem setRfld_resetting (s : State) (k lo n v : Nat) : (setRfld s k lo n v).resetting = s.resetting := rfl
@[simp] theorem setRfld_errRings (s : State) (k lo n v : Nat) : (setRfld s k lo n v).errRings = s.errRings := rfl
@[simp] theorem setRfld_windows (s : State) (k lo n v : Nat) : (setRfld s k lo n v).windows = s.windows := rfl
@[simp] theorem setRfld_flashLog (s : State) (k lo n v : Nat) : (setRfld s k lo n v).flashLog = s.flashLog := rfl
@[simp] theorem setRfld_msix (s : State) (k lo n v : Nat) : (setRfld s k lo n v).msix = s.msix := rfl
@[simp] theorem setRfld_hostReply (s : State) (k lo n v : Nat) : (setRfld s k lo n v).hostReply = s.hostReply := rfl
@[simp] theorem setRfld_por (s : State) (k lo n v : Nat) : (setRfld s k lo n v).por = s.por := rfl
@[simp] theorem setRfld_vin (s : State) (k lo n v : Nat) : (setRfld s k lo n v).vin = s.vin := rfl
@[simp] theorem setRfld_droop (s : State) (k lo n v : Nat) : (setRfld s k lo n v).droop = s.droop := rfl
@[simp] theorem setRfld_tapHeld (s : State) (k lo n v : Nat) : (setRfld s k lo n v).tapHeld = s.tapHeld := rfl
@[simp] theorem setRfld_keys (s : State) (k lo n v : Nat) : (setRfld s k lo n v).keys = s.keys := rfl
@[simp] theorem setRfld_tiles (s : State) (k lo n v : Nat) : (setRfld s k lo n v).tiles = s.tiles := rfl
@[simp] theorem setRfld_groups (s : State) (k lo n v : Nat) : (setRfld s k lo n v).groups = s.groups := rfl
@[simp] theorem setRfld_posts (s : State) (k lo n v : Nat) : (setRfld s k lo n v).posts = s.posts := rfl
@[simp] theorem setRfld_scuOpen (s : State) (k lo n v : Nat) : (setRfld s k lo n v).scuOpen = s.scuOpen := rfl
@[simp] theorem setRfld_scuSlots (s : State) (k lo n v : Nat) : (setRfld s k lo n v).scuSlots = s.scuSlots := rfl
@[simp] theorem setRfld_scuClosed (s : State) (k lo n v : Nat) : (setRfld s k lo n v).scuClosed = s.scuClosed := rfl
@[simp] theorem setRfld_harts (s : State) (k lo n v : Nat) : (setRfld s k lo n v).harts = s.harts := rfl
@[simp] theorem setRfld_resvs (s : State) (k lo n v : Nat) : (setRfld s k lo n v).resvs = s.resvs := rfl
@[simp] theorem setRfld_coreMap (s : State) (k lo n v : Nat) : (setRfld s k lo n v).coreMap = s.coreMap := rfl
@[simp] theorem setRfld_handovers (s : State) (k lo n v : Nat) : (setRfld s k lo n v).handovers = s.handovers := rfl
@[simp] theorem setRfld_vatQueue (s : State) (k lo n v : Nat) : (setRfld s k lo n v).vatQueue = s.vatQueue := rfl
@[simp] theorem setRfld_ports (s : State) (k lo n v : Nat) : (setRfld s k lo n v).ports = s.ports := rfl
@[simp] theorem setRfld_wire (s : State) (k lo n v : Nat) : (setRfld s k lo n v).wire = s.wire := rfl
@[simp] theorem setRfld_spareBind (s : State) (k lo n v : Nat) : (setRfld s k lo n v).spareBind = s.spareBind := rfl
@[simp] theorem setRfld_srcPairs (s : State) (k lo n v : Nat) : (setRfld s k lo n v).srcPairs = s.srcPairs := rfl
@[simp] theorem setRfld_dstPairs (s : State) (k lo n v : Nat) : (setRfld s k lo n v).dstPairs = s.dstPairs := rfl
@[simp] theorem setRfld_lakeQ (s : State) (k lo n v : Nat) : (setRfld s k lo n v).lakeQ = s.lakeQ := rfl
@[simp] theorem setRfld_qps (s : State) (k lo n v : Nat) : (setRfld s k lo n v).qps = s.qps := rfl
@[simp] theorem setRfld_mordantWait (s : State) (k lo n v : Nat) : (setRfld s k lo n v).mordantWait = s.mordantWait := rfl
@[simp] theorem setRfld_mctxs (s : State) (k lo n v : Nat) : (setRfld s k lo n v).mctxs = s.mctxs := rfl
@[simp] theorem setRfld_launches (s : State) (k lo n v : Nat) : (setRfld s k lo n v).launches = s.launches := rfl
@[simp] theorem setRfld_units (s : State) (k lo n v : Nat) : (setRfld s k lo n v).units = s.units := rfl
@[simp] theorem setRfld_snaps (s : State) (k lo n v : Nat) : (setRfld s k lo n v).snaps = s.snaps := rfl
@[simp] theorem setRfld_signing (s : State) (k lo n v : Nat) : (setRfld s k lo n v).signing = s.signing := rfl
@[simp] theorem setRfld_cfgBlocks (s : State) (k lo n v : Nat) : (setRfld s k lo n v).cfgBlocks = s.cfgBlocks := rfl
@[simp] theorem setRfld_commit (s : State) (k lo n v : Nat) : (setRfld s k lo n v).commit = s.commit := rfl
@[simp] theorem setRfld_readyQ (s : State) (k lo n v : Nat) : (setRfld s k lo n v).readyQ = s.readyQ := rfl
@[simp] theorem setRfld_poison (s : State) (k lo n v : Nat) : (setRfld s k lo n v).poison = s.poison := rfl
@[simp] theorem setRfld_eccLog (s : State) (k lo n v : Nat) : (setRfld s k lo n v).eccLog = s.eccLog := rfl
@[simp] theorem setRfld_badKinds (s : State) (k lo n v : Nat) : (setRfld s k lo n v).badKinds = s.badKinds := rfl
@[simp] theorem setRfld_fatalAt (s : State) (k lo n v : Nat) : (setRfld s k lo n v).fatalAt = s.fatalAt := rfl

@[simp] theorem setShadow_pending (s : State) (k v : Nat) : (setShadow s k v).pending = s.pending := rfl
@[simp] theorem setShadow_tick (s : State) (k v : Nat) : (setShadow s k v).tick = s.tick := rfl
@[simp] theorem setShadow_freeCount (s : State) (k v : Nat) : (setShadow s k v).freeCount = s.freeCount := rfl
@[simp] theorem setShadow_mem (s : State) (k v : Nat) : (setShadow s k v).mem = s.mem := rfl
@[simp] theorem setShadow_bad (s : State) (k v : Nat) : (setShadow s k v).bad = s.bad := rfl
@[simp] theorem setShadow_regs (s : State) (k v : Nat) : (setShadow s k v).regs = s.regs := rfl
@[simp] theorem setShadow_locked (s : State) (k v : Nat) : (setShadow s k v).locked = s.locked := rfl
@[simp] theorem setShadow_boot (s : State) (k v : Nat) : (setShadow s k v).boot = s.boot := rfl
@[simp] theorem setShadow_fatal (s : State) (k v : Nat) : (setShadow s k v).fatal = s.fatal := rfl
@[simp] theorem setShadow_rings (s : State) (k v : Nat) : (setShadow s k v).rings = s.rings := rfl
@[simp] theorem setShadow_slots (s : State) (k v : Nat) : (setShadow s k v).slots = s.slots := rfl
@[simp] theorem setShadow_resetting (s : State) (k v : Nat) : (setShadow s k v).resetting = s.resetting := rfl
@[simp] theorem setShadow_errRings (s : State) (k v : Nat) : (setShadow s k v).errRings = s.errRings := rfl
@[simp] theorem setShadow_windows (s : State) (k v : Nat) : (setShadow s k v).windows = s.windows := rfl
@[simp] theorem setShadow_flashLog (s : State) (k v : Nat) : (setShadow s k v).flashLog = s.flashLog := rfl
@[simp] theorem setShadow_msix (s : State) (k v : Nat) : (setShadow s k v).msix = s.msix := rfl
@[simp] theorem setShadow_hostReply (s : State) (k v : Nat) : (setShadow s k v).hostReply = s.hostReply := rfl
@[simp] theorem setShadow_por (s : State) (k v : Nat) : (setShadow s k v).por = s.por := rfl
@[simp] theorem setShadow_vin (s : State) (k v : Nat) : (setShadow s k v).vin = s.vin := rfl
@[simp] theorem setShadow_droop (s : State) (k v : Nat) : (setShadow s k v).droop = s.droop := rfl
@[simp] theorem setShadow_tapHeld (s : State) (k v : Nat) : (setShadow s k v).tapHeld = s.tapHeld := rfl
@[simp] theorem setShadow_keys (s : State) (k v : Nat) : (setShadow s k v).keys = s.keys := rfl
@[simp] theorem setShadow_tiles (s : State) (k v : Nat) : (setShadow s k v).tiles = s.tiles := rfl
@[simp] theorem setShadow_groups (s : State) (k v : Nat) : (setShadow s k v).groups = s.groups := rfl
@[simp] theorem setShadow_posts (s : State) (k v : Nat) : (setShadow s k v).posts = s.posts := rfl
@[simp] theorem setShadow_scuOpen (s : State) (k v : Nat) : (setShadow s k v).scuOpen = s.scuOpen := rfl
@[simp] theorem setShadow_scuSlots (s : State) (k v : Nat) : (setShadow s k v).scuSlots = s.scuSlots := rfl
@[simp] theorem setShadow_scuClosed (s : State) (k v : Nat) : (setShadow s k v).scuClosed = s.scuClosed := rfl
@[simp] theorem setShadow_harts (s : State) (k v : Nat) : (setShadow s k v).harts = s.harts := rfl
@[simp] theorem setShadow_resvs (s : State) (k v : Nat) : (setShadow s k v).resvs = s.resvs := rfl
@[simp] theorem setShadow_coreMap (s : State) (k v : Nat) : (setShadow s k v).coreMap = s.coreMap := rfl
@[simp] theorem setShadow_handovers (s : State) (k v : Nat) : (setShadow s k v).handovers = s.handovers := rfl
@[simp] theorem setShadow_vatQueue (s : State) (k v : Nat) : (setShadow s k v).vatQueue = s.vatQueue := rfl
@[simp] theorem setShadow_ports (s : State) (k v : Nat) : (setShadow s k v).ports = s.ports := rfl
@[simp] theorem setShadow_wire (s : State) (k v : Nat) : (setShadow s k v).wire = s.wire := rfl
@[simp] theorem setShadow_spareBind (s : State) (k v : Nat) : (setShadow s k v).spareBind = s.spareBind := rfl
@[simp] theorem setShadow_srcPairs (s : State) (k v : Nat) : (setShadow s k v).srcPairs = s.srcPairs := rfl
@[simp] theorem setShadow_dstPairs (s : State) (k v : Nat) : (setShadow s k v).dstPairs = s.dstPairs := rfl
@[simp] theorem setShadow_lakeQ (s : State) (k v : Nat) : (setShadow s k v).lakeQ = s.lakeQ := rfl
@[simp] theorem setShadow_qps (s : State) (k v : Nat) : (setShadow s k v).qps = s.qps := rfl
@[simp] theorem setShadow_mordantWait (s : State) (k v : Nat) : (setShadow s k v).mordantWait = s.mordantWait := rfl
@[simp] theorem setShadow_mctxs (s : State) (k v : Nat) : (setShadow s k v).mctxs = s.mctxs := rfl
@[simp] theorem setShadow_launches (s : State) (k v : Nat) : (setShadow s k v).launches = s.launches := rfl
@[simp] theorem setShadow_units (s : State) (k v : Nat) : (setShadow s k v).units = s.units := rfl
@[simp] theorem setShadow_snaps (s : State) (k v : Nat) : (setShadow s k v).snaps = s.snaps := rfl
@[simp] theorem setShadow_signing (s : State) (k v : Nat) : (setShadow s k v).signing = s.signing := rfl
@[simp] theorem setShadow_cfgBlocks (s : State) (k v : Nat) : (setShadow s k v).cfgBlocks = s.cfgBlocks := rfl
@[simp] theorem setShadow_commit (s : State) (k v : Nat) : (setShadow s k v).commit = s.commit := rfl
@[simp] theorem setShadow_readyQ (s : State) (k v : Nat) : (setShadow s k v).readyQ = s.readyQ := rfl
@[simp] theorem setShadow_poison (s : State) (k v : Nat) : (setShadow s k v).poison = s.poison := rfl
@[simp] theorem setShadow_eccLog (s : State) (k v : Nat) : (setShadow s k v).eccLog = s.eccLog := rfl
@[simp] theorem setShadow_badKinds (s : State) (k v : Nat) : (setShadow s k v).badKinds = s.badKinds := rfl
@[simp] theorem setShadow_fatalAt (s : State) (k v : Nat) : (setShadow s k v).fatalAt = s.fatalAt := rfl

@[simp] theorem setRing_pending (s : State) (r : Nat) (g : Ring) : (setRing s r g).pending = s.pending := rfl
@[simp] theorem setRing_tick (s : State) (r : Nat) (g : Ring) : (setRing s r g).tick = s.tick := rfl
@[simp] theorem setRing_freeCount (s : State) (r : Nat) (g : Ring) : (setRing s r g).freeCount = s.freeCount := rfl
@[simp] theorem setRing_mem (s : State) (r : Nat) (g : Ring) : (setRing s r g).mem = s.mem := rfl
@[simp] theorem setRing_bad (s : State) (r : Nat) (g : Ring) : (setRing s r g).bad = s.bad := rfl
@[simp] theorem setRing_regs (s : State) (r : Nat) (g : Ring) : (setRing s r g).regs = s.regs := rfl
@[simp] theorem setRing_shadow (s : State) (r : Nat) (g : Ring) : (setRing s r g).shadow = s.shadow := rfl
@[simp] theorem setRing_locked (s : State) (r : Nat) (g : Ring) : (setRing s r g).locked = s.locked := rfl
@[simp] theorem setRing_boot (s : State) (r : Nat) (g : Ring) : (setRing s r g).boot = s.boot := rfl
@[simp] theorem setRing_fatal (s : State) (r : Nat) (g : Ring) : (setRing s r g).fatal = s.fatal := rfl
@[simp] theorem setRing_slots (s : State) (r : Nat) (g : Ring) : (setRing s r g).slots = s.slots := rfl
@[simp] theorem setRing_resetting (s : State) (r : Nat) (g : Ring) : (setRing s r g).resetting = s.resetting := rfl
@[simp] theorem setRing_errRings (s : State) (r : Nat) (g : Ring) : (setRing s r g).errRings = s.errRings := rfl
@[simp] theorem setRing_windows (s : State) (r : Nat) (g : Ring) : (setRing s r g).windows = s.windows := rfl
@[simp] theorem setRing_flashLog (s : State) (r : Nat) (g : Ring) : (setRing s r g).flashLog = s.flashLog := rfl
@[simp] theorem setRing_msix (s : State) (r : Nat) (g : Ring) : (setRing s r g).msix = s.msix := rfl
@[simp] theorem setRing_hostReply (s : State) (r : Nat) (g : Ring) : (setRing s r g).hostReply = s.hostReply := rfl
@[simp] theorem setRing_por (s : State) (r : Nat) (g : Ring) : (setRing s r g).por = s.por := rfl
@[simp] theorem setRing_vin (s : State) (r : Nat) (g : Ring) : (setRing s r g).vin = s.vin := rfl
@[simp] theorem setRing_droop (s : State) (r : Nat) (g : Ring) : (setRing s r g).droop = s.droop := rfl
@[simp] theorem setRing_tapHeld (s : State) (r : Nat) (g : Ring) : (setRing s r g).tapHeld = s.tapHeld := rfl
@[simp] theorem setRing_keys (s : State) (r : Nat) (g : Ring) : (setRing s r g).keys = s.keys := rfl
@[simp] theorem setRing_tiles (s : State) (r : Nat) (g : Ring) : (setRing s r g).tiles = s.tiles := rfl
@[simp] theorem setRing_groups (s : State) (r : Nat) (g : Ring) : (setRing s r g).groups = s.groups := rfl
@[simp] theorem setRing_posts (s : State) (r : Nat) (g : Ring) : (setRing s r g).posts = s.posts := rfl
@[simp] theorem setRing_scuOpen (s : State) (r : Nat) (g : Ring) : (setRing s r g).scuOpen = s.scuOpen := rfl
@[simp] theorem setRing_scuSlots (s : State) (r : Nat) (g : Ring) : (setRing s r g).scuSlots = s.scuSlots := rfl
@[simp] theorem setRing_scuClosed (s : State) (r : Nat) (g : Ring) : (setRing s r g).scuClosed = s.scuClosed := rfl
@[simp] theorem setRing_harts (s : State) (r : Nat) (g : Ring) : (setRing s r g).harts = s.harts := rfl
@[simp] theorem setRing_resvs (s : State) (r : Nat) (g : Ring) : (setRing s r g).resvs = s.resvs := rfl
@[simp] theorem setRing_coreMap (s : State) (r : Nat) (g : Ring) : (setRing s r g).coreMap = s.coreMap := rfl
@[simp] theorem setRing_handovers (s : State) (r : Nat) (g : Ring) : (setRing s r g).handovers = s.handovers := rfl
@[simp] theorem setRing_vatQueue (s : State) (r : Nat) (g : Ring) : (setRing s r g).vatQueue = s.vatQueue := rfl
@[simp] theorem setRing_ports (s : State) (r : Nat) (g : Ring) : (setRing s r g).ports = s.ports := rfl
@[simp] theorem setRing_wire (s : State) (r : Nat) (g : Ring) : (setRing s r g).wire = s.wire := rfl
@[simp] theorem setRing_spareBind (s : State) (r : Nat) (g : Ring) : (setRing s r g).spareBind = s.spareBind := rfl
@[simp] theorem setRing_srcPairs (s : State) (r : Nat) (g : Ring) : (setRing s r g).srcPairs = s.srcPairs := rfl
@[simp] theorem setRing_dstPairs (s : State) (r : Nat) (g : Ring) : (setRing s r g).dstPairs = s.dstPairs := rfl
@[simp] theorem setRing_lakeQ (s : State) (r : Nat) (g : Ring) : (setRing s r g).lakeQ = s.lakeQ := rfl
@[simp] theorem setRing_qps (s : State) (r : Nat) (g : Ring) : (setRing s r g).qps = s.qps := rfl
@[simp] theorem setRing_mordantWait (s : State) (r : Nat) (g : Ring) : (setRing s r g).mordantWait = s.mordantWait := rfl
@[simp] theorem setRing_mctxs (s : State) (r : Nat) (g : Ring) : (setRing s r g).mctxs = s.mctxs := rfl
@[simp] theorem setRing_launches (s : State) (r : Nat) (g : Ring) : (setRing s r g).launches = s.launches := rfl
@[simp] theorem setRing_units (s : State) (r : Nat) (g : Ring) : (setRing s r g).units = s.units := rfl
@[simp] theorem setRing_snaps (s : State) (r : Nat) (g : Ring) : (setRing s r g).snaps = s.snaps := rfl
@[simp] theorem setRing_signing (s : State) (r : Nat) (g : Ring) : (setRing s r g).signing = s.signing := rfl
@[simp] theorem setRing_cfgBlocks (s : State) (r : Nat) (g : Ring) : (setRing s r g).cfgBlocks = s.cfgBlocks := rfl
@[simp] theorem setRing_commit (s : State) (r : Nat) (g : Ring) : (setRing s r g).commit = s.commit := rfl
@[simp] theorem setRing_readyQ (s : State) (r : Nat) (g : Ring) : (setRing s r g).readyQ = s.readyQ := rfl
@[simp] theorem setRing_poison (s : State) (r : Nat) (g : Ring) : (setRing s r g).poison = s.poison := rfl
@[simp] theorem setRing_eccLog (s : State) (r : Nat) (g : Ring) : (setRing s r g).eccLog = s.eccLog := rfl
@[simp] theorem setRing_badKinds (s : State) (r : Nat) (g : Ring) : (setRing s r g).badKinds = s.badKinds := rfl
@[simp] theorem setRing_fatalAt (s : State) (r : Nat) (g : Ring) : (setRing s r g).fatalAt = s.fatalAt := rfl

@[simp] theorem setSlot_pending (s : State) (i : Nat) (x : Slot) : (setSlot s i x).pending = s.pending := rfl
@[simp] theorem setSlot_tick (s : State) (i : Nat) (x : Slot) : (setSlot s i x).tick = s.tick := rfl
@[simp] theorem setSlot_freeCount (s : State) (i : Nat) (x : Slot) : (setSlot s i x).freeCount = s.freeCount := rfl
@[simp] theorem setSlot_mem (s : State) (i : Nat) (x : Slot) : (setSlot s i x).mem = s.mem := rfl
@[simp] theorem setSlot_bad (s : State) (i : Nat) (x : Slot) : (setSlot s i x).bad = s.bad := rfl
@[simp] theorem setSlot_regs (s : State) (i : Nat) (x : Slot) : (setSlot s i x).regs = s.regs := rfl
@[simp] theorem setSlot_shadow (s : State) (i : Nat) (x : Slot) : (setSlot s i x).shadow = s.shadow := rfl
@[simp] theorem setSlot_locked (s : State) (i : Nat) (x : Slot) : (setSlot s i x).locked = s.locked := rfl
@[simp] theorem setSlot_boot (s : State) (i : Nat) (x : Slot) : (setSlot s i x).boot = s.boot := rfl
@[simp] theorem setSlot_fatal (s : State) (i : Nat) (x : Slot) : (setSlot s i x).fatal = s.fatal := rfl
@[simp] theorem setSlot_rings (s : State) (i : Nat) (x : Slot) : (setSlot s i x).rings = s.rings := rfl
@[simp] theorem setSlot_resetting (s : State) (i : Nat) (x : Slot) : (setSlot s i x).resetting = s.resetting := rfl
@[simp] theorem setSlot_errRings (s : State) (i : Nat) (x : Slot) : (setSlot s i x).errRings = s.errRings := rfl
@[simp] theorem setSlot_windows (s : State) (i : Nat) (x : Slot) : (setSlot s i x).windows = s.windows := rfl
@[simp] theorem setSlot_flashLog (s : State) (i : Nat) (x : Slot) : (setSlot s i x).flashLog = s.flashLog := rfl
@[simp] theorem setSlot_msix (s : State) (i : Nat) (x : Slot) : (setSlot s i x).msix = s.msix := rfl
@[simp] theorem setSlot_hostReply (s : State) (i : Nat) (x : Slot) : (setSlot s i x).hostReply = s.hostReply := rfl
@[simp] theorem setSlot_por (s : State) (i : Nat) (x : Slot) : (setSlot s i x).por = s.por := rfl
@[simp] theorem setSlot_vin (s : State) (i : Nat) (x : Slot) : (setSlot s i x).vin = s.vin := rfl
@[simp] theorem setSlot_droop (s : State) (i : Nat) (x : Slot) : (setSlot s i x).droop = s.droop := rfl
@[simp] theorem setSlot_tapHeld (s : State) (i : Nat) (x : Slot) : (setSlot s i x).tapHeld = s.tapHeld := rfl
@[simp] theorem setSlot_keys (s : State) (i : Nat) (x : Slot) : (setSlot s i x).keys = s.keys := rfl
@[simp] theorem setSlot_tiles (s : State) (i : Nat) (x : Slot) : (setSlot s i x).tiles = s.tiles := rfl
@[simp] theorem setSlot_groups (s : State) (i : Nat) (x : Slot) : (setSlot s i x).groups = s.groups := rfl
@[simp] theorem setSlot_posts (s : State) (i : Nat) (x : Slot) : (setSlot s i x).posts = s.posts := rfl
@[simp] theorem setSlot_scuOpen (s : State) (i : Nat) (x : Slot) : (setSlot s i x).scuOpen = s.scuOpen := rfl
@[simp] theorem setSlot_scuSlots (s : State) (i : Nat) (x : Slot) : (setSlot s i x).scuSlots = s.scuSlots := rfl
@[simp] theorem setSlot_scuClosed (s : State) (i : Nat) (x : Slot) : (setSlot s i x).scuClosed = s.scuClosed := rfl
@[simp] theorem setSlot_harts (s : State) (i : Nat) (x : Slot) : (setSlot s i x).harts = s.harts := rfl
@[simp] theorem setSlot_resvs (s : State) (i : Nat) (x : Slot) : (setSlot s i x).resvs = s.resvs := rfl
@[simp] theorem setSlot_coreMap (s : State) (i : Nat) (x : Slot) : (setSlot s i x).coreMap = s.coreMap := rfl
@[simp] theorem setSlot_handovers (s : State) (i : Nat) (x : Slot) : (setSlot s i x).handovers = s.handovers := rfl
@[simp] theorem setSlot_vatQueue (s : State) (i : Nat) (x : Slot) : (setSlot s i x).vatQueue = s.vatQueue := rfl
@[simp] theorem setSlot_ports (s : State) (i : Nat) (x : Slot) : (setSlot s i x).ports = s.ports := rfl
@[simp] theorem setSlot_wire (s : State) (i : Nat) (x : Slot) : (setSlot s i x).wire = s.wire := rfl
@[simp] theorem setSlot_spareBind (s : State) (i : Nat) (x : Slot) : (setSlot s i x).spareBind = s.spareBind := rfl
@[simp] theorem setSlot_srcPairs (s : State) (i : Nat) (x : Slot) : (setSlot s i x).srcPairs = s.srcPairs := rfl
@[simp] theorem setSlot_dstPairs (s : State) (i : Nat) (x : Slot) : (setSlot s i x).dstPairs = s.dstPairs := rfl
@[simp] theorem setSlot_lakeQ (s : State) (i : Nat) (x : Slot) : (setSlot s i x).lakeQ = s.lakeQ := rfl
@[simp] theorem setSlot_qps (s : State) (i : Nat) (x : Slot) : (setSlot s i x).qps = s.qps := rfl
@[simp] theorem setSlot_mordantWait (s : State) (i : Nat) (x : Slot) : (setSlot s i x).mordantWait = s.mordantWait := rfl
@[simp] theorem setSlot_mctxs (s : State) (i : Nat) (x : Slot) : (setSlot s i x).mctxs = s.mctxs := rfl
@[simp] theorem setSlot_launches (s : State) (i : Nat) (x : Slot) : (setSlot s i x).launches = s.launches := rfl
@[simp] theorem setSlot_units (s : State) (i : Nat) (x : Slot) : (setSlot s i x).units = s.units := rfl
@[simp] theorem setSlot_snaps (s : State) (i : Nat) (x : Slot) : (setSlot s i x).snaps = s.snaps := rfl
@[simp] theorem setSlot_signing (s : State) (i : Nat) (x : Slot) : (setSlot s i x).signing = s.signing := rfl
@[simp] theorem setSlot_cfgBlocks (s : State) (i : Nat) (x : Slot) : (setSlot s i x).cfgBlocks = s.cfgBlocks := rfl
@[simp] theorem setSlot_commit (s : State) (i : Nat) (x : Slot) : (setSlot s i x).commit = s.commit := rfl
@[simp] theorem setSlot_readyQ (s : State) (i : Nat) (x : Slot) : (setSlot s i x).readyQ = s.readyQ := rfl
@[simp] theorem setSlot_poison (s : State) (i : Nat) (x : Slot) : (setSlot s i x).poison = s.poison := rfl
@[simp] theorem setSlot_eccLog (s : State) (i : Nat) (x : Slot) : (setSlot s i x).eccLog = s.eccLog := rfl
@[simp] theorem setSlot_badKinds (s : State) (i : Nat) (x : Slot) : (setSlot s i x).badKinds = s.badKinds := rfl
@[simp] theorem setSlot_fatalAt (s : State) (i : Nat) (x : Slot) : (setSlot s i x).fatalAt = s.fatalAt := rfl

@[simp] theorem setHart_pending (s : State) (h : Nat) (x : Hart) : (setHart s h x).pending = s.pending := rfl
@[simp] theorem setHart_tick (s : State) (h : Nat) (x : Hart) : (setHart s h x).tick = s.tick := rfl
@[simp] theorem setHart_freeCount (s : State) (h : Nat) (x : Hart) : (setHart s h x).freeCount = s.freeCount := rfl
@[simp] theorem setHart_mem (s : State) (h : Nat) (x : Hart) : (setHart s h x).mem = s.mem := rfl
@[simp] theorem setHart_bad (s : State) (h : Nat) (x : Hart) : (setHart s h x).bad = s.bad := rfl
@[simp] theorem setHart_regs (s : State) (h : Nat) (x : Hart) : (setHart s h x).regs = s.regs := rfl
@[simp] theorem setHart_shadow (s : State) (h : Nat) (x : Hart) : (setHart s h x).shadow = s.shadow := rfl
@[simp] theorem setHart_locked (s : State) (h : Nat) (x : Hart) : (setHart s h x).locked = s.locked := rfl
@[simp] theorem setHart_boot (s : State) (h : Nat) (x : Hart) : (setHart s h x).boot = s.boot := rfl
@[simp] theorem setHart_fatal (s : State) (h : Nat) (x : Hart) : (setHart s h x).fatal = s.fatal := rfl
@[simp] theorem setHart_rings (s : State) (h : Nat) (x : Hart) : (setHart s h x).rings = s.rings := rfl
@[simp] theorem setHart_slots (s : State) (h : Nat) (x : Hart) : (setHart s h x).slots = s.slots := rfl
@[simp] theorem setHart_resetting (s : State) (h : Nat) (x : Hart) : (setHart s h x).resetting = s.resetting := rfl
@[simp] theorem setHart_errRings (s : State) (h : Nat) (x : Hart) : (setHart s h x).errRings = s.errRings := rfl
@[simp] theorem setHart_windows (s : State) (h : Nat) (x : Hart) : (setHart s h x).windows = s.windows := rfl
@[simp] theorem setHart_flashLog (s : State) (h : Nat) (x : Hart) : (setHart s h x).flashLog = s.flashLog := rfl
@[simp] theorem setHart_msix (s : State) (h : Nat) (x : Hart) : (setHart s h x).msix = s.msix := rfl
@[simp] theorem setHart_hostReply (s : State) (h : Nat) (x : Hart) : (setHart s h x).hostReply = s.hostReply := rfl
@[simp] theorem setHart_por (s : State) (h : Nat) (x : Hart) : (setHart s h x).por = s.por := rfl
@[simp] theorem setHart_vin (s : State) (h : Nat) (x : Hart) : (setHart s h x).vin = s.vin := rfl
@[simp] theorem setHart_droop (s : State) (h : Nat) (x : Hart) : (setHart s h x).droop = s.droop := rfl
@[simp] theorem setHart_tapHeld (s : State) (h : Nat) (x : Hart) : (setHart s h x).tapHeld = s.tapHeld := rfl
@[simp] theorem setHart_keys (s : State) (h : Nat) (x : Hart) : (setHart s h x).keys = s.keys := rfl
@[simp] theorem setHart_tiles (s : State) (h : Nat) (x : Hart) : (setHart s h x).tiles = s.tiles := rfl
@[simp] theorem setHart_groups (s : State) (h : Nat) (x : Hart) : (setHart s h x).groups = s.groups := rfl
@[simp] theorem setHart_posts (s : State) (h : Nat) (x : Hart) : (setHart s h x).posts = s.posts := rfl
@[simp] theorem setHart_scuOpen (s : State) (h : Nat) (x : Hart) : (setHart s h x).scuOpen = s.scuOpen := rfl
@[simp] theorem setHart_scuSlots (s : State) (h : Nat) (x : Hart) : (setHart s h x).scuSlots = s.scuSlots := rfl
@[simp] theorem setHart_scuClosed (s : State) (h : Nat) (x : Hart) : (setHart s h x).scuClosed = s.scuClosed := rfl
@[simp] theorem setHart_resvs (s : State) (h : Nat) (x : Hart) : (setHart s h x).resvs = s.resvs := rfl
@[simp] theorem setHart_coreMap (s : State) (h : Nat) (x : Hart) : (setHart s h x).coreMap = s.coreMap := rfl
@[simp] theorem setHart_handovers (s : State) (h : Nat) (x : Hart) : (setHart s h x).handovers = s.handovers := rfl
@[simp] theorem setHart_vatQueue (s : State) (h : Nat) (x : Hart) : (setHart s h x).vatQueue = s.vatQueue := rfl
@[simp] theorem setHart_ports (s : State) (h : Nat) (x : Hart) : (setHart s h x).ports = s.ports := rfl
@[simp] theorem setHart_wire (s : State) (h : Nat) (x : Hart) : (setHart s h x).wire = s.wire := rfl
@[simp] theorem setHart_spareBind (s : State) (h : Nat) (x : Hart) : (setHart s h x).spareBind = s.spareBind := rfl
@[simp] theorem setHart_srcPairs (s : State) (h : Nat) (x : Hart) : (setHart s h x).srcPairs = s.srcPairs := rfl
@[simp] theorem setHart_dstPairs (s : State) (h : Nat) (x : Hart) : (setHart s h x).dstPairs = s.dstPairs := rfl
@[simp] theorem setHart_lakeQ (s : State) (h : Nat) (x : Hart) : (setHart s h x).lakeQ = s.lakeQ := rfl
@[simp] theorem setHart_qps (s : State) (h : Nat) (x : Hart) : (setHart s h x).qps = s.qps := rfl
@[simp] theorem setHart_mordantWait (s : State) (h : Nat) (x : Hart) : (setHart s h x).mordantWait = s.mordantWait := rfl
@[simp] theorem setHart_mctxs (s : State) (h : Nat) (x : Hart) : (setHart s h x).mctxs = s.mctxs := rfl
@[simp] theorem setHart_launches (s : State) (h : Nat) (x : Hart) : (setHart s h x).launches = s.launches := rfl
@[simp] theorem setHart_units (s : State) (h : Nat) (x : Hart) : (setHart s h x).units = s.units := rfl
@[simp] theorem setHart_snaps (s : State) (h : Nat) (x : Hart) : (setHart s h x).snaps = s.snaps := rfl
@[simp] theorem setHart_signing (s : State) (h : Nat) (x : Hart) : (setHart s h x).signing = s.signing := rfl
@[simp] theorem setHart_cfgBlocks (s : State) (h : Nat) (x : Hart) : (setHart s h x).cfgBlocks = s.cfgBlocks := rfl
@[simp] theorem setHart_commit (s : State) (h : Nat) (x : Hart) : (setHart s h x).commit = s.commit := rfl
@[simp] theorem setHart_readyQ (s : State) (h : Nat) (x : Hart) : (setHart s h x).readyQ = s.readyQ := rfl
@[simp] theorem setHart_poison (s : State) (h : Nat) (x : Hart) : (setHart s h x).poison = s.poison := rfl
@[simp] theorem setHart_eccLog (s : State) (h : Nat) (x : Hart) : (setHart s h x).eccLog = s.eccLog := rfl
@[simp] theorem setHart_badKinds (s : State) (h : Nat) (x : Hart) : (setHart s h x).badKinds = s.badKinds := rfl
@[simp] theorem setHart_fatalAt (s : State) (h : Nat) (x : Hart) : (setHart s h x).fatalAt = s.fatalAt := rfl

@[simp] theorem setTile_pending (s : State) (i : Nat) (x : Tile) : (setTile s i x).pending = s.pending := rfl
@[simp] theorem setTile_tick (s : State) (i : Nat) (x : Tile) : (setTile s i x).tick = s.tick := rfl
@[simp] theorem setTile_freeCount (s : State) (i : Nat) (x : Tile) : (setTile s i x).freeCount = s.freeCount := rfl
@[simp] theorem setTile_mem (s : State) (i : Nat) (x : Tile) : (setTile s i x).mem = s.mem := rfl
@[simp] theorem setTile_bad (s : State) (i : Nat) (x : Tile) : (setTile s i x).bad = s.bad := rfl
@[simp] theorem setTile_regs (s : State) (i : Nat) (x : Tile) : (setTile s i x).regs = s.regs := rfl
@[simp] theorem setTile_shadow (s : State) (i : Nat) (x : Tile) : (setTile s i x).shadow = s.shadow := rfl
@[simp] theorem setTile_locked (s : State) (i : Nat) (x : Tile) : (setTile s i x).locked = s.locked := rfl
@[simp] theorem setTile_boot (s : State) (i : Nat) (x : Tile) : (setTile s i x).boot = s.boot := rfl
@[simp] theorem setTile_fatal (s : State) (i : Nat) (x : Tile) : (setTile s i x).fatal = s.fatal := rfl
@[simp] theorem setTile_rings (s : State) (i : Nat) (x : Tile) : (setTile s i x).rings = s.rings := rfl
@[simp] theorem setTile_slots (s : State) (i : Nat) (x : Tile) : (setTile s i x).slots = s.slots := rfl
@[simp] theorem setTile_resetting (s : State) (i : Nat) (x : Tile) : (setTile s i x).resetting = s.resetting := rfl
@[simp] theorem setTile_errRings (s : State) (i : Nat) (x : Tile) : (setTile s i x).errRings = s.errRings := rfl
@[simp] theorem setTile_windows (s : State) (i : Nat) (x : Tile) : (setTile s i x).windows = s.windows := rfl
@[simp] theorem setTile_flashLog (s : State) (i : Nat) (x : Tile) : (setTile s i x).flashLog = s.flashLog := rfl
@[simp] theorem setTile_msix (s : State) (i : Nat) (x : Tile) : (setTile s i x).msix = s.msix := rfl
@[simp] theorem setTile_hostReply (s : State) (i : Nat) (x : Tile) : (setTile s i x).hostReply = s.hostReply := rfl
@[simp] theorem setTile_por (s : State) (i : Nat) (x : Tile) : (setTile s i x).por = s.por := rfl
@[simp] theorem setTile_vin (s : State) (i : Nat) (x : Tile) : (setTile s i x).vin = s.vin := rfl
@[simp] theorem setTile_droop (s : State) (i : Nat) (x : Tile) : (setTile s i x).droop = s.droop := rfl
@[simp] theorem setTile_tapHeld (s : State) (i : Nat) (x : Tile) : (setTile s i x).tapHeld = s.tapHeld := rfl
@[simp] theorem setTile_keys (s : State) (i : Nat) (x : Tile) : (setTile s i x).keys = s.keys := rfl
@[simp] theorem setTile_groups (s : State) (i : Nat) (x : Tile) : (setTile s i x).groups = s.groups := rfl
@[simp] theorem setTile_posts (s : State) (i : Nat) (x : Tile) : (setTile s i x).posts = s.posts := rfl
@[simp] theorem setTile_scuOpen (s : State) (i : Nat) (x : Tile) : (setTile s i x).scuOpen = s.scuOpen := rfl
@[simp] theorem setTile_scuSlots (s : State) (i : Nat) (x : Tile) : (setTile s i x).scuSlots = s.scuSlots := rfl
@[simp] theorem setTile_scuClosed (s : State) (i : Nat) (x : Tile) : (setTile s i x).scuClosed = s.scuClosed := rfl
@[simp] theorem setTile_harts (s : State) (i : Nat) (x : Tile) : (setTile s i x).harts = s.harts := rfl
@[simp] theorem setTile_resvs (s : State) (i : Nat) (x : Tile) : (setTile s i x).resvs = s.resvs := rfl
@[simp] theorem setTile_coreMap (s : State) (i : Nat) (x : Tile) : (setTile s i x).coreMap = s.coreMap := rfl
@[simp] theorem setTile_handovers (s : State) (i : Nat) (x : Tile) : (setTile s i x).handovers = s.handovers := rfl
@[simp] theorem setTile_vatQueue (s : State) (i : Nat) (x : Tile) : (setTile s i x).vatQueue = s.vatQueue := rfl
@[simp] theorem setTile_ports (s : State) (i : Nat) (x : Tile) : (setTile s i x).ports = s.ports := rfl
@[simp] theorem setTile_wire (s : State) (i : Nat) (x : Tile) : (setTile s i x).wire = s.wire := rfl
@[simp] theorem setTile_spareBind (s : State) (i : Nat) (x : Tile) : (setTile s i x).spareBind = s.spareBind := rfl
@[simp] theorem setTile_srcPairs (s : State) (i : Nat) (x : Tile) : (setTile s i x).srcPairs = s.srcPairs := rfl
@[simp] theorem setTile_dstPairs (s : State) (i : Nat) (x : Tile) : (setTile s i x).dstPairs = s.dstPairs := rfl
@[simp] theorem setTile_lakeQ (s : State) (i : Nat) (x : Tile) : (setTile s i x).lakeQ = s.lakeQ := rfl
@[simp] theorem setTile_qps (s : State) (i : Nat) (x : Tile) : (setTile s i x).qps = s.qps := rfl
@[simp] theorem setTile_mordantWait (s : State) (i : Nat) (x : Tile) : (setTile s i x).mordantWait = s.mordantWait := rfl
@[simp] theorem setTile_mctxs (s : State) (i : Nat) (x : Tile) : (setTile s i x).mctxs = s.mctxs := rfl
@[simp] theorem setTile_launches (s : State) (i : Nat) (x : Tile) : (setTile s i x).launches = s.launches := rfl
@[simp] theorem setTile_units (s : State) (i : Nat) (x : Tile) : (setTile s i x).units = s.units := rfl
@[simp] theorem setTile_snaps (s : State) (i : Nat) (x : Tile) : (setTile s i x).snaps = s.snaps := rfl
@[simp] theorem setTile_signing (s : State) (i : Nat) (x : Tile) : (setTile s i x).signing = s.signing := rfl
@[simp] theorem setTile_cfgBlocks (s : State) (i : Nat) (x : Tile) : (setTile s i x).cfgBlocks = s.cfgBlocks := rfl
@[simp] theorem setTile_commit (s : State) (i : Nat) (x : Tile) : (setTile s i x).commit = s.commit := rfl
@[simp] theorem setTile_readyQ (s : State) (i : Nat) (x : Tile) : (setTile s i x).readyQ = s.readyQ := rfl
@[simp] theorem setTile_poison (s : State) (i : Nat) (x : Tile) : (setTile s i x).poison = s.poison := rfl
@[simp] theorem setTile_eccLog (s : State) (i : Nat) (x : Tile) : (setTile s i x).eccLog = s.eccLog := rfl
@[simp] theorem setTile_badKinds (s : State) (i : Nat) (x : Tile) : (setTile s i x).badKinds = s.badKinds := rfl
@[simp] theorem setTile_fatalAt (s : State) (i : Nat) (x : Tile) : (setTile s i x).fatalAt = s.fatalAt := rfl

@[simp] theorem setGroup_pending (s : State) (i : Nat) (x : Group) : (setGroup s i x).pending = s.pending := rfl
@[simp] theorem setGroup_tick (s : State) (i : Nat) (x : Group) : (setGroup s i x).tick = s.tick := rfl
@[simp] theorem setGroup_freeCount (s : State) (i : Nat) (x : Group) : (setGroup s i x).freeCount = s.freeCount := rfl
@[simp] theorem setGroup_mem (s : State) (i : Nat) (x : Group) : (setGroup s i x).mem = s.mem := rfl
@[simp] theorem setGroup_bad (s : State) (i : Nat) (x : Group) : (setGroup s i x).bad = s.bad := rfl
@[simp] theorem setGroup_regs (s : State) (i : Nat) (x : Group) : (setGroup s i x).regs = s.regs := rfl
@[simp] theorem setGroup_shadow (s : State) (i : Nat) (x : Group) : (setGroup s i x).shadow = s.shadow := rfl
@[simp] theorem setGroup_locked (s : State) (i : Nat) (x : Group) : (setGroup s i x).locked = s.locked := rfl
@[simp] theorem setGroup_boot (s : State) (i : Nat) (x : Group) : (setGroup s i x).boot = s.boot := rfl
@[simp] theorem setGroup_fatal (s : State) (i : Nat) (x : Group) : (setGroup s i x).fatal = s.fatal := rfl
@[simp] theorem setGroup_rings (s : State) (i : Nat) (x : Group) : (setGroup s i x).rings = s.rings := rfl
@[simp] theorem setGroup_slots (s : State) (i : Nat) (x : Group) : (setGroup s i x).slots = s.slots := rfl
@[simp] theorem setGroup_resetting (s : State) (i : Nat) (x : Group) : (setGroup s i x).resetting = s.resetting := rfl
@[simp] theorem setGroup_errRings (s : State) (i : Nat) (x : Group) : (setGroup s i x).errRings = s.errRings := rfl
@[simp] theorem setGroup_windows (s : State) (i : Nat) (x : Group) : (setGroup s i x).windows = s.windows := rfl
@[simp] theorem setGroup_flashLog (s : State) (i : Nat) (x : Group) : (setGroup s i x).flashLog = s.flashLog := rfl
@[simp] theorem setGroup_msix (s : State) (i : Nat) (x : Group) : (setGroup s i x).msix = s.msix := rfl
@[simp] theorem setGroup_hostReply (s : State) (i : Nat) (x : Group) : (setGroup s i x).hostReply = s.hostReply := rfl
@[simp] theorem setGroup_por (s : State) (i : Nat) (x : Group) : (setGroup s i x).por = s.por := rfl
@[simp] theorem setGroup_vin (s : State) (i : Nat) (x : Group) : (setGroup s i x).vin = s.vin := rfl
@[simp] theorem setGroup_droop (s : State) (i : Nat) (x : Group) : (setGroup s i x).droop = s.droop := rfl
@[simp] theorem setGroup_tapHeld (s : State) (i : Nat) (x : Group) : (setGroup s i x).tapHeld = s.tapHeld := rfl
@[simp] theorem setGroup_keys (s : State) (i : Nat) (x : Group) : (setGroup s i x).keys = s.keys := rfl
@[simp] theorem setGroup_tiles (s : State) (i : Nat) (x : Group) : (setGroup s i x).tiles = s.tiles := rfl
@[simp] theorem setGroup_posts (s : State) (i : Nat) (x : Group) : (setGroup s i x).posts = s.posts := rfl
@[simp] theorem setGroup_scuOpen (s : State) (i : Nat) (x : Group) : (setGroup s i x).scuOpen = s.scuOpen := rfl
@[simp] theorem setGroup_scuSlots (s : State) (i : Nat) (x : Group) : (setGroup s i x).scuSlots = s.scuSlots := rfl
@[simp] theorem setGroup_scuClosed (s : State) (i : Nat) (x : Group) : (setGroup s i x).scuClosed = s.scuClosed := rfl
@[simp] theorem setGroup_harts (s : State) (i : Nat) (x : Group) : (setGroup s i x).harts = s.harts := rfl
@[simp] theorem setGroup_resvs (s : State) (i : Nat) (x : Group) : (setGroup s i x).resvs = s.resvs := rfl
@[simp] theorem setGroup_coreMap (s : State) (i : Nat) (x : Group) : (setGroup s i x).coreMap = s.coreMap := rfl
@[simp] theorem setGroup_handovers (s : State) (i : Nat) (x : Group) : (setGroup s i x).handovers = s.handovers := rfl
@[simp] theorem setGroup_vatQueue (s : State) (i : Nat) (x : Group) : (setGroup s i x).vatQueue = s.vatQueue := rfl
@[simp] theorem setGroup_ports (s : State) (i : Nat) (x : Group) : (setGroup s i x).ports = s.ports := rfl
@[simp] theorem setGroup_wire (s : State) (i : Nat) (x : Group) : (setGroup s i x).wire = s.wire := rfl
@[simp] theorem setGroup_spareBind (s : State) (i : Nat) (x : Group) : (setGroup s i x).spareBind = s.spareBind := rfl
@[simp] theorem setGroup_srcPairs (s : State) (i : Nat) (x : Group) : (setGroup s i x).srcPairs = s.srcPairs := rfl
@[simp] theorem setGroup_dstPairs (s : State) (i : Nat) (x : Group) : (setGroup s i x).dstPairs = s.dstPairs := rfl
@[simp] theorem setGroup_lakeQ (s : State) (i : Nat) (x : Group) : (setGroup s i x).lakeQ = s.lakeQ := rfl
@[simp] theorem setGroup_qps (s : State) (i : Nat) (x : Group) : (setGroup s i x).qps = s.qps := rfl
@[simp] theorem setGroup_mordantWait (s : State) (i : Nat) (x : Group) : (setGroup s i x).mordantWait = s.mordantWait := rfl
@[simp] theorem setGroup_mctxs (s : State) (i : Nat) (x : Group) : (setGroup s i x).mctxs = s.mctxs := rfl
@[simp] theorem setGroup_launches (s : State) (i : Nat) (x : Group) : (setGroup s i x).launches = s.launches := rfl
@[simp] theorem setGroup_units (s : State) (i : Nat) (x : Group) : (setGroup s i x).units = s.units := rfl
@[simp] theorem setGroup_snaps (s : State) (i : Nat) (x : Group) : (setGroup s i x).snaps = s.snaps := rfl
@[simp] theorem setGroup_signing (s : State) (i : Nat) (x : Group) : (setGroup s i x).signing = s.signing := rfl
@[simp] theorem setGroup_cfgBlocks (s : State) (i : Nat) (x : Group) : (setGroup s i x).cfgBlocks = s.cfgBlocks := rfl
@[simp] theorem setGroup_commit (s : State) (i : Nat) (x : Group) : (setGroup s i x).commit = s.commit := rfl
@[simp] theorem setGroup_readyQ (s : State) (i : Nat) (x : Group) : (setGroup s i x).readyQ = s.readyQ := rfl
@[simp] theorem setGroup_poison (s : State) (i : Nat) (x : Group) : (setGroup s i x).poison = s.poison := rfl
@[simp] theorem setGroup_eccLog (s : State) (i : Nat) (x : Group) : (setGroup s i x).eccLog = s.eccLog := rfl
@[simp] theorem setGroup_badKinds (s : State) (i : Nat) (x : Group) : (setGroup s i x).badKinds = s.badKinds := rfl
@[simp] theorem setGroup_fatalAt (s : State) (i : Nat) (x : Group) : (setGroup s i x).fatalAt = s.fatalAt := rfl

@[simp] theorem setUnit_pending (s : State) (y i : Nat) (x : UnitSt) : (setUnit s y i x).pending = s.pending := rfl
@[simp] theorem setUnit_tick (s : State) (y i : Nat) (x : UnitSt) : (setUnit s y i x).tick = s.tick := rfl
@[simp] theorem setUnit_freeCount (s : State) (y i : Nat) (x : UnitSt) : (setUnit s y i x).freeCount = s.freeCount := rfl
@[simp] theorem setUnit_mem (s : State) (y i : Nat) (x : UnitSt) : (setUnit s y i x).mem = s.mem := rfl
@[simp] theorem setUnit_bad (s : State) (y i : Nat) (x : UnitSt) : (setUnit s y i x).bad = s.bad := rfl
@[simp] theorem setUnit_regs (s : State) (y i : Nat) (x : UnitSt) : (setUnit s y i x).regs = s.regs := rfl
@[simp] theorem setUnit_shadow (s : State) (y i : Nat) (x : UnitSt) : (setUnit s y i x).shadow = s.shadow := rfl
@[simp] theorem setUnit_locked (s : State) (y i : Nat) (x : UnitSt) : (setUnit s y i x).locked = s.locked := rfl
@[simp] theorem setUnit_boot (s : State) (y i : Nat) (x : UnitSt) : (setUnit s y i x).boot = s.boot := rfl
@[simp] theorem setUnit_fatal (s : State) (y i : Nat) (x : UnitSt) : (setUnit s y i x).fatal = s.fatal := rfl
@[simp] theorem setUnit_rings (s : State) (y i : Nat) (x : UnitSt) : (setUnit s y i x).rings = s.rings := rfl
@[simp] theorem setUnit_slots (s : State) (y i : Nat) (x : UnitSt) : (setUnit s y i x).slots = s.slots := rfl
@[simp] theorem setUnit_resetting (s : State) (y i : Nat) (x : UnitSt) : (setUnit s y i x).resetting = s.resetting := rfl
@[simp] theorem setUnit_errRings (s : State) (y i : Nat) (x : UnitSt) : (setUnit s y i x).errRings = s.errRings := rfl
@[simp] theorem setUnit_windows (s : State) (y i : Nat) (x : UnitSt) : (setUnit s y i x).windows = s.windows := rfl
@[simp] theorem setUnit_flashLog (s : State) (y i : Nat) (x : UnitSt) : (setUnit s y i x).flashLog = s.flashLog := rfl
@[simp] theorem setUnit_msix (s : State) (y i : Nat) (x : UnitSt) : (setUnit s y i x).msix = s.msix := rfl
@[simp] theorem setUnit_hostReply (s : State) (y i : Nat) (x : UnitSt) : (setUnit s y i x).hostReply = s.hostReply := rfl
@[simp] theorem setUnit_por (s : State) (y i : Nat) (x : UnitSt) : (setUnit s y i x).por = s.por := rfl
@[simp] theorem setUnit_vin (s : State) (y i : Nat) (x : UnitSt) : (setUnit s y i x).vin = s.vin := rfl
@[simp] theorem setUnit_droop (s : State) (y i : Nat) (x : UnitSt) : (setUnit s y i x).droop = s.droop := rfl
@[simp] theorem setUnit_tapHeld (s : State) (y i : Nat) (x : UnitSt) : (setUnit s y i x).tapHeld = s.tapHeld := rfl
@[simp] theorem setUnit_keys (s : State) (y i : Nat) (x : UnitSt) : (setUnit s y i x).keys = s.keys := rfl
@[simp] theorem setUnit_tiles (s : State) (y i : Nat) (x : UnitSt) : (setUnit s y i x).tiles = s.tiles := rfl
@[simp] theorem setUnit_groups (s : State) (y i : Nat) (x : UnitSt) : (setUnit s y i x).groups = s.groups := rfl
@[simp] theorem setUnit_posts (s : State) (y i : Nat) (x : UnitSt) : (setUnit s y i x).posts = s.posts := rfl
@[simp] theorem setUnit_scuOpen (s : State) (y i : Nat) (x : UnitSt) : (setUnit s y i x).scuOpen = s.scuOpen := rfl
@[simp] theorem setUnit_scuSlots (s : State) (y i : Nat) (x : UnitSt) : (setUnit s y i x).scuSlots = s.scuSlots := rfl
@[simp] theorem setUnit_scuClosed (s : State) (y i : Nat) (x : UnitSt) : (setUnit s y i x).scuClosed = s.scuClosed := rfl
@[simp] theorem setUnit_harts (s : State) (y i : Nat) (x : UnitSt) : (setUnit s y i x).harts = s.harts := rfl
@[simp] theorem setUnit_resvs (s : State) (y i : Nat) (x : UnitSt) : (setUnit s y i x).resvs = s.resvs := rfl
@[simp] theorem setUnit_coreMap (s : State) (y i : Nat) (x : UnitSt) : (setUnit s y i x).coreMap = s.coreMap := rfl
@[simp] theorem setUnit_handovers (s : State) (y i : Nat) (x : UnitSt) : (setUnit s y i x).handovers = s.handovers := rfl
@[simp] theorem setUnit_vatQueue (s : State) (y i : Nat) (x : UnitSt) : (setUnit s y i x).vatQueue = s.vatQueue := rfl
@[simp] theorem setUnit_ports (s : State) (y i : Nat) (x : UnitSt) : (setUnit s y i x).ports = s.ports := rfl
@[simp] theorem setUnit_wire (s : State) (y i : Nat) (x : UnitSt) : (setUnit s y i x).wire = s.wire := rfl
@[simp] theorem setUnit_spareBind (s : State) (y i : Nat) (x : UnitSt) : (setUnit s y i x).spareBind = s.spareBind := rfl
@[simp] theorem setUnit_srcPairs (s : State) (y i : Nat) (x : UnitSt) : (setUnit s y i x).srcPairs = s.srcPairs := rfl
@[simp] theorem setUnit_dstPairs (s : State) (y i : Nat) (x : UnitSt) : (setUnit s y i x).dstPairs = s.dstPairs := rfl
@[simp] theorem setUnit_lakeQ (s : State) (y i : Nat) (x : UnitSt) : (setUnit s y i x).lakeQ = s.lakeQ := rfl
@[simp] theorem setUnit_qps (s : State) (y i : Nat) (x : UnitSt) : (setUnit s y i x).qps = s.qps := rfl
@[simp] theorem setUnit_mordantWait (s : State) (y i : Nat) (x : UnitSt) : (setUnit s y i x).mordantWait = s.mordantWait := rfl
@[simp] theorem setUnit_mctxs (s : State) (y i : Nat) (x : UnitSt) : (setUnit s y i x).mctxs = s.mctxs := rfl
@[simp] theorem setUnit_launches (s : State) (y i : Nat) (x : UnitSt) : (setUnit s y i x).launches = s.launches := rfl
@[simp] theorem setUnit_snaps (s : State) (y i : Nat) (x : UnitSt) : (setUnit s y i x).snaps = s.snaps := rfl
@[simp] theorem setUnit_signing (s : State) (y i : Nat) (x : UnitSt) : (setUnit s y i x).signing = s.signing := rfl
@[simp] theorem setUnit_cfgBlocks (s : State) (y i : Nat) (x : UnitSt) : (setUnit s y i x).cfgBlocks = s.cfgBlocks := rfl
@[simp] theorem setUnit_commit (s : State) (y i : Nat) (x : UnitSt) : (setUnit s y i x).commit = s.commit := rfl
@[simp] theorem setUnit_readyQ (s : State) (y i : Nat) (x : UnitSt) : (setUnit s y i x).readyQ = s.readyQ := rfl
@[simp] theorem setUnit_poison (s : State) (y i : Nat) (x : UnitSt) : (setUnit s y i x).poison = s.poison := rfl
@[simp] theorem setUnit_eccLog (s : State) (y i : Nat) (x : UnitSt) : (setUnit s y i x).eccLog = s.eccLog := rfl
@[simp] theorem setUnit_badKinds (s : State) (y i : Nat) (x : UnitSt) : (setUnit s y i x).badKinds = s.badKinds := rfl
@[simp] theorem setUnit_fatalAt (s : State) (y i : Nat) (x : UnitSt) : (setUnit s y i x).fatalAt = s.fatalAt := rfl

@[simp] theorem setErrRing_pending (s : State) (w : Nat) (x : ErrRing) : (setErrRing s w x).pending = s.pending := rfl
@[simp] theorem setErrRing_tick (s : State) (w : Nat) (x : ErrRing) : (setErrRing s w x).tick = s.tick := rfl
@[simp] theorem setErrRing_freeCount (s : State) (w : Nat) (x : ErrRing) : (setErrRing s w x).freeCount = s.freeCount := rfl
@[simp] theorem setErrRing_mem (s : State) (w : Nat) (x : ErrRing) : (setErrRing s w x).mem = s.mem := rfl
@[simp] theorem setErrRing_bad (s : State) (w : Nat) (x : ErrRing) : (setErrRing s w x).bad = s.bad := rfl
@[simp] theorem setErrRing_regs (s : State) (w : Nat) (x : ErrRing) : (setErrRing s w x).regs = s.regs := rfl
@[simp] theorem setErrRing_shadow (s : State) (w : Nat) (x : ErrRing) : (setErrRing s w x).shadow = s.shadow := rfl
@[simp] theorem setErrRing_locked (s : State) (w : Nat) (x : ErrRing) : (setErrRing s w x).locked = s.locked := rfl
@[simp] theorem setErrRing_boot (s : State) (w : Nat) (x : ErrRing) : (setErrRing s w x).boot = s.boot := rfl
@[simp] theorem setErrRing_fatal (s : State) (w : Nat) (x : ErrRing) : (setErrRing s w x).fatal = s.fatal := rfl
@[simp] theorem setErrRing_rings (s : State) (w : Nat) (x : ErrRing) : (setErrRing s w x).rings = s.rings := rfl
@[simp] theorem setErrRing_slots (s : State) (w : Nat) (x : ErrRing) : (setErrRing s w x).slots = s.slots := rfl
@[simp] theorem setErrRing_resetting (s : State) (w : Nat) (x : ErrRing) : (setErrRing s w x).resetting = s.resetting := rfl
@[simp] theorem setErrRing_windows (s : State) (w : Nat) (x : ErrRing) : (setErrRing s w x).windows = s.windows := rfl
@[simp] theorem setErrRing_flashLog (s : State) (w : Nat) (x : ErrRing) : (setErrRing s w x).flashLog = s.flashLog := rfl
@[simp] theorem setErrRing_msix (s : State) (w : Nat) (x : ErrRing) : (setErrRing s w x).msix = s.msix := rfl
@[simp] theorem setErrRing_hostReply (s : State) (w : Nat) (x : ErrRing) : (setErrRing s w x).hostReply = s.hostReply := rfl
@[simp] theorem setErrRing_por (s : State) (w : Nat) (x : ErrRing) : (setErrRing s w x).por = s.por := rfl
@[simp] theorem setErrRing_vin (s : State) (w : Nat) (x : ErrRing) : (setErrRing s w x).vin = s.vin := rfl
@[simp] theorem setErrRing_droop (s : State) (w : Nat) (x : ErrRing) : (setErrRing s w x).droop = s.droop := rfl
@[simp] theorem setErrRing_tapHeld (s : State) (w : Nat) (x : ErrRing) : (setErrRing s w x).tapHeld = s.tapHeld := rfl
@[simp] theorem setErrRing_keys (s : State) (w : Nat) (x : ErrRing) : (setErrRing s w x).keys = s.keys := rfl
@[simp] theorem setErrRing_tiles (s : State) (w : Nat) (x : ErrRing) : (setErrRing s w x).tiles = s.tiles := rfl
@[simp] theorem setErrRing_groups (s : State) (w : Nat) (x : ErrRing) : (setErrRing s w x).groups = s.groups := rfl
@[simp] theorem setErrRing_posts (s : State) (w : Nat) (x : ErrRing) : (setErrRing s w x).posts = s.posts := rfl
@[simp] theorem setErrRing_scuOpen (s : State) (w : Nat) (x : ErrRing) : (setErrRing s w x).scuOpen = s.scuOpen := rfl
@[simp] theorem setErrRing_scuSlots (s : State) (w : Nat) (x : ErrRing) : (setErrRing s w x).scuSlots = s.scuSlots := rfl
@[simp] theorem setErrRing_scuClosed (s : State) (w : Nat) (x : ErrRing) : (setErrRing s w x).scuClosed = s.scuClosed := rfl
@[simp] theorem setErrRing_harts (s : State) (w : Nat) (x : ErrRing) : (setErrRing s w x).harts = s.harts := rfl
@[simp] theorem setErrRing_resvs (s : State) (w : Nat) (x : ErrRing) : (setErrRing s w x).resvs = s.resvs := rfl
@[simp] theorem setErrRing_coreMap (s : State) (w : Nat) (x : ErrRing) : (setErrRing s w x).coreMap = s.coreMap := rfl
@[simp] theorem setErrRing_handovers (s : State) (w : Nat) (x : ErrRing) : (setErrRing s w x).handovers = s.handovers := rfl
@[simp] theorem setErrRing_vatQueue (s : State) (w : Nat) (x : ErrRing) : (setErrRing s w x).vatQueue = s.vatQueue := rfl
@[simp] theorem setErrRing_ports (s : State) (w : Nat) (x : ErrRing) : (setErrRing s w x).ports = s.ports := rfl
@[simp] theorem setErrRing_wire (s : State) (w : Nat) (x : ErrRing) : (setErrRing s w x).wire = s.wire := rfl
@[simp] theorem setErrRing_spareBind (s : State) (w : Nat) (x : ErrRing) : (setErrRing s w x).spareBind = s.spareBind := rfl
@[simp] theorem setErrRing_srcPairs (s : State) (w : Nat) (x : ErrRing) : (setErrRing s w x).srcPairs = s.srcPairs := rfl
@[simp] theorem setErrRing_dstPairs (s : State) (w : Nat) (x : ErrRing) : (setErrRing s w x).dstPairs = s.dstPairs := rfl
@[simp] theorem setErrRing_lakeQ (s : State) (w : Nat) (x : ErrRing) : (setErrRing s w x).lakeQ = s.lakeQ := rfl
@[simp] theorem setErrRing_qps (s : State) (w : Nat) (x : ErrRing) : (setErrRing s w x).qps = s.qps := rfl
@[simp] theorem setErrRing_mordantWait (s : State) (w : Nat) (x : ErrRing) : (setErrRing s w x).mordantWait = s.mordantWait := rfl
@[simp] theorem setErrRing_mctxs (s : State) (w : Nat) (x : ErrRing) : (setErrRing s w x).mctxs = s.mctxs := rfl
@[simp] theorem setErrRing_launches (s : State) (w : Nat) (x : ErrRing) : (setErrRing s w x).launches = s.launches := rfl
@[simp] theorem setErrRing_units (s : State) (w : Nat) (x : ErrRing) : (setErrRing s w x).units = s.units := rfl
@[simp] theorem setErrRing_snaps (s : State) (w : Nat) (x : ErrRing) : (setErrRing s w x).snaps = s.snaps := rfl
@[simp] theorem setErrRing_signing (s : State) (w : Nat) (x : ErrRing) : (setErrRing s w x).signing = s.signing := rfl
@[simp] theorem setErrRing_cfgBlocks (s : State) (w : Nat) (x : ErrRing) : (setErrRing s w x).cfgBlocks = s.cfgBlocks := rfl
@[simp] theorem setErrRing_commit (s : State) (w : Nat) (x : ErrRing) : (setErrRing s w x).commit = s.commit := rfl
@[simp] theorem setErrRing_readyQ (s : State) (w : Nat) (x : ErrRing) : (setErrRing s w x).readyQ = s.readyQ := rfl
@[simp] theorem setErrRing_poison (s : State) (w : Nat) (x : ErrRing) : (setErrRing s w x).poison = s.poison := rfl
@[simp] theorem setErrRing_eccLog (s : State) (w : Nat) (x : ErrRing) : (setErrRing s w x).eccLog = s.eccLog := rfl
@[simp] theorem setErrRing_badKinds (s : State) (w : Nat) (x : ErrRing) : (setErrRing s w x).badKinds = s.badKinds := rfl
@[simp] theorem setErrRing_fatalAt (s : State) (w : Nat) (x : ErrRing) : (setErrRing s w x).fatalAt = s.fatalAt := rfl

@[simp] theorem putBytes_pending (s : State) (k : Nat) (bs : List Byte) : (putBytes s k bs).pending = s.pending := rfl
@[simp] theorem putBytes_tick (s : State) (k : Nat) (bs : List Byte) : (putBytes s k bs).tick = s.tick := rfl
@[simp] theorem putBytes_freeCount (s : State) (k : Nat) (bs : List Byte) : (putBytes s k bs).freeCount = s.freeCount := rfl
@[simp] theorem putBytes_bad (s : State) (k : Nat) (bs : List Byte) : (putBytes s k bs).bad = s.bad := rfl
@[simp] theorem putBytes_regs (s : State) (k : Nat) (bs : List Byte) : (putBytes s k bs).regs = s.regs := rfl
@[simp] theorem putBytes_shadow (s : State) (k : Nat) (bs : List Byte) : (putBytes s k bs).shadow = s.shadow := rfl
@[simp] theorem putBytes_locked (s : State) (k : Nat) (bs : List Byte) : (putBytes s k bs).locked = s.locked := rfl
@[simp] theorem putBytes_boot (s : State) (k : Nat) (bs : List Byte) : (putBytes s k bs).boot = s.boot := rfl
@[simp] theorem putBytes_fatal (s : State) (k : Nat) (bs : List Byte) : (putBytes s k bs).fatal = s.fatal := rfl
@[simp] theorem putBytes_rings (s : State) (k : Nat) (bs : List Byte) : (putBytes s k bs).rings = s.rings := rfl
@[simp] theorem putBytes_slots (s : State) (k : Nat) (bs : List Byte) : (putBytes s k bs).slots = s.slots := rfl
@[simp] theorem putBytes_resetting (s : State) (k : Nat) (bs : List Byte) : (putBytes s k bs).resetting = s.resetting := rfl
@[simp] theorem putBytes_errRings (s : State) (k : Nat) (bs : List Byte) : (putBytes s k bs).errRings = s.errRings := rfl
@[simp] theorem putBytes_windows (s : State) (k : Nat) (bs : List Byte) : (putBytes s k bs).windows = s.windows := rfl
@[simp] theorem putBytes_flashLog (s : State) (k : Nat) (bs : List Byte) : (putBytes s k bs).flashLog = s.flashLog := rfl
@[simp] theorem putBytes_msix (s : State) (k : Nat) (bs : List Byte) : (putBytes s k bs).msix = s.msix := rfl
@[simp] theorem putBytes_hostReply (s : State) (k : Nat) (bs : List Byte) : (putBytes s k bs).hostReply = s.hostReply := rfl
@[simp] theorem putBytes_por (s : State) (k : Nat) (bs : List Byte) : (putBytes s k bs).por = s.por := rfl
@[simp] theorem putBytes_vin (s : State) (k : Nat) (bs : List Byte) : (putBytes s k bs).vin = s.vin := rfl
@[simp] theorem putBytes_droop (s : State) (k : Nat) (bs : List Byte) : (putBytes s k bs).droop = s.droop := rfl
@[simp] theorem putBytes_tapHeld (s : State) (k : Nat) (bs : List Byte) : (putBytes s k bs).tapHeld = s.tapHeld := rfl
@[simp] theorem putBytes_keys (s : State) (k : Nat) (bs : List Byte) : (putBytes s k bs).keys = s.keys := rfl
@[simp] theorem putBytes_tiles (s : State) (k : Nat) (bs : List Byte) : (putBytes s k bs).tiles = s.tiles := rfl
@[simp] theorem putBytes_groups (s : State) (k : Nat) (bs : List Byte) : (putBytes s k bs).groups = s.groups := rfl
@[simp] theorem putBytes_posts (s : State) (k : Nat) (bs : List Byte) : (putBytes s k bs).posts = s.posts := rfl
@[simp] theorem putBytes_scuOpen (s : State) (k : Nat) (bs : List Byte) : (putBytes s k bs).scuOpen = s.scuOpen := rfl
@[simp] theorem putBytes_scuSlots (s : State) (k : Nat) (bs : List Byte) : (putBytes s k bs).scuSlots = s.scuSlots := rfl
@[simp] theorem putBytes_scuClosed (s : State) (k : Nat) (bs : List Byte) : (putBytes s k bs).scuClosed = s.scuClosed := rfl
@[simp] theorem putBytes_harts (s : State) (k : Nat) (bs : List Byte) : (putBytes s k bs).harts = s.harts := rfl
@[simp] theorem putBytes_coreMap (s : State) (k : Nat) (bs : List Byte) : (putBytes s k bs).coreMap = s.coreMap := rfl
@[simp] theorem putBytes_handovers (s : State) (k : Nat) (bs : List Byte) : (putBytes s k bs).handovers = s.handovers := rfl
@[simp] theorem putBytes_vatQueue (s : State) (k : Nat) (bs : List Byte) : (putBytes s k bs).vatQueue = s.vatQueue := rfl
@[simp] theorem putBytes_ports (s : State) (k : Nat) (bs : List Byte) : (putBytes s k bs).ports = s.ports := rfl
@[simp] theorem putBytes_wire (s : State) (k : Nat) (bs : List Byte) : (putBytes s k bs).wire = s.wire := rfl
@[simp] theorem putBytes_spareBind (s : State) (k : Nat) (bs : List Byte) : (putBytes s k bs).spareBind = s.spareBind := rfl
@[simp] theorem putBytes_srcPairs (s : State) (k : Nat) (bs : List Byte) : (putBytes s k bs).srcPairs = s.srcPairs := rfl
@[simp] theorem putBytes_dstPairs (s : State) (k : Nat) (bs : List Byte) : (putBytes s k bs).dstPairs = s.dstPairs := rfl
@[simp] theorem putBytes_lakeQ (s : State) (k : Nat) (bs : List Byte) : (putBytes s k bs).lakeQ = s.lakeQ := rfl
@[simp] theorem putBytes_qps (s : State) (k : Nat) (bs : List Byte) : (putBytes s k bs).qps = s.qps := rfl
@[simp] theorem putBytes_mordantWait (s : State) (k : Nat) (bs : List Byte) : (putBytes s k bs).mordantWait = s.mordantWait := rfl
@[simp] theorem putBytes_mctxs (s : State) (k : Nat) (bs : List Byte) : (putBytes s k bs).mctxs = s.mctxs := rfl
@[simp] theorem putBytes_launches (s : State) (k : Nat) (bs : List Byte) : (putBytes s k bs).launches = s.launches := rfl
@[simp] theorem putBytes_units (s : State) (k : Nat) (bs : List Byte) : (putBytes s k bs).units = s.units := rfl
@[simp] theorem putBytes_snaps (s : State) (k : Nat) (bs : List Byte) : (putBytes s k bs).snaps = s.snaps := rfl
@[simp] theorem putBytes_signing (s : State) (k : Nat) (bs : List Byte) : (putBytes s k bs).signing = s.signing := rfl
@[simp] theorem putBytes_cfgBlocks (s : State) (k : Nat) (bs : List Byte) : (putBytes s k bs).cfgBlocks = s.cfgBlocks := rfl
@[simp] theorem putBytes_commit (s : State) (k : Nat) (bs : List Byte) : (putBytes s k bs).commit = s.commit := rfl
@[simp] theorem putBytes_readyQ (s : State) (k : Nat) (bs : List Byte) : (putBytes s k bs).readyQ = s.readyQ := rfl
@[simp] theorem putBytes_eccLog (s : State) (k : Nat) (bs : List Byte) : (putBytes s k bs).eccLog = s.eccLog := rfl
@[simp] theorem putBytes_badKinds (s : State) (k : Nat) (bs : List Byte) : (putBytes s k bs).badKinds = s.badKinds := rfl
@[simp] theorem putBytes_fatalAt (s : State) (k : Nat) (bs : List Byte) : (putBytes s k bs).fatalAt = s.fatalAt := rfl

@[simp] theorem zeroRange_pending (s : State) (lo hi : Nat) : (zeroRange s lo hi).pending = s.pending := rfl
@[simp] theorem zeroRange_tick (s : State) (lo hi : Nat) : (zeroRange s lo hi).tick = s.tick := rfl
@[simp] theorem zeroRange_freeCount (s : State) (lo hi : Nat) : (zeroRange s lo hi).freeCount = s.freeCount := rfl
@[simp] theorem zeroRange_bad (s : State) (lo hi : Nat) : (zeroRange s lo hi).bad = s.bad := rfl
@[simp] theorem zeroRange_regs (s : State) (lo hi : Nat) : (zeroRange s lo hi).regs = s.regs := rfl
@[simp] theorem zeroRange_shadow (s : State) (lo hi : Nat) : (zeroRange s lo hi).shadow = s.shadow := rfl
@[simp] theorem zeroRange_locked (s : State) (lo hi : Nat) : (zeroRange s lo hi).locked = s.locked := rfl
@[simp] theorem zeroRange_boot (s : State) (lo hi : Nat) : (zeroRange s lo hi).boot = s.boot := rfl
@[simp] theorem zeroRange_fatal (s : State) (lo hi : Nat) : (zeroRange s lo hi).fatal = s.fatal := rfl
@[simp] theorem zeroRange_rings (s : State) (lo hi : Nat) : (zeroRange s lo hi).rings = s.rings := rfl
@[simp] theorem zeroRange_slots (s : State) (lo hi : Nat) : (zeroRange s lo hi).slots = s.slots := rfl
@[simp] theorem zeroRange_resetting (s : State) (lo hi : Nat) : (zeroRange s lo hi).resetting = s.resetting := rfl
@[simp] theorem zeroRange_errRings (s : State) (lo hi : Nat) : (zeroRange s lo hi).errRings = s.errRings := rfl
@[simp] theorem zeroRange_windows (s : State) (lo hi : Nat) : (zeroRange s lo hi).windows = s.windows := rfl
@[simp] theorem zeroRange_flashLog (s : State) (lo hi : Nat) : (zeroRange s lo hi).flashLog = s.flashLog := rfl
@[simp] theorem zeroRange_msix (s : State) (lo hi : Nat) : (zeroRange s lo hi).msix = s.msix := rfl
@[simp] theorem zeroRange_hostReply (s : State) (lo hi : Nat) : (zeroRange s lo hi).hostReply = s.hostReply := rfl
@[simp] theorem zeroRange_por (s : State) (lo hi : Nat) : (zeroRange s lo hi).por = s.por := rfl
@[simp] theorem zeroRange_vin (s : State) (lo hi : Nat) : (zeroRange s lo hi).vin = s.vin := rfl
@[simp] theorem zeroRange_droop (s : State) (lo hi : Nat) : (zeroRange s lo hi).droop = s.droop := rfl
@[simp] theorem zeroRange_tapHeld (s : State) (lo hi : Nat) : (zeroRange s lo hi).tapHeld = s.tapHeld := rfl
@[simp] theorem zeroRange_keys (s : State) (lo hi : Nat) : (zeroRange s lo hi).keys = s.keys := rfl
@[simp] theorem zeroRange_tiles (s : State) (lo hi : Nat) : (zeroRange s lo hi).tiles = s.tiles := rfl
@[simp] theorem zeroRange_groups (s : State) (lo hi : Nat) : (zeroRange s lo hi).groups = s.groups := rfl
@[simp] theorem zeroRange_posts (s : State) (lo hi : Nat) : (zeroRange s lo hi).posts = s.posts := rfl
@[simp] theorem zeroRange_scuOpen (s : State) (lo hi : Nat) : (zeroRange s lo hi).scuOpen = s.scuOpen := rfl
@[simp] theorem zeroRange_scuSlots (s : State) (lo hi : Nat) : (zeroRange s lo hi).scuSlots = s.scuSlots := rfl
@[simp] theorem zeroRange_scuClosed (s : State) (lo hi : Nat) : (zeroRange s lo hi).scuClosed = s.scuClosed := rfl
@[simp] theorem zeroRange_harts (s : State) (lo hi : Nat) : (zeroRange s lo hi).harts = s.harts := rfl
@[simp] theorem zeroRange_resvs (s : State) (lo hi : Nat) : (zeroRange s lo hi).resvs = s.resvs := rfl
@[simp] theorem zeroRange_coreMap (s : State) (lo hi : Nat) : (zeroRange s lo hi).coreMap = s.coreMap := rfl
@[simp] theorem zeroRange_handovers (s : State) (lo hi : Nat) : (zeroRange s lo hi).handovers = s.handovers := rfl
@[simp] theorem zeroRange_vatQueue (s : State) (lo hi : Nat) : (zeroRange s lo hi).vatQueue = s.vatQueue := rfl
@[simp] theorem zeroRange_ports (s : State) (lo hi : Nat) : (zeroRange s lo hi).ports = s.ports := rfl
@[simp] theorem zeroRange_wire (s : State) (lo hi : Nat) : (zeroRange s lo hi).wire = s.wire := rfl
@[simp] theorem zeroRange_spareBind (s : State) (lo hi : Nat) : (zeroRange s lo hi).spareBind = s.spareBind := rfl
@[simp] theorem zeroRange_srcPairs (s : State) (lo hi : Nat) : (zeroRange s lo hi).srcPairs = s.srcPairs := rfl
@[simp] theorem zeroRange_dstPairs (s : State) (lo hi : Nat) : (zeroRange s lo hi).dstPairs = s.dstPairs := rfl
@[simp] theorem zeroRange_lakeQ (s : State) (lo hi : Nat) : (zeroRange s lo hi).lakeQ = s.lakeQ := rfl
@[simp] theorem zeroRange_qps (s : State) (lo hi : Nat) : (zeroRange s lo hi).qps = s.qps := rfl
@[simp] theorem zeroRange_mordantWait (s : State) (lo hi : Nat) : (zeroRange s lo hi).mordantWait = s.mordantWait := rfl
@[simp] theorem zeroRange_mctxs (s : State) (lo hi : Nat) : (zeroRange s lo hi).mctxs = s.mctxs := rfl
@[simp] theorem zeroRange_launches (s : State) (lo hi : Nat) : (zeroRange s lo hi).launches = s.launches := rfl
@[simp] theorem zeroRange_units (s : State) (lo hi : Nat) : (zeroRange s lo hi).units = s.units := rfl
@[simp] theorem zeroRange_snaps (s : State) (lo hi : Nat) : (zeroRange s lo hi).snaps = s.snaps := rfl
@[simp] theorem zeroRange_signing (s : State) (lo hi : Nat) : (zeroRange s lo hi).signing = s.signing := rfl
@[simp] theorem zeroRange_cfgBlocks (s : State) (lo hi : Nat) : (zeroRange s lo hi).cfgBlocks = s.cfgBlocks := rfl
@[simp] theorem zeroRange_commit (s : State) (lo hi : Nat) : (zeroRange s lo hi).commit = s.commit := rfl
@[simp] theorem zeroRange_readyQ (s : State) (lo hi : Nat) : (zeroRange s lo hi).readyQ = s.readyQ := rfl
@[simp] theorem zeroRange_eccLog (s : State) (lo hi : Nat) : (zeroRange s lo hi).eccLog = s.eccLog := rfl
@[simp] theorem zeroRange_badKinds (s : State) (lo hi : Nat) : (zeroRange s lo hi).badKinds = s.badKinds := rfl
@[simp] theorem zeroRange_fatalAt (s : State) (lo hi : Nat) : (zeroRange s lo hi).fatalAt = s.fatalAt := rfl

/-- A register word just written reads the value written, modulo 2^64. -/
@[simp] theorem reg_setReg_same (s : State) (k v : Nat) : reg (setReg s k v) k = v % 2 ^ 64 := by simp [reg, setReg]

/-- A write of a register word leaves every other word alone. -/
theorem reg_setReg_other (s : State) (k i v : Nat) (h : i ≠ k) : reg (setReg s k v) i = reg s i := by
  simp [reg, setReg, sget_sset_other, h]

/-- A ring just written. -/
@[simp] theorem ringOf_setRing_same (s : State) (r : Nat) (g : Ring) : ringOf (setRing s r g) r = g := by simp [ringOf, setRing]

/-- A write of a ring leaves every other ring alone. -/
theorem ringOf_setRing_other (s : State) (r i : Nat) (g : Ring) (h : i ≠ r) : ringOf (setRing s r g) i = ringOf s i := by
  simp [ringOf, setRing, sget_sset_other, h]

/-- A hart just written. -/
@[simp] theorem hartOf_setHart_same (s : State) (h : Nat) (x : Hart) : hartOf (setHart s h x) h = x := by simp [hartOf, setHart]

/-- A write of a hart leaves every other hart alone. -/
theorem hartOf_setHart_other (s : State) (h i : Nat) (x : Hart) (hi : i ≠ h) : hartOf (setHart s h x) i = hartOf s i := by
  simp [hartOf, setHart, sget_sset_other, hi]

/-- A tile just written. -/
@[simp] theorem tileOf_setTile_same (s : State) (i : Nat) (x : Tile) : tileOf (setTile s i x) i = x := by simp [tileOf, setTile]

/-- A write of a tile leaves every other tile alone. -/
theorem tileOf_setTile_other (s : State) (i j : Nat) (x : Tile) (h : j ≠ i) : tileOf (setTile s i x) j = tileOf s j := by
  simp [tileOf, setTile, sget_sset_other, h]

/-- A tile group just written. -/
@[simp] theorem groupOf_setGroup_same (s : State) (g : Nat) (x : Group) : groupOf (setGroup s g x) g = x := by simp [groupOf, setGroup]

/-- A slot just written. -/
@[simp] theorem slotOf_setSlot_same (s : State) (i : Nat) (x : Slot) : slotOf (setSlot s i x) i = x := by simp [slotOf, setSlot]

end Sys2Proof.Machine
end

