-- ==== Sys2Proof/Laws/Memory.lean ====
section
/-! SUPPORT. The laws of memory: every operation keeps the canonical form, a byte just written reads back, and a store leaves every
byte outside its pieces alone. -/

namespace Sys2Proof.Machine

theorem wf_putList (m : Sparse Byte) (k : Nat) (bs : List Byte) (h : Memory.wf m = true) : Memory.wf (putList m k bs) = true := by
  induction bs generalizing m k with
  | nil => exact h
  | cons b bs ih => exact ih _ _ (swf_sset _ m k b h)

/-- Bytes put into the store keep the canonical form. -/
theorem wf_putBytes (s : State) (k : Nat) (bs : List Byte) (h : Memory.wf s.mem = true) : Memory.wf (putBytes s k bs).mem = true :=
  wf_putList s.mem k bs h

/-- A range of zeroed bytes keeps the canonical form. -/
theorem wf_zeroRange (s : State) (lo hi : Nat) (h : Memory.wf s.mem = true) : Memory.wf (zeroRange s lo hi).mem = true :=
  swf_sclear _ s.mem lo hi h

/-- Memory right after reset is canonical. -/
theorem wf_reset : Memory.wf State.reset.mem = true := rfl

/-- Memory with bytes left out is canonical. -/
theorem wf_filter (m : Sparse Byte) (p : Nat × Byte → Bool) (h : Memory.wf m = true) : Memory.wf (m.filter p) = true := swf_filter _ p m h

theorem sget_putList (m : Sparse Byte) (k i : Nat) (bs : List Byte) :
    sget (fun _ => 0#8) (putList m k bs) i = if k ≤ i ∧ i < k + bs.length then bs.getD (i - k) 0#8 else sget (fun _ => 0#8) m i := by
  induction bs generalizing m k with
  | nil => simp [putList]
  | cons b bs ih =>
    rw [putList, ih]
    simp only [putByte, sget_sset, List.length_cons]
    by_cases h1 : k = i
    · subst h1
      simp
    · by_cases h2 : k + 1 ≤ i ∧ i < k + 1 + bs.length
      · have h3 : k ≤ i ∧ i < k + (bs.length + 1) := by omega
        rw [if_pos h2, if_pos h3]
        have h4 : i - k = (i - (k + 1)) + 1 := by omega
        simp [h4]
      · have h3 : ¬(k ≤ i ∧ i < k + (bs.length + 1)) := by omega
        rw [if_neg h2, if_neg h3, if_neg (Ne.symm h1)]

/-- A byte of the store after bytes were put into it. -/
theorem byteAt_putBytes (s : State) (k i : Nat) (bs : List Byte) :
    byteAt (putBytes s k bs) i = if k ≤ i ∧ i < k + bs.length then bs.getD (i - k) 0#8 else byteAt s i := sget_putList s.mem k i bs

/-- A byte of the store after a range was zeroed. -/
theorem byteAt_zeroRange (s : State) (lo hi i : Nat) : byteAt (zeroRange s lo hi) i = if lo ≤ i ∧ i < hi then 0#8 else byteAt s i :=
  sget_sclear _ s.mem lo hi i

/-- The bytes of the store read as single bytes. -/
theorem getBytes_eq (s : State) (k n : Nat) : getBytes s k n = (List.range n).map (fun i => byteAt s (k + i)) := rfl

/-! ### Writes through a translation -/

theorem OnlyBytes.refl (s : State) : OnlyBytes s s := rfl

theorem OnlyBytes.trans {s t u : State} (h : OnlyBytes s t) (g : OnlyBytes t u) : OnlyBytes s u := by
  unfold OnlyBytes at *
  rw [g, h]

theorem onlyBytes_putPieces (tr : Nat → Option Nat) (l : List (Nat × Nat)) (bs : List Byte) (s : State) :
    OnlyBytes s (putPieces tr l bs s) := by
  induction l generalizing bs s with
  | nil => exact OnlyBytes.refl s
  | cons x l ih =>
    obtain ⟨a, n⟩ := x
    unfold putPieces
    split
    · exact OnlyBytes.refl s
    · refine OnlyBytes.trans ?_ (ih _ _)
      split <;> rfl

theorem wf_putPieces (tr : Nat → Option Nat) (l : List (Nat × Nat)) (bs : List Byte) (s : State) (h : Memory.wf s.mem = true) :
    Memory.wf (putPieces tr l bs s).mem = true := by
  induction l generalizing bs s with
  | nil => exact h
  | cons x l ih =>
    obtain ⟨a, n⟩ := x
    unfold putPieces
    split
    · exact h
    · apply ih
      split <;> exact wf_putBytes s _ _ h

theorem byteAt_putPieces (tr : Nat → Option Nat) (l : List (Nat × Nat)) (bs : List Byte) (s : State) (key : Nat)
    (h : l.any (fun x => match tr x.1 with
      | some k => decide (k ≤ key) && decide (key < k + x.2)
      | none => false) = false) :
    byteAt (putPieces tr l bs s) key = byteAt s key := by
  induction l generalizing bs s with
  | nil => rfl
  | cons x l ih =>
    obtain ⟨a, n⟩ := x
    simp only [List.any_cons, Bool.or_eq_false_iff] at h
    unfold putPieces
    split
    · rfl
    · rename_i k hk
      rw [ih _ _ h.2]
      have h1 := h.1
      simp only [hk, Bool.and_eq_false_iff, decide_eq_false_iff_not] at h1
      have h2 : byteAt (putBytes s k (bs.take n)) key = byteAt s key := by
        rw [byteAt_putBytes, if_neg]
        simp only [List.length_take]
        omega
      split
      · exact h2
      · exact h2

/-- What a write through a translation does: if it is performed, it touches bytes only, keeps the canonical form, and leaves every
byte outside its pieces alone. -/
theorem writeVia_spec (s t : State) (tr : Nat → Option Nat) (a : Nat) (bs : List Byte) (src : Option Nat) (h : writeVia s tr a bs src = .ok t) :
    OnlyBytes s t ∧ (Memory.wf s.mem = true → Memory.wf t.mem = true) ∧
      ∀ key, writtenBy tr a bs.length key = false → byteAt t key = byteAt s key := by
  unfold writeVia at h
  split at h
  · cases h
  · cases h
    exact ⟨onlyBytes_putPieces tr _ bs s, wf_putPieces tr _ bs s, fun key hk => byteAt_putPieces tr _ bs s key hk⟩

/-- A range within one sector is one piece. -/
theorem sectorsOf_within (a n : Nat) (hn : 0 < n) (h : a % 32 + n ≤ 32) : sectorsOf a n = [(a, n)] := by
  unfold sectorsOf
  have h1 : n ≤ 32 := by omega
  have h2 : min n (32 - a % 32) = n := by omega
  rw [show n / 32 + 2 = (n / 32 + 1) + 1 from rfl]
  simp only [pieces]
  rw [if_neg (by omega), h2]
  simp

/-- A performed write within one sector puts exactly its bytes at the place of its address. -/
theorem writeVia_within (s t : State) (tr : Nat → Option Nat) (a k : Nat) (bs : List Byte) (src : Option Nat) (hn : 0 < bs.length)
    (hs : a % 32 + bs.length ≤ 32) (hk : tr a = some k) (h : writeVia s tr a bs src = .ok t) (i : Nat) (hi : i < bs.length) :
    byteAt t (k + i) = bs.getD i 0#8 := by
  unfold writeVia at h
  rw [sectorsOf_within a bs.length hn hs] at h
  split at h
  · cases h
  · cases h
    have key : byteAt (putBytes s k (bs.take bs.length)) (k + i) = bs.getD i 0#8 := by
      rw [byteAt_putBytes, if_pos (by simp; omega)]
      simp
    simp only [putPieces, hk]
    split <;> exact key

end Sys2Proof.Machine
end

