-- ==== Sys2Proof/Laws/Report.lean ====
section
/-! SUPPORT. What writing an error record can do, said once: it touches only what an error record concerns, and it keeps the canonical
form of memory. -/

namespace Sys2Proof.Machine

theorem OnlyReports.refl (s : State) : OnlyReports s s := rfl

theorem OnlyReports.trans {s t u : State} (h : OnlyReports s t) (g : OnlyReports t u) : OnlyReports s u := by
  unfold OnlyReports at *
  rw [g, h]

theorem OnlyBytes.reports {s t : State} (h : OnlyBytes s t) : OnlyReports s t := by
  unfold OnlyBytes OnlyReports at *
  rw [h]

/-- An update that touches only what a record concerns and keeps the canonical form. -/
def Reporting (s t : State) : Prop := OnlyReports s t ∧ (Memory.wf s.mem = true → Memory.wf t.mem = true)

theorem Reporting.refl (s : State) : Reporting s s := ⟨rfl, id⟩

theorem Reporting.trans {s t u : State} (h : Reporting s t) (g : Reporting t u) : Reporting s u := ⟨h.1.trans g.1, fun w => g.2 (h.2 w)⟩

theorem reporting_setReg (s : State) (k v : Nat) : Reporting s (setReg s k v) := ⟨rfl, id⟩

theorem reporting_setErrRing (s : State) (w : Nat) (x : ErrRing) : Reporting s (setErrRing s w x) := ⟨rfl, id⟩

theorem reporting_raiseVector (s : State) (p v : Nat) : Reporting s (raiseVector s p v) := by
  unfold raiseVector
  split
  · exact Reporting.refl s
  · split
    · exact Reporting.refl s
    · dsimp only
      split <;> exact ⟨rfl, id⟩

theorem reporting_writeVia (s t : State) (tr : Nat → Option Nat) (a : Nat) (bs : List Byte) (src : Option Nat) (h : writeVia s tr a bs src = .ok t) :
    Reporting s t := ⟨(writeVia_spec s t tr a bs src h).1.reports, (writeVia_spec s t tr a bs src h).2.1⟩

theorem reporting_setRfld (s : State) (k lo n v : Nat) : Reporting s (setRfld s k lo n v) := reporting_setReg s k _

theorem reporting_errDrop (s : State) (w : Nat) : Reporting s (errDrop s w) := by
  unfold errDrop
  exact (reporting_setReg s _ _).trans (reporting_setErrRing _ w _)

theorem reporting_signalled (s : State) (w v : Nat) (x : ErrRing) : Reporting s (setErrRing (raiseVector s w v) w x) :=
  (reporting_raiseVector s w v).trans (reporting_setErrRing _ w x)

theorem reporting_errSignal (s : State) (w cls : Nat) : Reporting s (errSignal s w cls) := by
  unfold errSignal
  split
  · lift_lets
    intro due
    split
    · exact reporting_signalled s w _ _
    · exact Reporting.refl s
  · exact Reporting.refl s

theorem reporting_written (s s1 : State) (tr : Nat → Option Nat) (a k w cls v : Nat) (bs : List Byte) (src : Option Nat) (x : ErrRing)
    (h : writeVia s tr a bs src = .ok s1) : Reporting s (errSignal (setErrRing (setRfld s1 k 0 32 v) w x) w cls) :=
  (reporting_writeVia s s1 tr a bs src h).trans
    (((reporting_setRfld s1 k 0 32 v).trans (reporting_setErrRing _ w x)).trans (reporting_errSignal _ w cls))

theorem reporting_errWrite (s : State) (w : Nat) (e : ErrEvent) (c t : Nat) : Reporting s (errWrite s w e c t).1 := by
  unfold errWrite
  lift_lets
  intro cfg n tail head a part phys bytes
  by_cases h1 : (!bitAt cfg 9) = true
  · rw [if_pos h1]
    exact Reporting.refl s
  · rw [if_neg h1]
    by_cases h2 : n ≤ (tail + 2 ^ 32 - head) % 2 ^ 32
    · rw [if_pos h2]
      exact reporting_errDrop s w
    · rw [if_neg h2]
      cases h : writeVia s (if w = 8 then xlateOwner s else xlateMem s w .w) a bytes (errDie s w) with
      | error x => exact reporting_errDrop s w
      | ok s1 => exact reporting_written s s1 _ a _ w e.cls _ bytes _ _ h

theorem reporting_logAppend (s : State) (l : List Byte) : Reporting s (logAppend s l) := ⟨rfl, id⟩

theorem reporting_logged (s : State) (l : List Byte) (b : Bool) : Reporting s (if b = true then logAppend s l else s) := by
  split
  · exact reporting_logAppend s l
  · exact Reporting.refl s

theorem reporting_errPost (s : State) (e : ErrEvent) (c t : Nat) : Reporting s (errPost s e c t).1 := by
  unfold errPost
  lift_lets
  intro s0
  have h1 : Reporting s (errWrite s0 8 e c t).1 := (reporting_logged s _ _).trans (reporting_errWrite s0 8 e c t)
  cases hp : e.part with
  | none => exact h1
  | some p =>
    simp only
    split
    · exact h1.trans (reporting_errWrite _ p (partCopy e) c t)
    · exact h1

/-- What reporting an event does. -/
theorem reporting_errEmit (s : State) (e : ErrEvent) : Reporting s (errEmit s e).1 := by
  unfold errEmit
  split
  · split
    · exact ⟨rfl, id⟩
    · refine Reporting.trans (t := { s with windows := s.windows ++ [⟨e.kind, e.unitType, e.unit, 0, none⟩] }) ⟨rfl, id⟩ ?_
      exact reporting_errPost _ e 1 _
  · exact reporting_errPost s e 1 _

/-- What a record with no descriptor does. -/
theorem reporting_report (s : State) (kind cls ut u : Nat) (p : Option Nat) (a : Nat) (d : List Byte) :
    Reporting s (report s kind cls ut u p a d) := reporting_errEmit s _

/-- A record leaves the rings alone. -/
theorem errEmit_rings (s : State) (e : ErrEvent) : (errEmit s e).1.rings = s.rings := by
  have h := (reporting_errEmit s e).1
  unfold OnlyReports at h
  rw [h]

/-- A record leaves the harts alone. -/
theorem errEmit_harts (s : State) (e : ErrEvent) : (errEmit s e).1.harts = s.harts := by
  have h := (reporting_errEmit s e).1
  unfold OnlyReports at h
  rw [h]

/-- A record leaves the tiles alone. -/
theorem errEmit_tiles (s : State) (e : ErrEvent) : (errEmit s e).1.tiles = s.tiles := by
  have h := (reporting_errEmit s e).1
  unfold OnlyReports at h
  rw [h]

end Sys2Proof.Machine
end

