-- ==== Sys2Proof/Laws/Shared.lean ====
section
/-! SUPPORT. What the operations that many commands share can do, said once: the answer for a unit, an open doorbell, a descriptor that
starts or runs, a tile's dispatch, a short-vector instruction, and the bytes of a number. -/

namespace Sys2Proof.Machine

/-! ### Units -/

/-- A command on a unit that exists answers its effect. -/
theorem onUnit_next {b : Bool} (h : b = true) (t : State) : onUnit b t = .next t := if_pos h

/-- A command on a unit that does not exist stops. -/
theorem onUnit_fault {b : Bool} (h : b = false) (t : State) : onUnit b t = .fault .noSuchUnit := by simp [onUnit, h]

/-- A command of a ring numbered below 4,096 answers its effect. -/
theorem onUnit_ring {r : Nat} (h : r < 4096) (t : State) : onUnit (decide (r < 4096)) t = .next t := if_pos (by simp [h])

/-! ### Doorbells -/

/-- An open doorbell of an enabled ring reaches the ring's own function (10 R318). -/
theorem doorbell_open {s : State} {who : Party} {r p : Nat} {v : BitVec 32} {f : Nat → Ring → State} (h : DoorbellOpen s who r p)
    (he : (ringOf s r).enabled = true) : doorbell s who r v f = f p (ringOf s r) := by
  obtain ⟨_, _, h3, h4, h5, h6, h7, h8⟩ := h
  have h8 : ¬ 4 ≤ stage s := by omega
  unfold doorbell
  rcases h4 with rfl | ⟨h, rfl, hp, ho⟩
  · simp [h3, doorbell.act, h5, h6, h7, he, h8]
  · simp [h3, hp, ho, doorbell.act, h5, h6, h7, he, h8]

/-- An open doorbell's command names units that exist. -/
theorem doorbell_exists {s : State} {who : Party} {r p : Nat} (h : DoorbellOpen s who r p) (t : State) :
    onUnit (isRing r && isParty who) t = .next t := onUnit_next (by simp [h.1, h.2.1]) t

/-- A refused doorbell write sets DB_ERR and reports, and nothing else (10 R318). -/
theorem refuseDoorbell_spec (s : State) (r p : Nat) (v : BitVec 32) :
    OnlyReports (setRing s r { ringOf s r with dbErr := true }) (refuseDoorbell s r p v) := (reporting_errEmit _ _).1

/-! ### Descriptors -/

/-- The descriptor found has the number sought. -/
theorem findDesc_seq {s : State} {r : Nat} {seq : BitVec 32} {d : Desc} (h : findDesc s r seq = some d) : d.seq = seq := by
  simpa using List.find?_some h

/-- A descriptor that may start is in flight on its ring and waits, its waits and its order are met, and the package runs below supply stage S3
(10 R319, 01 R13 to R26). -/
theorem startable_spec {s : State} {r : Nat} {seq : BitVec 32} {eng op : Nat} {d : Desc} (h : startable s r seq eng op = some d) :
    findDesc s r seq = some d ∧ d.phase = .waiting ∧ d.engine = eng ∧ d.op = op ∧ waitsMet s d = true ∧ orderMet (ringOf s r) seq = true ∧
      alive s = true ∧ stage s < 3 := by
  unfold startable at h
  split at h
  · simp at h
  · rename_i x hx
    split at h
    · rename_i hc
      obtain rfl : x = d := by simpa using h
      simp at hc
      exact ⟨hx, hc.1.1.1.1.1.1, hc.1.1.1.1.1.2, hc.1.1.1.1.2, hc.1.1.1.2, hc.1.1.2, hc.1.2, hc.2⟩
    · simp at h

/-- A running descriptor is in flight on its ring, with its engine. -/
theorem runningDesc_spec {s : State} {r : Nat} {seq : BitVec 32} {eng : Nat} {d : Desc} (h : runningDesc s r seq eng = some d) :
    findDesc s r seq = some d ∧ d.phase = .running ∧ d.engine = eng := by
  unfold runningDesc at h
  split at h
  · simp at h
  · rename_i x hx
    split at h
    · rename_i hc
      obtain rfl : x = d := by simpa using h
      simp at hc
      exact ⟨hx, hc.1, hc.2⟩
    · simp at h

/-- The start of a descriptor changes the rings and the order of readiness alone. -/
theorem startWork_spec (s : State) (r : Nat) (d : Desc) (w : Work) :
    startWork s r d w = { s with rings := (startWork s r d w).rings, readyQ := (startWork s r d w).readyQ } := rfl

/-! ### Tiles -/

/-- A tile's command that dispatches has its effect, on the state with the command fetched, and leaves the state to the commands of other opcodes (03 R86, R87,
R94). -/
theorem withCommand_spec {s : State} {t r : Nat} {d : Desc} {y : Tile} {b : List Byte} (h : Dispatches s t r d y b) (op : Nat)
    (k : State → Nat → Desc → List Byte → State) : withCommand s t op k = if tileOp b = op then k (setTile s t y) r d b else s := by
  obtain ⟨_, h1, h2, h3, h4, h5, h6, h7, h8, h9⟩ := h
  unfold withCommand tileOp
  simp only [h1, h2, h3, h4, h5, h6, h7, h8, h9]
  by_cases he : fieldOf (leField b 0 4) 0 8 = op <;> simp [he]

/-! ### Short-vector instructions -/

/-- A short-vector instruction that executes with legal fields has its effect (08 R242, R254). -/
theorem qInstr_legal {s : State} {h : Nat} (hr : QuadReady s h) (k : Hart → State) : qInstr h true s k = k (hartOf s h) := by
  simp [qInstr, hr.2.1, hr.2.2]

/-- One whose fields are illegal traps (08 R254). -/
theorem qInstr_illegal {s : State} {h : Nat} (hr : hartReady s h = true) (legal : Bool) (k : Hart → State)
    (hb : xsOn (hartOf s h) = false ∨ legal = false) : qInstr h legal s k = illegal s h := by
  rcases hb with hb | hb <;> simp [qInstr, hr, hb]

/-! ### Bytes -/

@[simp] theorem leBytes_length (n v : Nat) : (leBytes n v).length = n := by
  induction n generalizing v with
  | zero => rfl
  | succ n ih => simp [leBytes, ih]

/-- A byte of a number, least significant first. -/
theorem leBytes_getD (n v i : Nat) (h : i < n) : (leBytes n v).getD i 0#8 = BitVec.ofNat 8 (v / 256 ^ i) := by
  induction n generalizing v i with
  | zero => omega
  | succ n ih => cases i with
    | zero => simp [leBytes]
    | succ i =>
      rw [leBytes, List.getD_cons_succ, ih _ _ (by omega), Nat.div_div_eq_div_mul, Nat.pow_succ, Nat.mul_comm]

@[simp] theorem freeBytes_length (c n : Nat) : (freeBytes c n).length = n := by simp [freeBytes]

end Sys2Proof.Machine
end

