-- ==== Sys2Proof/Tests/Slice0.lean ====
section
/-! SUPPORT. Tests: ill-formed fields, words of the encoding tables, small steps, and for each statement with hypotheses states and operands
that meet them, clause by clause. -/

namespace Sys2Proof.Tests
open Sys2Proof Sys2Proof.Machine

set_option Elab.async false

/-! ### States -/

/-- A state with register words set. -/
def withRegs (l : List (Nat × Nat)) (s : State) : State := l.foldl (fun s x => setReg s x.1 x.2) s

/-- A running package: every power domain on; region 0 (128 MiB) held by partition 0, region 1 (128 MiB) held by none; partition 0 VALID and
READY with tile groups 0 and 1, core cluster 1 of P0, rings 0 to 31, slot 0 with its link up and a host memory window from address 0 over
256 MiB, region 0 at address 1 GiB and node 1 at address 2 GiB by its page table in region 1; node 2 of a torus of 4 by 4 by 4; job table entry 0 LIVE for job 0x11 with key 0x22 and bound to partition 0. -/
def live : State :=
  withRegs [(okey Reg.pwrDomainStatus, 0x3FFFFFFF), (okey Reg.prtPartCfg, 0x201), (okey (Reg.prtPartCfg + 8), 0x8000),
    (okey (Reg.prtPartCfg + 16), 32 * 2 ^ 16), (okey Reg.prtTgroups, 3),
    (okey Reg.prtRegions, 1), (okey Reg.hmcRegion, 1 + 2 * 2 ^ 32), (okey (Reg.hmcRegion + 16), 1 + 2 * 2 ^ 16 + 2 * 2 ^ 32),
    (okey (Reg.hmcRegion + 24), 0x80), (pkey 0 Reg.hifHmw, 3), (pkey 0 (Reg.hifHmw + 8), 0x1000 * 2 ^ 32), (pkey 0 Reg.hifPartStatus, 1),
    (okey Reg.hifPortCfg, 0xF00 + 2 ^ 14), (okey (Reg.hifPortCfg + 8), 0xFF0), (okey (Reg.hifPortCfg + 16), 0xFF0),
    (okey (Reg.hifPortCfg + 24), 0xFF0), (okey Reg.fabId, 7 + 2 * 2 ^ 32), (okey Reg.fabVatCfg, 0x333),
    (okey Reg.fabJob, 1 + 0xE0 + 0x11 * 2 ^ 16 + 0x22 * 2 ^ 32), (okey (Reg.fabJob + 16), 16), (okey Reg.fabPartJob, 64)]
    { State.reset with
      boot := .done, initing := [], slots := [(0, { Slot.init with perst := false, up := true, width := 16, speed := 5, msixOn := true, clear := List.range 64 })] }

/-- The entries of its page table. -/
def tables (s : State) : State :=
  [(0x8000000, 0x8001001), (0x8001008, 0x1F), (0x8001010, 0x7F + 2 ^ 40)].foldl (fun s e => match writeOwner s e.1 (leBytes 8 e.2) with
    | .ok t => t
    | .error _ => s) s

/-- The next state of an outcome. -/
def next? : Host.Outcome State Fault Refusal → Option State
  | .next t => some t
  | _ => none

/-- Bytes written at an address of partition 0. -/
def store (a : Nat) (bs : List Byte) (s : State) : State := match writeVa s 0 a bs with | .ok t => t | .error _ => s

/-- A waiting descriptor of partition 0 with sequence number 7. -/
def desc (engine op : Nat) (fs : List (Nat × Nat × Nat)) : Desc :=
  ⟨7, layoutBytes 64 ((0, 1, engine) :: (2, 2, op) :: fs), 0, 0, .waiting, .idle, false, false, false, false, none⟩

/-- The descriptor running with some work. -/
def runs (d : Desc) (w : Work) : Desc := { d with phase := .running, work := w }

/-- The state with ring 3 enabled and a descriptor in flight on it. -/
def flying (d : Desc) (s : State) : State := setRing s 3 { Ring.init with enabled := true, tail := 8, fetch := 8, comp := 7, cqh := 7, descs := [d] }

/-- A packet from node 1 to this node. -/
def pkt (ptype : BitVec 8) (seq : BitVec 16) : Packet :=
  ⟨ptype, 2, false, false, false, 0, 2, 1, 0, false, seq, 0, 0x11, 7, 0x22, 0x40, 0, 0, []⟩

theorem test_live_partition : alive live = true ∧ partValid live 0 = true ∧ partReady live 0 = true ∧ ringPart live 31 = some 0 ∧
    hartPart live 4 = some 0 ∧ boundJob live 0 = some 0 ∧ nodeId live = 2 ∧ linkUsable live 0 = true ∧ partSlot live 0 = some 0 := by decide +kernel

theorem test_live_memory : xlateMem live 0 .w 0x123 = some (hostKey 0 0x123) ∧ (xlateOwner live 0x8000000).isSome = true ∧
    (xlateMem (tables live) 0 .w 0x40000100).any isHbm = true := by decide +kernel

/-! ### Ill-formed fields are refused -/

theorem test_ill_formed_lanes : QA.legal .add ⟨1, 2, 3, true, 3⟩ = true ∧ QA.legal .saduW ⟨1, 2, 3, true, 2⟩ = false ∧
    QA.legal .hadd ⟨1, 2, 3, true, 2⟩ = false ∧ QA.legal .fadd ⟨1, 2, 3, true, 1⟩ = false ∧ QA.legal .fsqrt ⟨1, 2, 3, true, 2⟩ = false ∧
    QA.legal .twoSum ⟨1, 2, 3, false, 3⟩ = false ∧ QA.legal .sel ⟨1, 2, 3, true, 1⟩ = false ∧ QA.legal .ins ⟨1, 2, 2, true, 3⟩ = false ∧
    QA.legal .ins ⟨1, 2, 1, true, 3⟩ = true := by decide

theorem test_ill_formed_convert : QA.cvtLegal 5 ⟨1, 2, 0, true, 0⟩ = true ∧ QA.cvtLegal 5 ⟨1, 2, 0, true, 1⟩ = false ∧
    QA.cvtLegal 7 ⟨1, 2, 0, true, 0⟩ = false ∧ QA.cvtLegal 5 ⟨1, 2, 31, true, 0⟩ = false := by decide

theorem test_ill_formed_memory : QM.lineLegal ⟨9, 10, 31, true, 0, 15⟩ = true ∧ QM.lineLegal ⟨9, 10, 31, true, 1, 15⟩ = false ∧
    QM.groupLegal ⟨2, 11, 4, true, 1, 2⟩ = true ∧ QM.groupLegal ⟨2, 11, 5, true, 1, 2⟩ = false ∧ QM.groupLegal ⟨2, 11, 4, true, 1, 4⟩ = false ∧
    QM.gatherLegal ⟨5, 11, 4, true, 1, 2⟩ = false ∧ QM.groupLegal ⟨5, 11, 4, true, 1, 2⟩ = true := by decide

theorem test_missing_unit : exec (.portAdminUp 8 16 0) State.reset = .fault .noSuchUnit ∧ exec (.nop 1344) State.reset = .fault .noSuchUnit :=
  ⟨rfl, rfl⟩

/-! ### Short-vector words, written from Table 5 of chapter 08 -/

theorem test_word_qadd : decodeQuad 5 0b0000_10_1_00010_00001_000_00011_0001011#32 = some (.qadd 5 ⟨3, 1, 2, true, 2⟩) := by decide +kernel
theorem test_word_qsadu_x : decodeQuad 5 0b0010_00_0_00110_00101_001_00100_0001011#32 = some (.qsaduX 5 ⟨4, 5, 6, false, 0⟩) := by decide +kernel
theorem test_word_qf2prod : decodeQuad 5 0b1010_11_1_11101_11110_010_11111_0001011#32 = some (.qf2prod 5 ⟨31, 30, 29, true, 3⟩) := by decide +kernel
theorem test_word_qcmplt : decodeQuad 5 0b0001_01_1_00010_00001_011_00011_0001011#32 = some (.qcmplt 5 ⟨3, 1, 2, true, 1⟩) := by decide +kernel
theorem test_word_qsel : decodeQuad 5 0b0000_00_0_00011_00010_100_00001_0001011#32 = some (.qsel 5 ⟨1, 2, 3, false, 0⟩) := by decide +kernel
theorem test_word_qext : decodeQuad 5 0b0001_11_1_00001_00001_101_00011_0001011#32 = some (.qext 5 ⟨3, 1, 1, true, 3⟩) := by decide +kernel
theorem test_word_qcvt : decodeQuad 5 0b0101_00_1_00000_01000_110_00111_0001011#32 = some (.qcvt 5 5 ⟨7, 8, 0, true, 0⟩) := by decide +kernel
theorem test_word_qld : decodeQuad 5 0b1111_00_1_11111_01010_000_01001_0101011#32 = some (.qld 5 ⟨9, 10, 31, true, 0, 15⟩) := by decide +kernel
theorem test_word_qgather : decodeQuad 5 0b0010_01_1_00100_01011_010_00010_0101011#32 = some (.qgather 5 ⟨2, 11, 4, true, 1, 2⟩) := by decide +kernel

/-! ### Witnesses: the queue, reset and the units -/

theorem witness_StepRunsFrontCommand : ({ live with pending := [.heartbeat, .ppsSilence] } : State).pending = .heartbeat :: [.ppsSilence] := rfl

theorem witness_IdleStepPassesOnePeriod : live.pending = [] := by decide +kernel

theorem witness_CommandsStopOnlyOnMissingUnits : unitsExist (.portTrained 15) = true ∧ unitsExist (.portTrained 16) = false := by decide

theorem witness_StoresKeepMemoryCanonical : Memory.wf live.mem = true ∧ Memory.wf (store 31 [1, 2] live).mem = true ∧
    (writeVa live 0 31 [1, 2]).isOk = true := by decide +kernel

/-! ### Witnesses: the short-vector extension -/

/-- The running package, hart 0 with its short-vector extension Initial: q1 to q4 hold small elements and x10 a DPA of region 1. -/
def quad : State := setHart live 0 { Hart.init with
  csr := [(0x300, 0x8000#64)], x := [(10, 0x8000000#64), (11, 0x8000100#64)], q := [(1, 5#128), (2, 0x01000000000000000000000000000007#128), (3, 0x02#128)] }

theorem witness_QuadWordDecodesToItsCommand : quadLegal (.qadd 5 ⟨3, 1, 2, true, 2⟩) = true ∧ quadLegal (.qld 5 ⟨9, 10, 31, true, 0, 15⟩) = true ∧
    quadLegal (.qcvt 5 5 ⟨7, 8, 0, true, 0⟩) = true := by decide +kernel

theorem witness_QuadCommandHasOneWord : decodeQuad 5 0b0000_10_1_00010_00001_000_00011_0001011#32 = some (.qadd 5 ⟨3, 1, 2, true, 2⟩) := by decide +kernel

theorem quad_ready : QuadReady quad 0 := by unfold QuadReady; decide +kernel

theorem witness_QuadLaneCommands : QuadReady quad 0 ∧ QA.legal .add ⟨3, 1, 2, true, 3⟩ = true ∧ laneWise .add = true ∧
    QA.legal .fma ⟨3, 1, 2, false, 2⟩ = true ∧ laneWise .fma = true := ⟨quad_ready, by decide⟩

theorem witness_QuadAbsoluteDifferences : QuadReady quad 0 ∧ (⟨3, 1, 2, true, 1⟩ : QA).esz.toNat ≤ 1 := ⟨quad_ready, by decide⟩

theorem witness_QuadSelectAndPairs : QuadReady quad 0 ∧ (⟨3, 1, 2, true, 0⟩ : QA).esz = 0 ∧ (⟨3, 1, 2, true, 3⟩ : QA).esz = 3 ∧
    (⟨3, 1, 2, true, 3⟩ : QA).q = true := ⟨quad_ready, by decide⟩

theorem witness_QuadSumInsertExtract : QuadReady quad 0 ∧ QA.legal .hadd ⟨3, 1, 0, true, 2⟩ = true ∧
    (⟨3, 1, 15, true, 0⟩ : QA).qs2.toNat < formBits true / laneWidth ⟨3, 1, 15, true, 0⟩ := ⟨quad_ready, by decide⟩

theorem witness_QuadConvert : QuadReady quad 0 ∧ QA.cvtLegal 5 ⟨7, 8, 0, true, 0⟩ = true := ⟨quad_ready, by decide⟩

theorem witness_QuadIllegalTraps : (encodeQuad (.qadd 0 ⟨3, 1, 2, true, 2⟩)).isSome = true ∧ isHart 0 = true ∧ hartReady live 0 = true ∧
    xsOn (hartOf live 0) = false ∧ (encodeQuad (.qsaduW 0 ⟨3, 1, 2, true, 2⟩)).isSome = true ∧ quadLegal (.qsaduW 0 ⟨3, 1, 2, true, 2⟩) = false := by
  decide +kernel

theorem witness_QuadMemoryCommands : QuadReady quad 0 ∧ QM.lineLegal ⟨9, 10, 0, true, 0, 0⟩ = true ∧
    (readVia quad (hartKey quad 0 .r) (lineAddr (hartOf quad 0) ⟨9, 10, 0, true, 0, 0⟩) 16 (some (hartDie 0))).isOk = true ∧
    (writeVia quad (hartKey quad 0 .w) (lineAddr (hartOf quad 0) ⟨1, 10, 0, true, 0, 0⟩) (leBytes 16 (qReg (hartOf quad 0) 1)) (some (hartDie 0))).isOk = true ∧
    (hartKey quad 0 .w (lineAddr (hartOf quad 0) ⟨1, 10, 0, true, 0, 0⟩)).isSome = true ∧
    (let f : QM := ⟨9, 11, 2, true, 2, 2⟩
     QM.gatherLegal f = true ∧ (List.range (QM.count f)).all (fun i =>
       (readVia quad (gatherKey quad 0 .r) ((elemAddrs (hartOf quad 0) f).getD i 0) 4 (some (hartDie 0))).isOk) = true ∧ QM.groupLegal f = true) ∧
    (elemAddrs (hartOf quad 0) ⟨9, 11, 4, true, 2, 2⟩).all (fun a =>
      (writeError quad (gatherKey quad 0 .w) (some (hartDie 0)) (sectorsOf a 4)).isNone) = true := by
  refine ⟨quad_ready, by decide, by decide +kernel, by decide +kernel, by decide +kernel, ?_, by decide +kernel⟩
  decide +kernel

theorem witness_HartMemoryCommands : isHart 0 = true ∧ hartReady live 0 = true ∧ [1, 2, 4, 8, 16].contains 8 = true ∧
    (readVia live (hartKey live 0 .r) 0x8000000 8 (some (hartDie 0))).isOk = true ∧
    (writeVia live (hartKey live 0 .w) 0x8000000 (leBytes 8 1) (some (hartDie 0))).isOk = true ∧
    (lineKey live 0 8 0x8000000 .a).any isHbm = true ∧ coreAmo 2 8 0 1 0 = some 1 ∧ (lineKey live 0 8 0x8000000 .r).isSome = true ∧
    (lineKey live 0 8 0x8000000 .w).isSome = true ∧ (lineKey live 0 8 0x8000000 .w).all (fun k => !wayOff live (some (hartDie 0)) k) = true ∧
    deviceAddr live 0 .r 0xF000000000 = some 0xF000000000 ∧ deviceAddr live 0 .w 0xF040003000 = some 0xF040003000 ∧
    (hartOf live 0).csrRefused 0xF14 false = none ∧ ((hartOf live 0).csrRead 0 ((hartOf live 0).csrNo 0xF14)).isSome = true := by decide +kernel

/-- A load through the Owner's view of GLB_ID, and a doorbell that a hart of the ring's partition stores, reach the registers. -/
theorem test_hart_reads_view : (next? (exec (.hartMemoryAccess 0 .load (BitVec.ofNat 64 (0xF000000000 + 8 * 0x4000000 + Reg.fabId)) 8 0 0) live)).map
    (fun t => (hartOf t 0).reply.toNat) = some (readReg live 8 Reg.fabId) := by decide +kernel

/-- Hart 0 with the short-vector and floating-point state on: x10 a DPA of region 1, f1 1.0, f2 3.0 as boxed FP32 values. -/
def scalar : State := setHart live 0 { Hart.init with
  csr := [(0x300, 0xE000#64)], x := [(10, 0x8000000#64)], f := [(1, 0xFFFFFFFF3F800000#64), (2, 0xFFFFFFFF40400000#64)] }

theorem witness_HartMemoryCommands_scalar : isHart 0 = true ∧ hartReady scalar 0 = true ∧ fsOn (hartOf scalar 0) = true ∧
    (aluValue 0x00500093 0 0).isSome = true ∧ fieldOf 0x00500093 0 7 = 0x13 ∧ (fpOp (hartOf scalar 0) 0x1820B1D3).isSome = true ∧
    (fpFma (hartOf scalar 0) 0x102081C3).isSome = true ∧ (branchTaken (fieldOf 0x00000463 12 3) 0 0).isSome = true ∧
    deviceAddr scalar 0 .r (xReg (hartOf scalar 0) 10 + immI 0x00053283).toNat = none ∧
    (readVia scalar (hartKey scalar 0 .r) (xReg (hartOf scalar 0) 10 + immI 0x00053283).toNat 8 (some (hartDie 0))).isOk = true := by decide +kernel

/-- FDIV.S f3, f1, f2 of 1 by 3, rounding up and towards zero, as IEEE 754 has it (08 R238). -/
theorem test_fdiv_modes : ([0x1820B1D3#32, 0x182091D3#32].map (fun w => (next? (exec (.hartMemoryAccess 0 (.scalar w) 0 8 0 0) scalar)).map
    (fun t => fReg (hartOf t 0) 3))) = [some 0xFFFFFFFF3EAAAAAB, some 0xFFFFFFFF3EAAAAAA] := by decide +kernel

/-- C.LI x5, -1 and C.ADDI x2, -16 stand for the words that the RISC-V encodings give (08 R236). -/
theorem test_compressed : expand 0x52FD = some 0xFFF00293 ∧ expand 0x1141 = some 0xFF010113 := by decide

/-- mhartid of logical core 5 of P1 is 53 (08 R232). -/
theorem test_mhartid : ((hartOf live 53).csrRead 53 ((hartOf live 53).csrNo 0xF14)) = some 53 := by decide +kernel

theorem witness_HartAccessFaults : isHart 0 = true ∧ hartReady quad 0 = true ∧ deviceAddr quad 0 .r 0 = none ∧ deviceAddr quad 0 .w 0 = none ∧
    (readVia quad (hartKey quad 0 .r) 0 8 (some (hartDie 0))).isOk = false ∧
    ((localParts quad 0 .r 0 8).find? (fun y => !(readOnes quad 0 (hartKey quad 0 .r) y.1 y.2).isOk)).isSome = true ∧
    (writeVia quad (hartKey quad 0 .w) 0 (leBytes 8 1) (some (hartDie 0))).isOk = false ∧
    ((localParts quad 0 .w 0 8).find? (fun y => writeFails quad 0 (hartKey quad 0 .w) y.1 y.2)).isSome = true ∧ bankRefused quad 0 .r 0 = false ∧ xsOn (hartOf quad 0) = true ∧
    (let f : QM := ⟨9, 20, 2, true, 2, 2⟩
     QM.gatherLegal f = true ∧ ((elemAddrs (hartOf quad 0) f).find? (fun b => !(readOnes quad 0 (gatherKey quad 0 .r) b 4).isOk)).isSome = true ∧
       QM.groupLegal f = true ∧ ((elemAddrs (hartOf quad 0) f).find? (fun b => writeFails quad 0 (gatherKey quad 0 .w) b 4)).isSome = true) := by
  decide +kernel

/-- Partition 0's tables, and hart 4 running its guest. -/
def guest : State := setHart (tables live) 4 { Hart.init with mode := .vs }

theorem witness_HartVatCommands : isHart 4 = true ∧ hartReady guest 4 = true ∧ hartPart guest 4 = some 0 ∧ 0x80000040 % 4096 + 8 ≤ 4096 ∧
    hartXlate guest 4 .r 0x80000040 = some (.vat 1 0x40 false) ∧ hartXlate guest 4 .w 0x80000040 = some (.vat 1 0x40 false) ∧
    hartXlate guest 4 .a 0x80000040 = some (.vat 1 0x40 false) ∧ fdieOpen guest 4 = true ∧
    fdieOpen (setRfld guest (okey Reg.pwrDomainStatus) 4 1 0) 4 = false := by decide +kernel

/-! ### Witnesses: rings and doorbells -/

/-- The running package with ring 3 enabled: TAIL 10, FETCH 8, COMP and CQH 4, 16 entries, the host's line ahead of the device's copy. -/
def ringed : State := setRing (withRegs [(okey (Reg.rngCfg + 64 * 3), 0x104), (okey (Reg.rngSqBase + 64 * 3), 0x10000), (okey (Reg.rngCqBase + 64 * 3), 0x20000)]
  live) 3 { Ring.init with enabled := true, tail := 10, fetch := 8, comp := 6, cqh := 4, base := 9, unsignalled := 1 }

/-- The running package with ring 3's descriptor 7 in flight, as `flying`. -/
def nopDesc : Desc := desc 0 0 []

theorem open_host : DoorbellOpen ringed (.host 0) 3 0 := by
  refine ⟨?_, ?_, ?_, .inl rfl, ?_, ?_, ?_, ?_⟩ <;> decide +kernel

theorem open_hart : DoorbellOpen ringed (.hart 4) 3 0 := by
  refine ⟨?_, ?_, ?_, .inr ⟨4, rfl, ?_, ?_⟩, ?_, ?_, ?_, ?_⟩ <;> decide +kernel

theorem witness_DoorbellAcceptance : DoorbellOpen ringed (.host 0) 3 0 ∧ (ringOf ringed 3).enabled = true ∧
    (next? (exec (.sqTail (.host 0) 3 24) ringed)).map (fun t => (ringOf t 3).tail) = some 24 ∧
    (next? (exec (.sqTail (.host 0) 3 25) ringed)).map (fun t => ((ringOf t 3).tail, (ringOf t 3).dbErr)) = some (10, true) :=
  ⟨open_host, by decide +kernel, by decide +kernel, by decide +kernel⟩

theorem witness_TailWriteKeepsRingWindow : ((ringOf ringed 3).tail - (ringOf ringed 3).fetch).toNat ≤ ringEntries ringed 3 ∧
    (next? (exec (.sqTail (.host 0) 3 11) ringed)).isSome = true := by decide +kernel

theorem witness_ForeignDoorbellIgnored : ringPart ringed 3 ≠ some 1 ∧ ringPart ringed 4095 = none ∧ hartPart ringed 8 ≠ ringPart ringed 3 ∧
    hartOwner 3 = true ∧ ∃ t, exec (.base (.host 1) 3 0) ringed = .next t :=
  ⟨by decide +kernel, by decide +kernel, by decide +kernel, by decide, _, rfl⟩

theorem witness_BaseAndAbort : DoorbellOpen ringed (.hart 4) 3 0 ∧ (ringOf ringed 3).enabled = true ∧ (10#32 = (ringOf ringed 3).tail) ∧
    (let g := ringOf ringed 3
     let o := firstOpen g
     (9#32 - o).toNat < (g.tail - o).toNat ∧ (g.tail - o).toNat ≤ (10#32 - o).toNat ∧ (10#32 - o).toNat < 2 ^ 31 ∧
       (g.tail - o).toNat ≤ (7#32 - o).toNat ∧ 2 ^ 31 ≤ (7#32 - o).toNat) := ⟨open_hart, by decide +kernel⟩

theorem witness_ShadowLine : isRing 3 = true ∧ ringPart ringed 3 = some 0 ∧
    shadowHeld (setRfld (setRfld ringed (okey Reg.hifPortCfg) 12 1 1) (okey (Reg.rngShadow + 64 * 3)) 6 42 1) 3 = true ∧
    (let g := fun (a b : BitVec 32) => ringOf (setRing ringed 3 { ringOf ringed 3 with stale := true, lineTail := a, lineHead := b }) 3
     (g 0 0).stale = true ∧ (g 0 0).lineTail = (g 0 0).shadowTail ∧ (g 0 0).lineHead = (g 0 0).shadowHead ∧ (g 9 0).lineTail ≠ (g 9 0).shadowTail ∧
       (g 0 9).lineHead ≠ (g 0 9).shadowHead) := by decide +kernel

theorem witness_DescriptorReadAndFetch : isRing 3 = true ∧ ringPart ringed 3 = some 0 ∧ (ringOf ringed 3).enabled = true ∧ alive ringed = true ∧
    (ringOf ringed 3).obituary = false ∧ ringed.tapHeld = false ∧ stage ringed < 3 ∧ ringed.resetting.contains 0 = false ∧
    (let g := { ringOf ringed 3 with reads := [none] }
     let n := g.reads.length
     n < 16 ∧ n < (g.tail - g.fetch).toNat ∧ (g.fetch + BitVec.ofNat 32 n - g.cqh).toNat < ringEntries ringed 3) ∧
    (let a := sqSlot ringed 3 (ringOf ringed 3).fetch
     (issuedRead ringed 0 a (xlateMem ringed 0 .r a)).isOk = true) ∧
    (let a := ofld ringed (Reg.rngSqBase + 64 * 3) 12 36 * 4096 + 64 * ((ringOf ringed 3).fetch.toNat % ringEntries ringed 3)
     (readVa ringed 0 a 64).isOk = true ∧ descInvalid (List.replicate 64 0#8) = false ∧ descInvalid (List.replicate 64 1#8) = true) := by decide +kernel

/-- A NOP with a wait on ring 5's descriptor 0, which has no record. -/
def waitDesc : Desc := desc 0 0 [(1, 1, 2), (8, 4, 0), (12, 2, 5)]

theorem witness_NopWaitLimitAndModeration : isRing 3 = true ∧ startable (flying nopDesc live) 3 7 0 0 = some nopDesc ∧
    findDesc (flying waitDesc live) 3 7 = some waitDesc ∧ waitDesc.phase = .waiting ∧
    (waitDesc.waits.find? (fun w => judgeWait (flying waitDesc live) 0 w.1 w.2 == .open)).isSome = true ∧ (ringOf ringed 3).armed = true ∧
    0 < (ringOf ringed 3).unsignalled ∧ (slotOf ringed 0).msixOn = true ∧ (slotOf ringed 0).fmask = false ∧
    (slotOf ringed 0).clear.contains 5 = true ∧ (slotOf ringed 0).clear.contains 100 = false ∧ partSlot ringed 0 = some 0 ∧ ofld (setRfld ringed (okey (Reg.rngCfg + 64 * 3)) 32 10 1) (Reg.rngCfg + 64 * 3) 32 10 ≠ 0 ∧
    linkUsable ringed 0 = true := by decide +kernel

theorem witness_CompletionRecordWritten : (writeRecord (setRing ringed 3 { ringOf ringed 3 with descs := [nopDesc] }) 3 nopDesc St.ok 0 false).isSome = true := by
  decide +kernel

theorem witness_RingEnableAndDisable : isRing 3 = true ∧ alive live = true ∧ (regAt live 0 (Reg.rngCfg + 64 * 3)).isSome = true ∧ ringPart live 3 = some 0 ∧
    partReady live 0 = true ∧ (ringOf live 3).enabled = false ∧ (ringOf live 3).obituary = false ∧ (ringOf ringed 3).enabled = true ∧
    bitAt (0x104#64).toNat 8 = true ∧ 4 ≤ fieldOf (0x104#64).toNat 0 5 ∧ fieldOf (0x110#64).toNat 0 5 ≤ 16 ∧ fieldOf (0x103#64).toNat 0 5 < 4 ∧
    16 < fieldOf (0x111#64).toNat 0 5 ∧ bitAt (4#64).toNat 8 = false := by decide +kernel

/-! ### Witnesses: the host attachment, partition reset and register writes -/

theorem witness_HostMemoryWindowWrite : alive live = true ∧
    (let s1 := storeWord live 0 (Reg.hifHmw + 16) 0
     rfld s1 (pkey 0 (Reg.hifHmw + 16)) 0 1 = 0) ∧
    (let s1 := storeWord live 0 (Reg.hifHmw + 16) 1
     rfld s1 (pkey 0 (Reg.hifHmw + 16)) 0 1 = 1 ∧ hmwClash s1 0 1 = true) := by decide +kernel

theorem witness_HostWindowAccess : partSlot live 0 = some 0 ∧ slotRegion live 0 = some 0 ∧ linkUsable live 0 = true ∧ alive live = true ∧
    bitAt (regionWord live 0) 0 = true ∧ holdsRegion live 0 0 = true ∧
    (let size := fieldOf (regionWord live 0) 32 13 * 0x4000000
     let tr : Nat → Option Nat := fun a => some (regionKey live 0 (fieldOf (regionWord live 0) 16 13 * 0x4000000 + a))
     size ≤ windowUnits (slotCxl live 0) (fieldOf (regionWord live 0) 32 13) * 0x4000000 ∧ (readVia live tr (size - 4) 4 (some 8)).isOk = true ∧
       (writeVia live tr (size - 4) [1, 2, 3, 4] (some 8)).isOk = true) ∧
    (let s := setReg live (okey Reg.hmcRegion) (1 + 3 * 2 ^ 32)
     let size := fieldOf (regionWord s 0) 32 13 * 0x4000000
     size < size + 4 ∧ size + 4 ≤ windowUnits (slotCxl s 0) (fieldOf (regionWord s 0) 32 13) * 0x4000000) := by decide +kernel

theorem witness_HostLinkEvents : slotPart live 0 = some 0 ∧ partValid live 0 = true ∧ alive live = true ∧ live.tapHeld = false ∧ live.boot = .done ∧
    slotPowered live 0 = true ∧ [1, 2, 4, 8].contains 8 = true ∧ bitAt (reg live (okey Reg.hifPortCfg)) 0 = false ∧ (slotOf live 0).up = true ∧
    (slotOf live 0).d3hot = false ∧
    (let s := setSlot live 0 { Slot.init with perst := false }
     slotPart s 0 = some 0 ∧ (slotOf s 0).perst = false ∧ (slotOf s 0).up = false ∧ slotPowered s 0 = true) := by decide +kernel

theorem witness_PartitionResetStartAndEnd : alive live = true ∧ bitAt (0x203#64).toNat 1 = true ∧
    (actionWrite live 8 Reg.prtPartCfg 0x203).any (fun s1 => partValid s1 0) = true ∧
    ({ live with resetting := [0] } : State).resetting.contains 0 = true ∧
    (List.range 168).all (fun g => !holdsGroup live 0 g || !(groupOf live g).zeroing) = true := by decide +kernel

theorem witness_PartitionResetDisablesRings : ringPart ringed 3 = some 0 ∧ (ringOf ringed 3).enabled = true := by decide +kernel

theorem witness_RegisterWriteStoresOrIsIgnored : viewAllowed live (.host 0) 0 = true ∧ ownRow Reg.detSeed = false ∧ ringLocked live Reg.detSeed = false ∧
    alive live = true ∧ setsAction live 0 Reg.detSeed (widenWrite live 0 Reg.detSeed 8 5) = false ∧ Reg.detSeed % 8 = 0 ∧
    viewAllowed live (.host 0) 8 = false ∧ isRingWord Reg.detSeed 0x10 = false ∧ slotPart live 0 = some 0 ∧ (slotOf live 0).up = true ∧
    slotPart live 1 ≠ some 0 := by decide +kernel

/-- A write of a masked vector's control clears its mask and raises the pending vector; a write of BAR0 keeps the bits above 64 MiB (10 R304, R307, R333). -/
theorem test_function_registers : (let s := raiseVector live 0 100
     (slotOf s 0).pend = [100] ∧ s.msix = [] ∧
       (next? (exec (.registerWrite (.host 0) 16 (Fn.vectors + 800) 8 0) s)).map (fun t => ((slotOf t 0).pend, t.msix)) = some ([], [(0, 100)])) ∧
    (next? (exec (.registerWrite (.host 0) 16 Fn.bar0 8 0x123456789) live)).map (fun t => functionRead t 0 Fn.bar0) = some 0x120000004 := by
  decide +kernel

theorem witness_StoredWordAlone : (regAt live 0 Reg.detSeed).any (fun x => !actionBusy live x.1 Reg.detSeed x.2 && !x.1.shadow) = true ∧
    (regAt live 8 Reg.prtRegions).any (fun x => !actionBusy live x.1 Reg.prtRegions x.2 && x.1.shadow) = true := by decide +kernel

theorem witness_SignatureRead : alive live = true := by decide +kernel

/-! ### Witnesses: tiles -/

/-- A tile-work descriptor for tile group 0 with all banks, 4 commands from address 0x1000 and parameters at 0x2000. -/
def tileDesc : Desc := desc 1 0 [(20, 3, 1), (41, 3, 0xFFFFFF), (44, 6, 0x1000), (50, 3, 4), (54, 6, 0x2000)]

/-- The descriptor as it runs. -/
def tileRuns : Desc := runs tileDesc (.tile [])

/-- Tile 0 runs the descriptor, in front of the command whose first bytes are `b`. -/
def tiled (b : List Byte) : State :=
  let s := store 0x1000 b (flying tileRuns live)
  setTile s 0 ((tileOf s 0).start 3 7 0 0x2000)

/-- The 32 bytes of a command. -/
def command (op h : Nat) (fs : List (Nat × Nat × Nat)) : List Byte := layoutBytes 32 ((0, 4, op + 0x3F00 + h * 2 ^ 17) :: fs)

/-- Tile 0 with its next command fetched. -/
def got (s : State) : Tile := ((tileOf s 0).fetch s 0 tileRuns).1

/-- What a witness shows of a command: it dispatches, and there is a next command. -/
def sends (s : State) (b : List Byte) : Prop := Dispatches s 0 3 tileRuns (got s) b ∧ (got s).more tileRuns

theorem sends_nop : sends (tiled (command 0 0 [])) (command 0 0 []) := by unfold sends Dispatches Tile.more; decide +kernel
theorem sends_end : sends (tiled (command 1 0 [])) (command 1 0 []) := by unfold sends Dispatches Tile.more; decide +kernel
theorem sends_loop : sends (tiled (command 2 2 [(4, 4, 3)])) (command 2 2 [(4, 4, 3)]) := by unfold sends Dispatches Tile.more; decide +kernel
theorem sends_setbase : sends (tiled (command 3 5 [(8, 8, 77)])) (command 3 5 [(8, 8, 77)]) := by unfold sends Dispatches Tile.more; decide +kernel
theorem sends_addbase : sends (tiled (command 4 5 [(8, 8, 77)])) (command 4 5 [(8, 8, 77)]) := by unfold sends Dispatches Tile.more; decide +kernel
theorem sends_ldbase : sends (tiled (command 5 0 [])) (command 5 0 []) := by unfold sends Dispatches Tile.more; decide +kernel
theorem sends_bar : sends (tiled (command 6 1 [])) (command 6 1 []) := by unfold sends Dispatches Tile.more; decide +kernel

theorem witness_TileSequencerCommands :
    (let s := flying tileDesc live
     startable s 3 7 1 0 = some tileDesc ∧ tileDesc.fld 20 21 &&& groupMask s tileDesc.part = tileDesc.fld 20 21 ∧
       groupsFenced s (tileDesc.fld 20 21) = false ∧ groupsIdle s (tileDesc.fld 20 21) = true ∧
       firstReady s 3 7 (fun e => descGroups e &&& tileDesc.fld 20 21 != 0) = true ∧
       (maskGroups (tileDesc.fld 20 21)).all (fun g => (groupOf s g).lost.isEmpty) = true) ∧
    reservedZero (command 0 0 []) 17 [] = true ∧ reservedZero (command 1 0 []) 17 [] = true ∧
    (let b := command 2 2 [(4, 4, 3)]
     tileOp b = 2 ∧ reservedZero b 25 [(4, 4)] = true ∧ 1 ≤ fieldOf (leField b 0 4) 17 8 ∧ 1 ≤ leField b 4 4 ∧
       (tileOf (tiled b) 0).loops = [] ∧ (tileOf (tiled b) 0).pos + 1 + fieldOf (leField b 0 4) 17 8 ≤ tileCmds tileRuns) ∧
    tileOp (command 3 5 [(8, 8, 77)]) = 3 ∧ reservedZero (command 3 5 [(8, 8, 77)]) 20 [(8, 8)] = true ∧
    tileOp (command 4 5 [(8, 8, 77)]) = 4 ∧ reservedZero (command 4 5 [(8, 8, 77)]) 20 [(8, 8)] = true ∧
    reservedZero (command 5 0 []) 17 [] = true ∧
    (let s := tiled (command 5 0 [])
     let s0 := setTile s 0 (got s)
     (readVa s0 0 ((got s).bases.getD 7 0) 56 (some (tileDie 0))).isOk = true ∧
       (xlate s0 0 .r ((got s).bases.getD 7 0)).any (fun p => match p with | .vat _ _ _ => true | .mem _ => false) = false) ∧
    (let b := command 5 0 []
     let s := tiled b
     let v := tables (setTile s 0 { tileOf s 0 with bases := (tileOf s 0).bases.set 7 0x80000040 })
     xlate (setTile v 0 (got v)) 0 .r ((got v).bases.getD 7 0) = some (.vat 1 0x40 false) ∧ (tileOf v 0).bar = none ∧
       ((tileOf v 0).fetch v 0 tileRuns).2.isRight = true) ∧
    tileOp (command 6 1 []) = 6 ∧ reservedZero (command 6 1 []) 18 [] = true ∧
    (let s := tiled (command 6 1 [])
     let s1 := (List.range 8).foldl (fun s t => setTile s t { tileOf s t with barsG := 1, bar := if t = 0 then some 0 else none }) s
     (tileOf s1 0).bar = some 0 ∧ (tileOf s1 0).stopped = false ∧
       ∀ u, u ∈ barTiles s1 0 0 → barCount (tileOf s1 0) 0 ≤ barCount (tileOf s1 u) 0) := by decide +kernel

/-- MMA_H of one step over a block of 2 by 2 of pair tag 0, from scratchpad bytes 0x1000 and 0x2000, with CLR. -/
def mmaCmd (op a b : Nat) : List Byte := command op (8 * a + 64 * b + 4) [(4, 2, 0x80), (6, 2, 0x100), (8, 2, 1), (12, 1, 2), (13, 1, 2)]

theorem sends_mma_h : sends (tiled (mmaCmd 0x10 0 0)) (mmaCmd 0x10 0 0) := by unfold sends Dispatches Tile.more; decide +kernel
theorem sends_mma_d : sends (tiled (mmaCmd 0x11 5 6)) (mmaCmd 0x11 5 6) := by unfold sends Dispatches Tile.more; decide +kernel

/-- ACCLD or ACCST of a block of 2 by 8 FP32 elements at scratchpad byte 0x1000. -/
def accCmd (op : Nat) : List Byte := command op 0 [(4, 2, 0x80), (6, 2, 1), (12, 1, 2), (13, 1, 8)]

theorem sends_accld : sends (tiled (accCmd 0x12)) (accCmd 0x12) := by unfold sends Dispatches Tile.more; decide +kernel
theorem sends_accst : sends (tiled (accCmd 0x13)) (accCmd 0x13) := by unfold sends Dispatches Tile.more; decide +kernel

theorem witness_TileMatrixCommands :
    (let b := mmaCmd 0x10 0 0
     reservedZero b 26 [(4, 4), (8, 2), (12, 2)] = true ∧ fieldOf (leField b 12 4) 6 2 = 0 ∧ fieldOf (leField b 12 4) 14 2 = 0 ∧
       leField b 8 2 = 1 ∧ pairTag false (fieldOf (leField b 0 4) 20 3) (fieldOf (leField b 0 4) 23 3) = some 0 ∧ bitAt (leField b 0 4) 19 = true ∧
       spRangeOk (tileMask tileRuns) (0x80 * 32) (48 * typeBytes 0) = true ∧ spRangeOk (tileMask tileRuns) (0x100 * 32) (48 * typeBytes 0) = true) ∧
    (let b := mmaCmd 0x11 5 6
     tileOp b = 0x11 ∧ pairTag true (fieldOf (leField b 0 4) 20 3) (fieldOf (leField b 0 4) 23 3) = some 2 ∧
       spRangeOk (tileMask tileRuns) (0x80 * 32) (24 * typeBytes 5) = true) ∧
    (let s := { tiled (mmaCmd 0x10 0 0) with poison := [spKey 0 0x1000] }
     poisoned s (spKey 0 (0x80 * 32)) 4 = true ∧ poisoned (tiled (mmaCmd 0x10 0 0)) (spKey 0 (0x80 * 32)) 4 = false ∧
       blockPoisoned s 0 (accCmd 0x12) (tagBytes 0) = true ∧ blockPoisoned (tiled (accCmd 0x12)) 0 (accCmd 0x12) (tagBytes 0) = false) ∧
    (got (tiled (mmaCmd 0x10 0 0))).qmat.length < 8 ∧ accCheck tileRuns (accCmd 0x12) 0 21 = none ∧ fieldOf (leField (accCmd 0x12) 0 4) 19 2 = 0 := by decide +kernel

/-- A VEC program in the scratchpad of tile 0 at byte 0: one MOV of lane register 0. -/
def vecProg (s : State) : State := putBytes s (spKey 0 0) (layoutBytes 296 [(0, 1, 1), (288, 1, 1)])

/-- VEC of width 1 over 1 row and 1 column. -/
def vecCmd : List Byte := command 0x20 1 [(8, 2, 1), (10, 2, 1)]

/-- DMA_IN or DMA_OUT of 2 rows of 32 bytes through base slot 7, with MCAST or not. -/
def dmaCmd (op h : Nat) : List Byte := command op (7 + h) [(4, 2, 0x80), (6, 2, 1), (16, 4, 32), (20, 4, 2), (24, 6, 64)]

theorem sends_vec : sends (vecProg (tiled vecCmd)) vecCmd := by unfold sends Dispatches Tile.more; decide +kernel
theorem sends_dma_in : sends (tiled (dmaCmd 0x30 0)) (dmaCmd 0x30 0) := by unfold sends Dispatches Tile.more; decide +kernel
theorem sends_mcast : sends (tiled (dmaCmd 0x30 256)) (dmaCmd 0x30 256) := by unfold sends Dispatches Tile.more; decide +kernel
theorem sends_dma_out : sends (tiled (dmaCmd 0x31 0)) (dmaCmd 0x31 0) := by unfold sends Dispatches Tile.more; decide +kernel

theorem witness_TileStoreVectorAndDma :
    accCheck tileRuns (accCmd 0x13) (accOf (got (tiled (accCmd 0x13))) 0).tag 22 = none ∧
    (let s := vecProg (tiled vecCmd)
     let x := got s
     x.qvec.length < 8 ∧ (runVec (setTile s 0 x) 0 (tileMask tileRuns) 0 x.vstat x.accs vecCmd).isOk = true) ∧
    (let b := dmaCmd 0x30 0
     let c := DmaCmd.ofBytes b
     let s := tiled b
     let x := got s
     c.ok false b = true ∧ c.boundsOk false (tileMask tileRuns) = true ∧ c.mcast = false ∧ x.qdma = [] ∧
       (groupTiles 0).all (fun u => u == 0 || (dmaNext (tileOf s u)).isNone) = true) ∧
    (DmaCmd.ofBytes (dmaCmd 0x30 256)).mcast = true ∧ (DmaCmd.ofBytes (dmaCmd 0x30 256)).ok false (dmaCmd 0x30 256) = true ∧
    (let b := dmaCmd 0x31 0
     let c := DmaCmd.ofBytes b
     c.ok true b = true ∧ c.boundsOk true (tileMask tileRuns) = true ∧ c.mode = 0 ∧ (got (tiled b)).qdma = []) := by decide +kernel

theorem witness_TileQueuesQuiesceAndZeroing :
    (let s := tiled []
     let x := tileOf s 0
     let q := fun (m : List MatCmd) (v : List VecCmd) (e : List DmaEntry) => setTile s 0 { x with qmat := m, qvec := v, qdma := e }
     let run := fun (k : QueueId) (u : State) => (next? (exec (.tileQueueCmdComplete 0 k) u)).map (fun t =>
       ((tileOf t 0).qmat.length, (tileOf t 0).qvec.length, (tileOf t 0).qdma.length))
     x.running = some (3, 7) ∧ runningDesc s 3 7 1 = some tileRuns ∧ (tilesOn s 3 7).any (fun t => vatBusy s t) = false ∧
       -- a matrix command that writes set 1 waits for an earlier VEC that reads it, and a VEC for an earlier writer (03 R72)
       run .mat (q [⟨5, 1, true⟩] [⟨6, [1], 0⟩] []) = some (0, 1, 0) ∧ run .mat (q [⟨5, 1, true⟩] [⟨4, [1], 0⟩] []) = some (1, 1, 0) ∧
       run .vec (q [⟨5, 1, true⟩] [⟨6, [1], 0⟩] []) = some (1, 1, 0) ∧ run .vec (q [⟨5, 1, true⟩] [⟨4, [1], 0⟩] []) = some (1, 0, 0) ∧
       run .dma (q [] [] [⟨0, 0, [], 0, none, true, 0⟩]) = some (0, 0, 0) ∧ run .dma (q [] [] [⟨0, 0, [], 0, none, false, 0⟩]) = some (0, 0, 1) ∧
       ((tilesOn s 3 7).filterMap (fun t => (tileOf s t).failed)).head? = none ∧
       (let u := setTile s 0 { tileOf s 0 with failed := some (0x0301, 9) }
        ((tilesOn u 3 7).filterMap (fun t => (tileOf u t).failed)).head? = some (0x0301, 9))) ∧
    (groupOf (setGroup live 2 { groupOf live 2 with zeroing := true }) 2).zeroing = true ∧ live.commit = none := by decide +kernel

/-! ### Witnesses: scale units, optimiser and solves -/

/-- An answer that is no failure and meets a condition. -/
def okAnd {ε α : Type} (x : Except ε α) (f : α → Bool) : Bool := match x with | .ok a => f a | .error _ => false

/-- The running package with 2 SCU slots, configurations at 0x4000 and the table at 0x5000; slot 0 in FP16 with history of 1, slot 1 of no format. -/
def scaled : State :=
  store 0x4000 (layoutBytes 32 [(0, 1, 1), (1, 1, 1), (4, 2, 0xFFFF), (8, 4, one32), (17, 1, 1), (20, 2, 0xFFFF), (24, 4, one32)])
    (withRegs [(pkey 0 Reg.scuSlots, 2), (pkey 0 Reg.scuCfgBase, 0x4000), (pkey 0 Reg.scuTableBase, 0x5000)] live)

/-- An SCU descriptor of an operation over both slots with its image at 0x6000. -/
def scuDesc (op step : Nat) : Desc := desc 5 op [(20, 8, step), (32, 2, 2), (34, 6, 0x6000)]

theorem witness_ScuPost : (let q : Post := ⟨0, 0, 3, 7, none, 1, 0x3F800000, false⟩
    ({ scaled with posts := [q] } : State).posts.find? (fun q => q.die == 0) = some q ∧ fenced scaled 4 0 = false) := by decide +kernel

theorem witness_ScuReset : (partDies scaled 0).any (fun k => fenced scaled 4 k) = false ∧
    (let d := scuDesc 0 0
     let s := flying d scaled
     let w := scuSample s 0
     startable s 3 7 5 0 = some d ∧ scuFirst d + scuCount d ≤ w.nslots ∧ (slotCfgs s 0 w.cfg w.nslots (List.range w.nslots)).isOk = true ∧
       (writeAll s 0 (tableWrites s 0 w.table w.nslots 0 (scuRange d) ++ tableWrites s 0 w.table w.nslots 1 (scuRange d))).isOk = true) := by decide +kernel

theorem witness_ScuSaveLoad :
    (let d := scuDesc 2 0
     let s := flying d scaled
     startable s 3 7 5 2 = some d ∧ (writeVa s 0 (scuAddr d) (layoutBytes 32 [(10, 2, 2)] ++ (scuRange d).flatMap (fun i => imageRec (slotOfScu s 0 i)))).isOk = true) ∧
    (let d := scuDesc 3 0
     let s := flying d (store 0x6000 (layoutBytes 224 [(10, 2, 2)]) scaled)
     startable s 3 7 5 3 = some d ∧ okAnd (readVa s 0 (scuAddr d) 224) (fun b => leField b 8 2 == scuFirst d && leField b 10 2 == scuCount d &&
           (List.range (scuCount d)).all (fun i => (slotOfImage ((b.drop (32 + 96 * i)).take 96)).isSome)) = true) := by decide +kernel

theorem witness_ScuClose :
    (let d := scuDesc 1 9
     startable (flying d scaled) 3 7 5 1 = some d ∧ scuStepOf d ≠ pfld (flying d scaled) 0 Reg.scuStep 0 64) ∧
    (let d := scuDesc 1 0
     let s := flying d scaled
     startable s 3 7 5 1 = some d ∧ scuStepOf d = pfld s 0 Reg.scuStep 0 64 ∧ d.fld 29 1 = 0 ∧
       okAnd (slotEntries s 0 (scuSample s 0).cfg 2 (List.range 2)) (fun cfgs => (closeWith s 0 0 { scuSample s 0 with cfgs := cfgs } (fun i => if i < 2 then gatherOpen s 0 i else ⟨0, false, false⟩)).isOk) = true) ∧
    (let d := desc 5 1 [(29, 1, 1), (32, 2, 2), (34, 6, 0x6000)]
     let s := flying d scaled
     startable s 3 7 5 1 = some d ∧ d.fld 29 1 ≠ 0 ∧ okAnd (slotEntries s 0 (scuSample s 0).cfg 2 (List.range 2)) (fun cfgs =>
       let w : ScuWork := { scuSample s 0 with cfgs := cfgs }
       let u := flying (runs d (.scu w)) scaled
       decide (runningDesc u 3 7 5 = some (runs d (.scu w))) && (closeWith u 0 0 w (groupRec w)).isOk) = true) ∧
    (let d := runs (scuDesc 2 0) (.scu (scuSample scaled 0))
     runningDesc (flying d scaled) 3 7 5 = some d ∧ (d.op ≠ 1 ∨ d.fld 29 1 ≠ 1) ∧ (scuSample scaled 0).opsLeft = 0) := by decide +kernel

/-- An optimiser descriptor over tile group 0 for step 4 with parameters at 0x3000 and one entry at 0x3100. -/
def optDesc (op : Nat) : Desc := desc 2 op [(20, 3, 1), (42, 2, 1), (44, 8, 4), (52, 6, 0x3000), (58, 6, 0x3100)]

/-- The running package with the entry: W, G and M1 of one element. -/
def tuned (closed : List (Nat × Bool)) : State :=
  { store 0x3100 (layoutBytes 64 [(0, 8, 0x3200), (8, 8, 0x3300), (16, 8, 0x3400), (24, 8, 0x3500), (40, 4, 1)]) live with scuClosed := [(0, closed)] }

theorem witness_OptimiserUpdate :
    (let d := optDesc 0
     let s := flying d (tuned [(4, false)])
     d.fld 20 21 &&& groupMask s 0 = d.fld 20 21 ∧ groupsFenced s (d.fld 20 21) = false ∧ groupsIdle s (d.fld 20 21) = true ∧ startable s 3 7 2 0 = some d ∧
       firstReady s 3 7 (fun e => descGroups e &&& d.fld 20 21 != 0) = true ∧ (closedSteps s 0).reverse.find? (fun x => x.1 == 4) = some (4, false) ∧
       okAnd (readVa s 0 (d.fld 52 6) 64 (some (optDie d))) (fun b => (OptParams.ofBytes b).any (fun pr =>
         (optEntries d (fun s _ e => updateTensor s d 4 pr e) (List.range 1) ⟨s, [], []⟩).isOk)) = true) ∧
    (let d := optDesc 0
     startable (flying d (tuned [(4, true)])) 3 7 2 0 = some d ∧ (closedSteps (tuned [(4, false), (4, true)]) 0).reverse.find? (fun x => x.1 == 4) = some (4, true) ∧
       (closedSteps (tuned []) 0).reverse.find? (fun x => x.1 == 4) = none) := by decide +kernel

theorem witness_OptimiserPack :
    (let d := optDesc 1
     let s := flying d (store 0x3120 (leBytes 8 0x3600) (tuned []))
     startable s 3 7 2 1 = some d ∧ (optEntries d (fun s a e => match packEntry s 0 (optDie d) a e with
       | .error x => .error (memFail St.tileAddress x)
       | .ok s1 => .ok (s1, none)) (List.range 1) ⟨s, [], []⟩).isOk = true) ∧
    (let d := optDesc 2
     let s := flying d (store 0x3120 (leBytes 8 0x3600) (tuned []))
     startable s 3 7 2 2 = some d ∧ (optEntries d (fun s _ e => match unpackEntry s 0 (optDie d) e with
       | .error x => .error (memFail St.tileAddress x)
       | .ok s1 => .ok (s1, none)) (List.range 1) ⟨s, [], []⟩).isOk = true) ∧
    (let d := runs (optDesc 0) (.opt ⟨0, St.ok, []⟩)
     runningDesc (flying d live) 3 7 2 = some d) := by decide +kernel

/-- The running package with a solve's control block at 0x10000, header, certificate and copy header behind it: 16 block rows of one record each. -/
def posed : State :=
  let cert := layoutBytes 144 [(0, 2, 1), (4, 1, 4), (6, 2, 1), (8, 8, 5), (20, 4, 1)]
  let s0 := store 0x10000 (layoutBytes 256 [(6, 1, 1), (7, 1, 1), (8, 4, 1), (24, 8, 0x3EB0000000000000), (56, 8, 0x10400), (64, 8, 0x10700), (72, 8, 0x10500),
    (80, 8, 0x40000), (88, 8, 0x50000), (112, 8, 0x60000), (128, 8, 0x51000), (144, 8, 0x52000)]) live
  let s1 := store 0x10400 (layoutBytes 64 [(0, 1, 1), (1, 1, 4), (2, 2, 1), (4, 4, 16), (12, 2, 1), (16, 8, 5), (32, 8, 0x20000)]) s0
  let s2 := store 0x10500 (patchBytes cert 16 (leBytes 4 (crc32c cert))) s1
  store 0x10700 (layoutBytes 32 [(0, 4, 64), (4, 4, 1), (16, 8, 0x30000), (24, 8, 0x31000)]) s2

/-- A SOLVE descriptor of this control block. -/
def solveDesc : Desc := desc 3 0 [(20, 6, 0x10000)]

theorem witness_SolveStart :
    (let s := flying solveDesc posed
     startable s 3 7 3 0 = some solveDesc ∧ (let need := solveNeeds s solveDesc
       sieBusy s need.1 = false ∧ groupsIdle s need.2 = true ∧ sieBarred s 0 need.1 = false ∧
         firstReady s 3 7 (solveAfter s 0 need.1 need.2) = true) ∧ okAnd (sieGather s 0 0x10000) (fun i => !i.multi) = true) := by decide +kernel

/-- A solve that waits: `wait` 0 for a reduction, 1 for a halo, 2 at an iteration boundary. -/
def waitingSolve (wait : Nat) : SieWork :=
  ⟨⟨layoutBytes 256 [(7, 1, 1), (112, 8, 0x60000)], 4, 16, 0, 1, 5, 0, 16, [], [], [], [], [], true, 0, 0, [], [], [], []⟩, 2, [], wait, [0, 0, 0], 0, 0,
    none, 0, 0, 0, [], false, false, 0, 0, none, 0, 0, 0, List.replicate 128 0#8⟩

theorem witness_SolveEvents :
    (let d := runs solveDesc (.sie (waitingSolve 1))
     runningSolve (flying d posed) 3 7 = some (d, waitingSolve 1) ∧ d.abort = false ∧ (sieMirrorRead (flying d posed) 0 (waitingSolve 1).inp 0).isOk = true ∧
       -- wherever the counter lies in the part of WORK that the window covers (its place is open, log entry 25)
       [0, 4, 64, 0x1000].all (fun off => (sieNats (flying d posed) 0 ((waitingSolve 1).inp.cb 112 8 + off) 1 4).isOk) = true ∧
       haloArrived (waitingSolve 1) 0 = true ∧ haloArrived { waitingSolve 1 with halos := 1, inp := { (waitingSolve 1).inp with nrecv := 2 } } 1 = false) ∧
    (let w := { waitingSolve 0 with inp := { (waitingSolve 0).inp with ctrl := layoutBytes 256 [(153, 1, 1)] } }
     w.wait = 0 ∧ w.inp.multi = true ∧ w.result = none) ∧
    (let d := runs solveDesc (.sie (waitingSolve 0))
     runningSolve (flying d posed) 3 7 = some (d, waitingSolve 0) ∧ sieAnswer (waitingSolve 0) = some [0, 0, 0]) := by decide +kernel

/-- A solve of partition 1 holds die 0's SIE on ring 4, which partition 0's waiting solve on ring 3 claims by its reservation. -/
def contested (wait : Nat) : State :=
  let d := { runs solveDesc (.sie (waitingSolve wait)) with part := 1 }
  let s := setReg posed (okey Reg.prtPartCfg) (0x201 + 10 * 2 ^ 32 + 2 ^ 40)
  setRing (flying solveDesc s) 4 { Ring.init with enabled := true, descs := [d] }

theorem witness_SolveSwitch : (let d := { runs solveDesc (.sie (waitingSolve 2)) with part := 1 }
    (siesHeld (contested 2)).find? (fun x => x.2.2.dies.contains 0) = some (4, d, waitingSolve 2)) ∧ sieClaimed (contested 2) 1 0 = true ∧
    (waitingSolve 2).asked = false ∧ sieClaimed (contested 0) 1 0 = true := by decide +kernel

/-! ### Witnesses: field exchange and copy engines -/

/-- A field exchange descriptor with its control block at 0x7000. -/
def fxeDesc : Desc := desc 4 0 [(20, 8, 2), (28, 6, 0x7000)]

/-- The running package with that block: one feature of one field, one row of one column. -/
def exchanging (op fp : Nat) : State :=
  store 0x7200 (layoutBytes 512 [(0, 8, 0x9000), (16, 4, 64), (20, 4, 8), (25, 1, 1)])
    (store 0x7000 (layoutBytes 128 [(0, 1, op), (2, 2, 1), (6, 2, 1), (12, 4, 1), (16, 4, 32), (22, 2, 0xFFFF), (36, 1, 1), (56, 8, 0x8000), (64, 8, 0xA000),
      (72, 8, 0x7100), (80, 8, 0x7200), (96, 8, fp), (104, 8, 0x7600)]) live)

theorem witness_FieldExchangeStart :
    (let s := flying fxeDesc (exchanging 0 0)
     startable s 3 7 4 0 = some fxeDesc ∧ okAnd (fxeRead s 0 (fxeDesc.fld 28 6) 128) (fun c => leField c 0 1 == 0 && okAnd (fxeGather s 0 2 c) (fun w =>
       !fxeBusy s (maskDies (leField c 36 1)) && firstReady s 3 7 (fun e => fxeMask s e &&& leField c 36 1 != 0) && w.cb 96 8 == 0 && (w.dies.find? (fun x => x.die == 0 && decide (x.next < x.stop))).isSome && !w.halted)) = true) ∧
    (let s := flying fxeDesc (exchanging 1 0x7700)
     okAnd (fxeRead s 0 (fxeDesc.fld 28 6) 128) (fun c => leField c 0 1 == 1 && okAnd (fxeGather s 0 2 c) (fun w => w.cb 96 8 != 0 &&
       (writeVa s 0 (w.cb 96 8 + 8 * w.parity) (leBytes 8 0)).isOk)) = true) := by decide +kernel

theorem witness_FieldExchangeRows : ∀ op, op < 2 →
    (let s := flying fxeDesc (exchanging op 0)
     okAnd (fxeRead s 0 (fxeDesc.fld 28 6) 128) (fun c => okAnd (fxeGather s 0 2 c) (fun w =>
       let d := runs fxeDesc (.fxe w)
       decide (runningDesc (flying d s) 3 7 4 = some d) && (fxeRow (flying d s) 0 w ⟨0, 0, 1, 0, 0, false⟩).isOk &&
         !(fxeRow (flying d s) 0 { w with fields := [] } ⟨0, 0, 1, 0, 0, false⟩).isOk)) = true) := by decide +kernel

theorem witness_CopyEngineCommands : (copyPlace live 0).isSome = true ∧
    startable (flying (desc 6 0 []) live) 3 7 6 0 = some (desc 6 0 []) ∧ startable (flying (desc 6 1 []) live) 3 7 6 1 = some (desc 6 1 []) ∧
    startable (flying (desc 0x0D 0 []) live) 3 7 0x0D 0 = some (desc 0x0D 0 []) ∧
    (let w : CopyWork := ⟨0, 1, 0, [], none, 0⟩
     let d := runs (desc 6 0 []) (.copy w)
     (turnOrder (sget (fun _ => 7) (flying d live).copyTurn 0)).findSome? (fun p => engineReady (flying d live) 0 p) = some (3, d)) := by decide +kernel

/-! ### Witnesses: P-die SRAM, Lake and HBM -/

theorem witness_BankHandover :
    (let v : Word := 0x1020504#64
     bitAt v.toNat 24 = true ∧ (actionWrite live 8 Reg.prtPbankCtrl v).isSome = true ∧ fieldOf v.toNat 0 6 = 4 ∧ fieldOf v.toNat 8 6 = 5 ∧ fieldOf v.toNat 16 4 = 2 ∧
       ringInBanks ((actionWrite live 8 Reg.prtPbankCtrl v).getD live) 0 4 9 = false ∧ grantBusy ((actionWrite live 8 Reg.prtPbankCtrl v).getD live) = false) ∧
    (let v : Word := 0x100003C#64
     bitAt v.toNat 24 = true ∧ 60 ≤ fieldOf v.toNat 0 6) ∧
    (let h : Handover := ⟨4, 9, 2, [4, 5], [6]⟩
     handoverOf (setHandover live 0 (some h)) 0 = some h ∧ h.draining.contains 4 = true ∧ h.zeroing.length < 4 ∧ h.zeroing.contains 6 = true) ∧
    (let h : Handover := ⟨6, 6, 2, [], [6]⟩
     h.draining = [] ∧ h.zeroing.filter (· != 6) = []) := by decide +kernel

/-- A repair is granted where the bank group has a row left, whose number is open (log entry 12). -/
theorem witness_HmcRepair (h : rowsLeft live (bankGroup 0 0 0) ≠ 0) : repairResult live 0 0 0 0 = 1 := by
  have h1 : ¬ 2 ≤ stage live := by decide +kernel
  have h2 : testRuns live 0 = false := by decide +kernel
  unfold repairResult
  rw [if_neg h1, if_neg (fun c => h c.2), if_neg (by decide), h2]
  rfl

/-- A repair is refused for want of a row where the bank group has none left. -/
theorem witness_HmcRepairRefused (h : rowsLeft live (bankGroup 0 0 0) = 0) : repairResult live 0 0 0 0 = 3 := by
  have h1 : ¬ 2 ≤ stage live := by decide +kernel
  unfold repairResult
  rw [if_neg h1, if_pos ⟨by decide, h⟩]

/-- The ECC log that the test port reads is the counts of on-die corrections, and the read clears it (09 R301). -/
theorem test_ecc_log : (next? (exec (.testPortDone 77) { live with testPort := some (3, 2), eccLog := [(3, (5, 9))] })).map
    (fun t => (reg t (okey Reg.hmc1500Data), eccLogOf t 3)) = some (5 + 9 * 2 ^ 32, (0, 0)) := by decide +kernel

theorem witness_LakeAndHbmCommands :
    (let k := pkt 0 9
     let q : LakeReq := ⟨k, 0, 0x40000000, false⟩
     let s := { setDst live (dstKey k) { dstOf live (dstKey k) with expected := 10, queued := [9] } with lakeQ := [(0, [q])] }
     lakeFirst s (sget (fun _ => []) s.lakeQ 0) = some q) ∧
    -- an earlier request of another pair to the same line goes first, even when a later one's pair could (09 R286)
    (let k := pkt 0 9
     let j := { pkt 1 4 with spart := 3 }
     let q : LakeReq := ⟨k, 0, 0x40000000, false⟩
     let y : LakeReq := ⟨j, 0, 0x40000000, false⟩
     let s := setDst (setDst (tables live) (dstKey k) { dstOf live (dstKey k) with expected := 10, queued := [9] }) (dstKey j)
       { dstOf live (dstKey j) with expected := 5, queued := [3, 4] }
     reqBytes k ≠ 0 ∧ reqBytes j ≠ 0 ∧ lakeFirst s [y, q] = none ∧ lakeFirst s [q, y] = some q) ∧
    (let s := withRegs [(okey Reg.hmcScrub, 1), (okey Reg.hmcStackStatus, 1)] live
     ofld s Reg.hmcScrub 0 16 ≠ 0 ∧ stackReady s 0 = true ∧ alive s = true) ∧
    (let v : Word := BitVec.ofNat 64 (2 ^ 52)
     bitAt v.toNat 52 = true ∧ (actionWrite live 8 Reg.hmcRepairCtrl v).isSome = true ∧ live.repair = none ∧ repairResult live 0 0 32 0 ≠ 1) ∧
    (let v : Word := BitVec.ofNat 64 (2 ^ 16 + 2 ^ 10)
     bitAt v.toNat 16 = true ∧ fieldOf v.toNat 8 4 = 4 ∧ (actionWrite live 8 Reg.hmc1500Ctrl v).isSome = true) := by decide +kernel

/-! ### Witnesses: clocks, power, boot and the supply -/

/-- The package right after the boot ROM may run: slot A holds the first image. -/
def verifying : State := { State.reset with boot := .verifying }

/-- The check value of CRC-32C over "123456789" (15 R512). -/
theorem test_crc32c_check_value : crc32c [0x31, 0x32, 0x33, 0x34, 0x35, 0x36, 0x37, 0x38, 0x39] = 0xE3069283 := by decide +kernel

/-- A block with one bit of its data or header changed fails its check (15 R513). -/
theorem test_config_block_check : (List.range 5).all (fun i => cfgBlockOk (CfgBlock.empty (i + 1))) = true ∧
    cfgBlockOk ⟨patchBytes (CfgBlock.empty 2).bytes 2 [1], []⟩ = false ∧ cfgBlockOk ⟨(CfgBlock.empty 2).bytes ++ [0], []⟩ = false ∧
    ((goodBlock State.reset 3).any (fun b => b.sets.isEmpty)) = true := by decide +kernel

/-- The boot ROM refuses an image of another stepping, of another body or without its signature (15 R507). -/
theorem test_image_checks : imageGood Image.first = true ∧ imageGood { Image.first with header := patchBytes Image.first.header 8 [2] } = false ∧
    imageGood { Image.first with body := [0] } = false ∧ imageGood { Image.first with sigOk := false } = false := by decide +kernel

/-- The running package with the action of every board input enabled. -/
def enabled : State := (List.range 5).foldl (fun s i => setRfld s (okey (Reg.pwrInput + 8 * i)) 1 1 1) live

theorem witness_ClockAndPowerDomainCommands :
    pllDie 3 = some 3 ∧ slewingMhz (setPll live 3 1000) 3 = true ∧ alive live = true ∧
    (let v : Word := 0x1001#64
     bitAt v.toNat 12 = true ∧ (actionWrite live 8 Reg.pwrDomainCtrl v).any (fun s1 => domainResult s1 (ofld s1 Reg.pwrDomainCtrl 0 5) false != 1) = true) ∧
    (let v : Word := 0x1116#64
     (actionWrite (setRfld live (okey Reg.pwrDomainStatus) 22 1 0) 8 Reg.pwrDomainCtrl v).any (fun s1 => domainResult s1 22 true == 1 &&
       ofld s1 Reg.pwrDomainCtrl 0 5 == 22 && ofld s1 Reg.pwrDomainCtrl 8 1 == 1) = true) ∧
    clockRuns live 22 = true ∧ clockRuns live 23 = false ∧ live.ramps = [] ∧ live.rampSteps = [] ∧
    ({ live with ramps := [(22, true)] } : State).ramps.find? (fun x => x.1 == 22) = some (22, true) ∧
    ({ live with ramps := [(0, true)] } : State).ramps.find? (fun x => x.1 == 0) = some (0, true) ∧
    live.boot ≠ .off ∧ domainOn live 22 = true := by decide +kernel

theorem witness_ThermalAndPowerLimitCommands : alive live = true ∧ 95 > stackTemp live 6 ∧ 95 > stackTemp live 7 ∧
    heatCap (setHeatCap live 3 (floorMhz 3)) 3 = floorMhz 3 ∧ (setHeatCap live 3 (floorMhz 3)).dutyDie.contains 3 = false ∧
    domainOn live 15 = true ∧ live.refresh2.contains 2 = false ∧ ({ live with refresh2 := [2] } : State).refresh2.contains 2 = true ∧
    (let s := withRegs [(okey Reg.pwrLimit, 1000)] { live with pcap := 3000 }
     ofld s Reg.pwrLimit 0 12 = 1000 ∧ pcapDue s 10000 = true ∧ pcapDue s 100000 = true ∧ s.pcap < 3300) := by decide +kernel

theorem witness_BootAndResetCommands : ({ live with vin := false } : State).vin = false ∧ live.vin = true ∧
    (let s := { State.reset with por := true, vin := true, boot := .off, trip := false }
     s.boot = .off ∧ s.por = true ∧ s.vin = true ∧ s.trip = false) ∧
    (verifying.boot = .verifying ∧ verifying.ramps = [] ∧ verifying.warm = 0 ∧ verifying.fatal = none ∧
      (bootChoice verifying).map (·.1) = some false ∧ (CfgBlock.empty 1).bytes.length = 32 ∧
      cfgBlockOk ⟨List.replicate 32 0#8, []⟩ = false ∧ bootChoice { verifying with slotA := none, slotB := none } = none) ∧
    (let s := { live with boot := .memInit, initing := [14] }
     s.initing.contains 14 = true ∧ alive s = true ∧ s.boot = .memInit ∧
       (initDomain { s with initing := s.initing.filter (· != 14) } 14).boot = .memInit ∧
       (initDomain { s with initing := s.initing.filter (· != 14) } 14).initing = []) ∧
    (let s := { live with boot := .memInit, initing := [14, 15] }
     (initDomain { s with initing := s.initing.filter (· != 14) } 14).initing ≠ []) ∧
    (let s := { live with initing := [14] }
     s.boot ≠ .memInit ∧ (initDomain { s with initing := s.initing.filter (· != 14) } 14).boot ≠ .memInit) ∧
    (let v : Word := 0x5A01#64
     bitAt v.toNat 0 = true ∧ fieldOf v.toNat 8 8 = 0x5A) ∧
    inputOn enabled 4 = true ∧ inputLevel enabled 4 = false := by decide +kernel

theorem witness_SupplyStageCommands :
    (let s := { live with vin := true }
     s.vin = true ∧ stage s < max (min (sampleStage 11000) (sampleStage 11000)) (b2n true) ∧ max (min (sampleStage 12000) (sampleStage 12000)) (b2n false) ≤ stage s ∧
       stage s < 4) ∧
    (let s := setRfld { live with vin := true } (okey Reg.pwrSagStatus) 0 3 2
     stage s ≠ 0 ∧ stage s < 4 ∧ leaveMv (stage s) ≤ 12000) ∧
    (let s := setRfld { live with vin := true } (okey Reg.pwrSagStatus) 0 3 4
     stage s = 4 ∧ inputLevel s 1 = false) := by decide +kernel

/-! ### Witnesses: board inputs, the timebase and fabric ports -/

theorem witness_InputTimeAndTestPortCommands : live.boot ≠ .off ∧ inputLevel (setLevel live 2 true) 2 = true ∧ live.stuckTold.contains 2 = false ∧
    ({ live with warm := 3 } : State).warm = 3 ∧ live.warm ≠ 3 ∧ (List.range 5).all (inputOn enabled) = true ∧ inputLevel enabled 1 = false ∧ stage enabled < 4 ∧ enabled.boot ≠ .off ∧
    inputLevel enabled 2 = false ∧
    ofld (setRfld live (okey Reg.tmbCtrl) 4 1 1) Reg.tmbCtrl 4 1 ≠ 0 ∧ live.ppsSince = false ∧ ({ live with ppsSince := true } : State).ppsSince = true ∧
    (regAt live 8 Reg.tmbAdjust).isSome = true ∧ partsOf State.reset = [] ∧ partsOf live ≠ [] := by decide +kernel

/-- The running package with port 0 up to a switch, in a state. -/
def ported (st : Nat) : State :=
  setPort (withRegs [(okey Reg.fabPortCfg, 0x102), (okey Reg.fabPortStatus, st + 0x80)] live) 0 { Port.init with cfg := 2, credits := [10, 10, 10, 10] }

/-- A record of another fabric with a partner's NODE and GLOBAL_ID that can be read. -/
def otherRecord : List Byte :=
  let r := layoutBytes 60 [(0, 1, 1), (1, 1, 2), (4, 4, 99), (8, 2, 77), (10, 2, 0xFFF)]
  r ++ leBytes 4 (crc32c r)

/-- A discovery record that port 0 of `ported` accepts. -/
def goodRecord : List Byte :=
  let r := layoutBytes 60 [(0, 1, 1), (1, 1, 2), (4, 4, 99), (10, 2, 0xFFF), (12, 1, 4), (13, 1, 4), (14, 1, 4), (15, 1, 4)]
  r ++ leBytes 4 (crc32c r)

theorem witness_FabricPortCommands :
    alive live = true ∧ bitAt (0x102#64).toNat 8 = true ∧ portAdmin live 0 = false ∧ bitAt (0x2#64).toNat 8 = false ∧ portAdmin (ported 4) 0 = true ∧
    portState (ported 1) 0 = 1 ∧ usableLanes (portOf (ported 1) 0) ≠ 0 ∧ portState (ported 0) 0 = 0 ∧ mayTrain (ported 0) 0 = true ∧
    portState (ported 2) 0 = 2 ∧ portState (ported 5) 0 = 5 ∧ isJarip (ported 4) 0 = true ∧ portState (ported 4) 0 = 4 ∧ portState (ported 6) 0 = 6 ∧
    (portOf (ported 6) 0).sparing = none ∧ recordOk (ported 3) 0 goodRecord = true ∧ recordOk (ported 5) 0 [] = false ∧
    recordHeard [] = false ∧ recordOk (ported 5) 0 otherRecord = false ∧ recordHeard otherRecord = true ∧ ofld (ported 5) Reg.fabPortStatus 32 18 ≠ 99 ∧
    (portOf (ported 6) 0).sent = [] ∧ (portOf (ported 6) 0).held = [] ∧
    flitPort (ported 4) 0 = true := by decide +kernel

theorem witness_FabricFlits :
    (let f := flitBytes 0 0 0 []
     flitGood f = true ∧ fieldOf (leField f 0 4) 24 4 = 0 ∧
       fieldOf (leField f 0 4) 0 12 = ((flitAck { portOf (ported 4) 0 with fails := 0 } 0).rxLast + 1) % 4096) ∧
    (let f := flitBytes 7 0 0 []
     flitGood f = true ∧ fieldOf (leField f 0 4) 0 12 ≠ ((flitAck { portOf (ported 4) 0 with fails := 0 } 0).rxLast + 1) % 4096) ∧
    (let f := flitBytes 0 0 2 []
     flitGood f = true ∧ fieldOf (leField f 0 4) 24 4 = 2) ∧
    (let f := flitBytes 0 0 3 []
     flitGood f = true ∧ fieldOf (leField f 0 4) 24 4 = 3) ∧
    flitGood [] = false ∧ (portOf (ported 4) 0).fails < 15 ∧
    (portOf (setPort (ported 4) 0 { portOf (ported 4) 0 with fails := 15 }) 0).fails = 15 := by decide +kernel

theorem witness_FabricLanes : 1 ≤ portRole (ported 4) 0 ∧ portRole (ported 4) 0 ≤ 4 ∧ freeSpare (ported 4) 0 = none ∧
    (let s := fun st => { setPort (ported st) 0 { portOf (ported st) 0 with nbrCaps := 4 } with spareBind := [(0, 1)] }
     freeSpare (setPort (s 4) 0 ((portOf (s 4) 0).wear 5)) 0 = some 0 ∧ stage (s 4) < 2 ∧ portState (s 4) 0 = 4 ∧
       portState (s 6) 0 = 6 ∧ (portOf (s 6) 0).sparing = none ∧ portAdmin (s 6) 0 = true) ∧
    (let s := { setPort (ported 6) 0 { portOf (ported 6) 0 with nbrCaps := 4, sparing := some 5 } with spareBind := [(0, 1)] }
     freeSpare s 0 = some 0 ∧ portState s 0 = 6 ∧ (portOf s 0).sparing = some 5) := by decide +kernel

/-- A lane that a spare carries and that wears again no longer counts as carried: without another spare the port runs on 4 lanes (11 R357). -/
theorem test_spared_lane_wears : usableLanes { Port.init with bad := [5], spares := [(5, 0)] } = 8 ∧
    usableLanes (({ Port.init with bad := [5], spares := [(5, 0)] } : Port).wear 5) = 4 := by decide

/-! ### Witnesses: Vat requests, packets and Ethernet -/

/-- A write of 8 bytes to node 1 that waits at F-die 0. -/
def asked : VatReq := ⟨0, .hart 4 0x40 0, 0, 1, 0x40, false, 1, 8, List.replicate 8 1#8⟩

/-- The pair to node 1 with a write, number 9, and a read, number 10, that are not answered. -/
def unanswered : State :=
  setSrc live (srcKey 0 0 1) ⟨11, [⟨9, .hart 4 0x40 0, 0, 8, pkt 1 9, 0, none, 0, false⟩, ⟨10, .hart 4 0x40 0, 0, 8, pkt 0 10, 0, none, 0, false⟩], none, some 9⟩

theorem witness_FabricRequestIssue :
    (let s := { live with vatQueue := [asked] }
     domainOpen s 4 = true ∧ nextVat s 0 = some asked ∧ alive s = true ∧ stage s < 4 ∧ boundJob s 0 = some 0) ∧
    (let s := setReg { live with vatQueue := [asked] } (okey Reg.fabPartJob) 0
     nextVat s 0 = some asked ∧ boundJob s 0 = none) ∧
    (let s := setRfld { live with vatQueue := [asked] } (okey Reg.pwrDomainStatus) 4 1 0
     domainOpen s 4 = false ∧ s.vatQueue.find? (fun y => y.fdie == 0) = some asked) ∧
    ((pkt 1 9).age.toNat + 5 ≤ 250 ∧ (pkt 1 9).hops.toNat < 40 ∧ ({ pkt 1 9 with dest := 6 } : Packet).dest.toNat ≠ nodeId live) := by decide +kernel

theorem witness_FabricRequestArrival :
    (∀ op : BitVec 8, op = 0 ∨ op = 1 ∨ op = 2 → (pkt op 0).ptype = op) ∧ live.tapHeld = false ∧ (pkt 1 0).dest.toNat = nodeId live ∧
    seqDiff (pkt 1 0).seq.toNat (dstOf live (dstKey (pkt 1 0))).expected = 0 ∧ seqDiff (pkt 1 9).seq.toNat (dstOf live (dstKey (pkt 1 9))).expected = 9 ∧
    (dstOf live (dstKey (pkt 1 9))).held.any (fun y => y.seq == (pkt 1 9).seq) = false ∧
    32768 ≤ seqDiff (pkt 1 0xFFFF).seq.toNat (dstOf live (dstKey (pkt 1 0xFFFF))).expected ∧
    (acceptReq mordantAct live { pkt 1 0 with key := 0x33 }).2 = true := by
  refine ⟨fun op h => rfl, ?_⟩
  decide +kernel

/-- Early arrivals are held or refused by the reorder space, whose size is open (log entry 17). -/
theorem witness_FabricReorder : (dstOf live (dstKey (pkt 1 9))).held.length < Config.reorderSpace ∨
    Config.reorderSpace ≤ (dstOf live (dstKey (pkt 1 9))).held.length := by omega

theorem witness_FabricAnswers : (pkt 3 10).dest.toNat = nodeId unanswered ∧
    ((srcOf unanswered (replyKey (pkt 3 10))).reqs.find? (fun q => q.seq == (10#16).toNat)).isSome = true ∧
    (srcOf unanswered (replyKey (pkt 4 9))).reqs.any (fun q => decide (seqDiff (9#16).toNat q.seq < 32768) &&
      (q.pkt.ptype == 1 || q.pkt.ptype == 8 || (q.pkt.ptype == 2 && !bitAt q.pkt.aop.toNat 7))) = true ∧
    (srcOf unanswered (replyKey (pkt 5 9))).reqs ≠ [] ∧ (srcOf unanswered (srcKey 0 0 1)).backoff = some 9 ∧
    (dstOf live (dstKey (pkt 7 5))).synced = none ∧
    (let s := setDst live (dstKey (pkt 7 5)) { DstPair.init with expected := 6, synced := some 5 }
     (dstOf s (dstKey (pkt 7 5))).synced = some (pkt 7 5).seq.toNat ∧ seqDiff 6 5 < 32768) := by decide +kernel

theorem witness_FabricFence : (let d := desc 8 0 []
    startable (flying d live) 3 7 8 0 = some d ∧ d.fld 20 1 = 0 ∧
      (flying d live).vatQueue.any (fun q => q.part == d.part && (match q.src with | .hart _ _ _ => true | _ => false)) = false) := by decide +kernel

/-- The running package with 4 QPs of partition 0 from number 16 on, QP 1 on ring 3 in a state. -/
def networked (st : Nat) : State :=
  setQp (withRegs [(okey Reg.ethQpQuota, 16 + 4 * 2 ^ 32)] live) 0 1 { Qp.init with st := st, ctx := layoutBytes 64 [(3, 1, 0x77), (4, 2, 3), (6, 2, 3)] }

theorem witness_EthernetDescriptors :
    (∀ op, op < 6 →
      let d := desc 7 op [(20, 2, 1), (24, 6, 0x4000), (32, 4, 64)]
      let s := flying d (networked 3)
      startable s 3 7 7 op = some d) ∧
    1 < qpCount (networked 3) 0 ∧ (qpOf (networked 3) 0 1).st = 3 ∧ (qpOf (networked 2) 0 1).st ≠ 3 ∧ neeFenced (networked 3) (qpOf (networked 3) 0 1) = false ∧
    (qpOf (networked 3) 0 1).sring = 3 ∧ (qpOf (networked 3) 0 1).rring = 3 ∧
    (∀ op, op < 5 → let d := desc 7 op [(20, 2, 1), (24, 6, 0x4000), (32, 4, 64)]
      (netMessage (flying d (networked 3)) d op).isOk = true) := by decide +kernel

theorem witness_EthernetModify :
    (let d := desc 7 6 [(20, 2, 1)]
     let s := store 128 [3#8] (flying d (networked 2))
     startable s 3 7 7 6 = some d ∧ pfld s 0 Reg.ethQpcBase 7 41 = 0 ∧ (match readVa s 0 128 64 with | .ok b => leField b 0 1 == 3 | .error _ => false) = true) := by
  decide +kernel

/-- A frame for QP 1 of partition 0. -/
def frame (psn : BitVec 24) (op : RoceOp) : Frame := ⟨true, true, false, 17, psn, op, []⟩

theorem witness_EthernetFrames :
    (let s := networked 3
     let q := qpOf s 0 1
     qpBase s 0 ≤ 17 ∧ 17 - qpBase s 0 < qpCount s 0 ∧ isRequest (frame 0 .send) = true ∧ ((0#24).toNat + 2 ^ 24 - q.recvPsn) % 2 ^ 24 = 0 ∧
       0 < ((5#24).toNat + 2 ^ 24 - q.recvPsn) % 2 ^ 24 ∧ ((5#24).toNat + 2 ^ 24 - q.recvPsn) % 2 ^ 24 < 2 ^ 23 ∧ isRequest (frame 0 (.ack 0)) = false) ∧
    (let q := { qpOf (networked 3) 0 1 with ops := [⟨3, 7, 0, 0, 1⟩] }
     let s := setQp (networked 3) 0 1 q
     (qpOf s 0 1).ops = [⟨3, 7, 0, 0, 1⟩] ∧ (qpOf s 0 1).st = 3 ∧ (qpOf s 0 1).retries < (qpOf s 0 1).retryMax ∧ (qpOf s 0 1).rnrs < (qpOf s 0 1).rnrMax ∧
       (qpOf (setQp s 0 1 { q with retries := 7, rnrs := 7 }) 0 1).retryMax ≤ 7 ∧ (qpOf (setQp s 0 1 { q with retries := 7, rnrs := 7 }) 0 1).rnrMax ≤ 7) := by
  decide +kernel

/-! ### Witnesses: collectives and launches -/

/-- The running package with group 0, nodes 1, 2 and 3 with this node as the root, and group 1, nodes 2 and 3 with node 3 as the root, both of
job table entry 0. -/
def grouped : State :=
  let strides := 2 ^ 44 + 2 ^ 48 + 2 ^ 52
  withRegs [(okey Reg.morGroup, 1 + 2 ^ 16 + 2 * 2 ^ 32 + strides), (okey (Reg.morGroup + 32), 1 + 2 * 2 ^ 16 + 2 ^ 32 + strides)] live

/-- A COLLECTIVE descriptor of group 0 over `n` UINT32 SUM lanes. -/
def collDesc (op n : Nat) : Desc := desc 9 op [(21, 1, n), (22, 1, 1), (32, 6, 0x4000), (38, 6, 0x4100)]

theorem witness_CollectiveStart :
    (∀ op, op < 3 → startable (flying (collDesc op 1) grouped) 3 7 9 op = some (collDesc op 1)) ∧
    morBodyOk (flying (collDesc 0 1) grouped) (collDesc 0 1) = true ∧ morBodyOk (flying (collDesc 1 1) grouped) (collDesc 1 1) = true ∧
    morBodyOk (flying (collDesc 2 1) grouped) (collDesc 2 1) = true ∧ morBodyOk (flying (collDesc 3 0) grouped) (collDesc 3 0) = true ∧
    startable (flying (collDesc 3 0) grouped) 3 7 9 3 = some (collDesc 3 0) ∧
    morBodyOk live (collDesc 0 1) = false ∧ morRank grouped 0 = 1 ∧ (collDesc 2 1).fld 26 2 = 0 ∧
    (readVa grouped 0 0x4000 16).isOk = true ∧ (readVa grouped 0 0x10000000 16).isOk = false ∧
    (let d := desc 9 0 [(21, 1, 1), (22, 1, 5), (32, 6, 0x4000), (38, 6, 0x4100)]
     let s := setReg (flying d grouped) (pkey 0 Reg.detCtrl) 1
     startable s 3 7 9 0 = some d ∧ morBodyOk s d = true ∧ pfld s 0 Reg.detCtrl 0 1 = 1 ∧ bitAt (groupWord s (d.fld 20 1)) 1 = false ∧
       (next? (exec (.allreduce 3 7) s)).map (fun t => (t.mordantWait, t.wire, (findDesc t 3 7).isSome)) = some ([], [], false)) := by decide +kernel

theorem witness_CollectiveBulk :
    (let d := desc 9 4 [(24, 4, 16), (32, 6, 0x4000), (38, 6, 0x4100)]
     let s := flying d grouped
     startable s 3 7 9 4 = some d ∧ bulkBodyOk s d = true ∧ bulkBodyOk (flying d live) d = false) ∧
    (let d := desc 9 5 [(24, 4, 64)]
     let s := flying d grouped
     startable s 3 7 9 5 = some d ∧ atoaBodyOk s d = true ∧ atoaBodyOk (flying d live) d = false) ∧
    (∀ op, 6 ≤ op → op < 9 →
      let d := desc 9 op [(32, 6, 0x4000)]
      let s := store 0x4000 (layoutBytes 64 [(5, 1, 1), (8, 4, 256), (40, 8, 1)]) (flying d live)
      startable s 3 7 9 op = some d ∧ d.fld 28 4 ≤ 60000 ∧ boundJob s 0 ≠ none) ∧
    qcbOk (layoutBytes 64 [(5, 1, 1), (8, 4, 256), (40, 8, 1)]) = true ∧
    (let w : QueueWork := ⟨[], true, 0⟩
     let d := runs (desc 9 6 []) (.queue w)
     runningDesc (flying d live) 3 7 9 = some d) := by decide +kernel

/-- A Mordant packet of operation 0 of a group. -/
def mpkt (src : BitVec 12) (group : BitVec 8) (kind : BitVec 4) (phase : BitVec 2) : MPacket :=
  ⟨src, 0x11, 0x22, group, kind, phase, 0, 0, 1, 0, 1, false, List.replicate 64 0#8, 0, false, 0, 0, 0, 0⟩

/-- The context of that operation, with its value when `v`, and nacked when `v`. -/
def mctx (group : Nat) (v : Bool) : MCtx := ⟨group, 0, [0, 1, 0, 1, 0], some ⟨group, 0, [1], [5], 0, 100, 3, 7, 0⟩, [(none, [5])],
  if v then some [5] else none, v, none, false⟩

theorem witness_MordantArrival : alive grouped = true ∧ stage grouped < 4 ∧ grouped.tapHeld = false ∧
    (let w := fun (k : MPacket) => mordantBytes k (nodeId grouped)
     let k := mpkt 1 0 0 0
     edgeCheck grouped (w k) = .grant 0 0 ∧ edgeCheck grouped (w { k with key := 9 }) = .refuse ∧
       edgeCheck (setRfld grouped (okey Reg.fabJob) 0 2 2) (w k) = .discard ∧
       seqDiff k.seq.toNat (dstOf grouped (dstKey (w k))).expected = 0 ∧
       seqDiff ({ k with seq := 9 } : MPacket).seq.toNat (dstOf grouped (dstKey (w k))).expected = 9 ∧
       32768 ≤ seqDiff ({ k with seq := 0xFFFF } : MPacket).seq.toNat (dstOf grouped (dstKey (w k))).expected ∧
       (dstOf grouped (dstKey (w k))).held.any (fun y => y.seq == 9) = false) := by decide +kernel

/-- A partial in turn is acknowledged and taken into its context; a copy of it is acknowledged again and changes no context (12 R406, 11 R367). -/
theorem test_partial_once : (let s := { grouped with mctxs := [mctx 0 false] }
    let t := (next? (exec (.mordantPartial (mpkt 1 0 0 0)) s)).getD s
    let u := (next? (exec (.mordantPartial (mpkt 1 0 0 0)) t)).getD s
    (t.mctxs.map (fun c => c.got.length) = [2] ∧ (dstOf t (dstKey (mordantBytes (mpkt 1 0 0 0) 2))).expected = 1 ∧ u.mctxs = t.mctxs)) := by decide +kernel

theorem witness_MordantPackets :
    (let s := { grouped with mctxs := [mctx 0 false] }
     morAllowed s (mpkt 1 0 0 0) = true ∧ morCtx s 0 0 = some (mctx 0 false) ∧ ((groupTree s 0).kids s (nodeId s)).contains 1 = true ∧
       (mctx 0 false).got.any (fun x => x.1 == some 1) = false ∧ (mctx 0 false).hdr = packetHdr (mpkt 1 0 0 0) ∧ (mctx 0 false).hdr ≠ packetHdr (mpkt 1 0 1 0) ∧
       (groupTree s 0).parent s (nodeId s) ≠ some 1 ∧ (mctx 0 false).own ≠ none ∧ (mctx 0 false).val = none) ∧
    (let s := { grouped with mctxs := [mctx 1 true] }
     morAllowed s (mpkt 3 1 0 1) = true ∧ morCtx s 1 0 = some (mctx 1 true) ∧ (groupTree s 1).parent s (nodeId s) = some 3 ∧ (mctx 1 true).val = some [5] ∧
       (mctx 1 true).nacked = true) := by decide +kernel

/-- A LAUNCH or TEARDOWN of job 0x55 over nodes 1, 2 and 3. -/
def launchDesc (op : Nat) : Desc := desc 0x0A op [(20, 2, 0x55), (24, 4, 0x66), (28, 2, 1), (30, 1, 2), (33, 3, 0x010101)]

/-- A launch packet of that shape. -/
def lpkt (kind : BitVec 4) : MPacket := { mpkt 1 0 kind 0 with job := 0x55, key := 0x66, payload := launchShape (launchDesc 0) }

/-- That launch at this node: its root or below node 1. -/
def launching (phase answer : Nat) (root : Bool) : LaunchSt :=
  ⟨0x55, 0x66, launchShape (launchDesc 0), phase, answer, answer == 2, none, none, if root then none else some 1,
    [⟨1, false, none⟩, ⟨3, false, none⟩], 0, if root then some (3, 7) else none, [], [], false, false⟩

/-- The running package with partition 0 admitting job 0x55 with its launch block at 0x3000, and the launch. -/
def launched (x : LaunchSt) : State :=
  store 0x3000 (layoutBytes 32 [(0, 2, 0x55)])
    { withRegs [(okey Reg.morAdmit, 0x10055), (okey (Reg.morAdmit + 8), 0x3000)] live with launches := [x] }

theorem witness_LaunchStart :
    (∀ op, op < 2 → startable (flying (launchDesc op) live) 3 7 0x0A op = some (launchDesc op) ∧ launchDescOk (flying (launchDesc op) live) (launchDesc op) = true) ∧
    launchDescOk live (desc 0x0A 0 []) = false ∧ launchOf live 0x55 0x66 = none ∧ ((shapeTree (lpkt 8).payload []).rank live (nodeId live)).isSome = true ∧
    (shapeTree (lpkt 8).payload []).fits live = true := by decide +kernel

theorem witness_LaunchArrival : [8, 9, 10, 11, 12, 13, 14].all (fun n =>
      let w := mordantBytes (lpkt (BitVec.ofNat 4 n)) (nodeId live)
      edgeCheck live w == .grant 0 0 && seqDiff (lpkt 8).seq.toNat (dstOf live (dstKey w)).expected == 0) = true := by decide +kernel

theorem witness_LaunchPackets :
    launchOf (launched (launching 0 1 true)) 0x55 0x66 = some (launching 0 1 true) ∧ launchOf (launched (launching 0 1 false)) 0x55 0x66 = some (launching 0 1 false) ∧
    (launching 0 1 true).kids.any (fun c => c.node == 1) = true ∧ (launching 0 1 true).root ≠ none ∧ (launching 0 1 true).parent = none ∧
    (launching 0 1 true).kids.any (fun k => k.node == 1 && !k.acked) = true ∧ (launching 0 1 true).kids.any (fun k => k.node == 1 && k.counts.isNone) = true ∧
    (launching 0 2 true).busy = true ∧ (launching 0 2 true).answer = 2 := by decide +kernel

theorem witness_LaunchAnswers :
    (let s := launched (launching 0 0 false)
     (launchAnswer s (launching 0 0 false)).answer = 1 ∧ (launchAnswer s (launching 0 0 false)).part = some 0) ∧
    (launchAnswer (setRfld (launched (launching 0 0 false)) (okey Reg.morAdmit) 17 2 3) (launching 0 0 false)).answer = 2 ∧
    (launchAnswer live (launching 0 0 false)).answer = 3 ∧
    retiredPart (withRegs [(okey (Reg.fabJob + 32), 2)] live) 1 = some 0 ∧ ofld live Reg.morAdmit 17 2 ≠ 3 := by decide +kernel

/-! ### Witnesses: units, spares and Swatch -/

/-- An error of tile 5. -/
def err (cls : Nat) (writable : Bool) : ErrEvent := { mkErr 2 cls 1 5 none 0 [] with writable := writable }

theorem witness_UnitErrors : unitIndex (err 2 true).unit < unitCount 1 ∧ (unitOf live 1 5).st = 0 ∧ alive live = true ∧ (err 2 false).writable = false ∧
    (unitOf (setUnit live 1 5 ⟨1, some (1, 5), false, false⟩) 1 5).st = 1 ∧ (unitOf (setUnit live 1 5 ⟨2, none, false, false⟩) 1 5).st = 2 ∧
    (unitOf live 0 (unitIndex 0)).st = 0 ∧
    (let e : ErrEvent := { mkErr 2 2 9 4 none 0 [3] with struck := false }
     let s := classAction (setUnit live 9 4 ⟨1, some (9, 4), false, false⟩) e true
     e.unitType = 9 ∧ e.cls = 2 ∧ hartReady s (unitIndex e.unit) = true) := by decide +kernel

/-- What ECC errors leave: a correction of a stack's on-die code counts, an uncorrectable word of a tile's scratchpad and a sector of HBM can no longer be read (09 R291,
R293, R294). -/
theorem witness_EccEffects :
    (let e := { mkErr 2 1 8 3 none 0 (leBytes 1 0 ++ leBytes 1 3) with writable := true }
     ofld (eccEffect e live) (Reg.hmcStackStatus + 24) 32 16 = 1 ∧ (eccLogOf (eccEffect e live) 3).1 = 1) ∧
    (let e := mkErr 2 2 1 5 none 0x108 [3]
     poisoned (eccEffect e live) (spKey 5 0x10C) 1 = true) ∧
    (let e := mkErr 2 2 8 0 none 0x40 [1]
     (eccKey live e).any (fun k => isHbm k && isBad (eccEffect e live) k 32) = true) := by decide +kernel

theorem witness_UnitClear :
    (let v : Word := 0x1000501#64
     bitAt v.toNat 24 = true ∧ fieldOf v.toNat 0 4 = 1 ∧ fieldOf v.toNat 8 11 = 5 ∧
       (actionWrite (setUnit live 1 5 ⟨2, none, false, false⟩) 8 Reg.errUnitCtrl v).any (fun s1 => fenced s1 1 5) = true ∧
       (actionWrite live 8 Reg.errUnitCtrl v).any (fun s1 => !fenced s1 1 5) = true) ∧
    (let s := setUnit (withRegs [(okey Reg.errUnitCtrl, 0x1000503)] live) 3 5 ⟨2, none, true, false⟩
     ofld s Reg.errUnitCtrl 24 1 = 1 ∧ ofld s Reg.errUnitCtrl 0 4 = 3 ∧ (unitOf s 3 5).testing = true ∧ wornClass 3 5 = none) ∧
    wornClass 1 5 = some (1, 0, 5) ∧ live.worn.contains (1, 0, 5) = false ∧
    (let w : Window := ⟨2, 1, 5, 3, some (err 1 true, 9)⟩
     ({ live with windows := [w] } : State).windows.find? (fun w => w.kind == 2 && w.utype == 1 && w.unit == 5) = some w) ∧
    bitAt (0x100#64).toNat 8 = true := by decide +kernel

/-- The running package with AUTO sparing and a worn part. -/
def worn (cls die ix : Nat) : State := { withRegs [(okey Reg.errSpareCtrl, 1), (okey Reg.tilDieInfo, 8 * 2 ^ 8), (okey Reg.glbPdieInfo, 2 * 2 ^ 8)] live with worn := [(cls, die, ix)] }

theorem witness_Spares :
    ofld (setReg live (okey Reg.errSpareCtrl) 0) Reg.errSpareCtrl 0 1 = 0 ∧ ofld (worn 1 0 5) Reg.errSpareCtrl 0 1 = 1 ∧ live.worn.contains (1, 0, 5) = false ∧
    (actionWrite live 8 Reg.errSpareCtrl 0x1000510#64).isSome = true ∧ bitAt (0x1000510#64).toNat 24 = true ∧
    spareMay (worn 1 0 5) 1 (tileDie 5) 5 = true ∧ bitAt (busyGroups (worn 1 0 5)) 0 = false ∧ (groupOf (worn 1 0 5) 0).zeroing = false ∧
    (groupOf (worn 1 0 5) 0).withdrawn = false ∧ (groupOf (worn 1 0 5) 0).sparing = none ∧ (groupOf (worn 1 0 5) 0).swatch = none ∧
    domainOpen (worn 1 0 5) (22 + tileDie 5) = true ∧ withdrawMay (setReg (worn 1 0 5) (okey Reg.errSpareCtrl) 0) 1 (tileDie 5) 5 = true ∧ sparesFor (worn 1 0 5) 1 0 5 ≠ 0 ∧
    sparesFor (setReg (worn 1 0 5) (okey Reg.tilDieInfo) 0) 1 0 5 = 0 ∧
    (groupOf (setGroup (worn 1 0 5) 0 { groupOf (worn 1 0 5) 0 with sparing := some 5 }) 0).sparing = some 5 ∧ spareTiles (worn 1 0 5) 0 ≠ [] := by decide +kernel

theorem witness_SparesOfCoresAndWays :
    spareMay (worn 2 0 4) 2 (4 / 48) 4 = true ∧ (worn 2 0 4).clusterGone.contains (12 * (4 / 48) + 4 % 48 / 4) = false ∧ sparesFor (worn 2 0 4) 2 0 4 ≠ 0 ∧
    sparesFor (setReg (worn 2 0 4) (okey Reg.glbPdieInfo) 0) 2 0 4 = 0 ∧ spareCores (worn 2 0 4) 0 ≠ [] ∧
    spareMay (worn 4 0 3) 4 0 3 = true ∧ (worn 4 0 3).wayGone.contains (0, 3) = false ∧ sget (fun _ => none) (worn 4 0 3).wayMove 0 = none ∧
    bitAt (ofld (worn 4 0 3) Reg.lakWayStatus 0 16) 0 = false ∧ bitAt (ofld (setReg (worn 4 0 3) (okey Reg.lakWayStatus) 1) Reg.lakWayStatus 0 16) 0 = true ∧
    sget (fun _ => none) ({ worn 4 0 3 with wayMove := [(0, some 3)] } : State).wayMove 0 = some 3 := by decide +kernel

/-- The running package with a Swatch package of one pattern, enabled at rate 1. -/
def swatched : State :=
  { withRegs [(okey Reg.errSwatchCtrl, 3)] live with swPkg := some ⟨4, 1, true, [], [⟨9, 100⟩]⟩ }

theorem witness_Swatch :
    (actionWrite live 8 Reg.errSwatchCtrl (BitVec.ofNat 64 (2 ^ 48))).isSome = true ∧
    (let s := setRfld live (okey Reg.errSwatchCtrl) 48 1 1
     ofld s Reg.errSwatchCtrl 48 1 = 1 ∧ ofld s Reg.errSwatchCtrl 16 32 ≤ 4 ∧ 4 < ofld (setRfld s (okey Reg.errSwatchCtrl) 16 32 9) Reg.errSwatchCtrl 16 32) ∧
    bitAt (reg swatched (okey Reg.errSwatchCtrl)) 0 = true ∧ fieldOf (reg swatched (okey Reg.errSwatchCtrl)) 1 3 ≠ 0 ∧ stage swatched < 2 ∧
    groupsIdle swatched (2 ^ 0) = true ∧ (groupOf swatched 0).withdrawn = false ∧ groupAwaited swatched 0 = false ∧
    domainOpen swatched (22 + 0 / 21) = true ∧
    (let x := groupOf (setGroup swatched 0 { groupOf swatched 0 with swatch := some 0, swLeft := [5] }) 0
     x.swatch = some 0 ∧ x.swLeft.contains 5 = true ∧ x.swFailed.contains 5 = false) := by decide +kernel

/-! ### Witnesses: snapshots, Proof, commits and attestation -/

/-- A SNAP or RESTORE of one empty region listed at 0x4000 into the local slot of this node. -/
def snapDesc (op : Nat) : Desc := desc 0x0B op [(28, 2, 2 * op), (30, 1, 1), (32, 6, 0x4000), (38, 2, 1), (52, 4, 1)]

theorem witness_SnapAndRestore :
    (let d := snapDesc 0
     let s := flying d live
     let l := regionList 1 (List.replicate 16 0#8)
     startable s 3 7 0x0B 0 = some d ∧ snapBodyOk s d = true ∧ okAnd (readVa s 0 0x4000 16) (fun bs => bs == List.replicate 16 0#8) = true ∧ partsOk d l = true ∧
       (copyPlace s 0).isSome = true ∧ snapOf s 0 = none ∧ (readParts s 0 l).isOk = true ∧
       (let s1 := setSnap (startWork s 3 d .idle) 0 (some ⟨3, 7, [], []⟩)
        (findDesc s1 3 7).any (fun d1 => (slotPut s1 3 d1 ⟨0, 0, l, [], [], [], 0, 0⟩ (snapToLocal d) (snapToRemote d) commitOff (leBytes 8 0)).isOk) = true) ∧
       snapOf (setSnap s 0 (some ⟨4, 9, [], []⟩)) 0 ≠ none) ∧
    (let d := snapDesc 1
     let s := flying d live
     startable s 3 7 0x0B 1 = some d ∧ snapBodyOk s d = true ∧ (restoreLocal s d).any (fun a => (readVa s 0 a (headerBytes 1)).isOk && (readVa s 0 (a + commitOff) 8).isOk) = true) := by
  decide +kernel

theorem witness_DigestAndSign :
    (let d := desc 0x0B 2 [(32, 8, 65536)]
     startable (flying d live) 3 7 0x0B 2 = some d ∧ bodyZeroBut d.bytes [(20, 6), (26, 6), (32, 8)] = true ∧ 0 < d.fld 32 8 ∧ d.fld 32 8 ≤ 2 ^ 40) ∧
    (let d := desc 0x0B 3 [(20, 6, 0x4000), (28, 4, 1)]
     let s := store 0x4000 (layoutBytes 128 [(0, 4, 1), (32, 4, 1)]) (flying d live)
     startable s 3 7 0x0B 3 = some d ∧ s.signing = none ∧ bodyZeroBut d.bytes [(20, 6), (28, 4)] = true ∧ okAnd (readVa s 0 0x4000 128) (fun h => leField h 0 4 == 1 && leField h 4 1 == 0 && leField h 32 4 == 1) = true ∧
       okAnd (writeVa s 0 (0x4000 + 36) (leBytes 4 (ofld s Reg.fabId 0 18))) (fun s1 => (readVa s1 0 0x4000 (128 + 96)).isOk) = true) := by decide +kernel

/-- The signature's bytes are open, and the store that takes them in is not refused whatever they are. -/
theorem witness_SignDone :
    (let d := runs (desc 0x0B 3 [(20, 6, 0x4000), (28, 4, 1)]) (.snap ⟨0, 0, [], [], [], [], 0, 0⟩)
     let s := { flying d live with signing := some (3, 7) }
     s.signing = some (3, 7) ∧ runningDesc s 3 7 0x0B = some d ∧ (sectorsOf (0x4000 + 224) 96).all (fun x => (xlateMem s 0 .w x.1).isSome) = true) := by
  decide +kernel

theorem witness_SnapStall :
    (let w : SnapWork := ⟨0, 1, [(0x10000, 0x20000)], [], [], [], 0, 0⟩
     let d := runs (snapDesc 0) (.snap w)
     let n : Snap := ⟨3, 7, [1], []⟩
     let s := setSnap (flying d live) 0 (some n)
     snapOf s 0 = some n ∧ protectedBy (snapParts s n) n.blocks 0x20010 8 = true) := by decide +kernel

/-- PROOF over two digests, own list at 0x4000 and inbox at 0x5000. -/
def proofDesc : Desc := desc 0x0C 0 [(30, 2, 2), (32, 6, 0x4000), (38, 6, 0x5000)]

theorem witness_Proof :
    startable (flying proofDesc live) 3 7 0x0C 0 = some proofDesc ∧ stage live < 2 ∧ proofDescOk proofDesc = true ∧ proofDescOk (desc 0x0C 0 []) = false ∧
    (let d := runs proofDesc .idle
     let s := store 0x5000 (layoutBytes 80 [(56, 8, 1), (72, 8, 5)]) (flying d live)
     runningDesc s 3 7 0x0C = some d ∧ okAnd (readVa s 0 0x5000 80) (fun inbox => okAnd (readVa s 0 0x4000 80) (fun own =>
       leField inbox 56 8 == (d.fld 20 8 + 1) % 2 ^ 64 && leField own 8 8 == leField inbox 8 8 && leField own 16 4 == leField inbox 16 4 &&
         proofDiffs own inbox 2 == [1] && proofDiffs own own 2 == [])) = true) ∧
    okAnd (readVa live 0 0x5000 80) (fun inbox => leField inbox 56 8 != (proofDesc.fld 20 8 + 1) % 2 ^ 64) = true := by decide +kernel

theorem witness_CommitAndLifeCycleCommands :
    bitAt (1#64).toNat 0 = true ∧ (actionWrite State.reset 8 Reg.prtCommit 1).isSome = true ∧
    (let w : CommitWork := ⟨true, [3], [], []⟩
     let s := { live with commit := some w }
     s.commit = some w ∧ w.groups.all (fun g => !(groupOf s g).zeroing) = true) ∧
    (let s := { withRegs [(okey Reg.secStatus, 9)] live with running := some Image.first }
     ofld s Reg.secStatus 3 1 = 1 ∧ s.tick - s.smcStart ≤ 6000000000 ∧ (actionWrite s 8 Reg.secCtrl 1).isSome = true) ∧
    ofld live Reg.secCtrl 8 3 ≠ 1 ∧
    (let s := withRegs [(okey Reg.secCtrl, 0x100), (okey Reg.secStatus, 1)] live
     ofld s Reg.secCtrl 8 3 = 1 ∧ lifeCycle s = 1 ∧ (actionWrite s 8 Reg.secCtrl 0x14).any (fun s1 => fieldMove 1 (ofld s1 Reg.secCtrl 1 2)) = true ∧
       (actionWrite s 8 Reg.secCtrl 0x10).any (fun s1 => !fieldMove 1 (ofld s1 Reg.secCtrl 1 2)) = true) := by decide +kernel

theorem witness_CommitRefused (s c : State) (h : lifeCycle s ≠ 1) : (commitRefusal s c).isSome = true := by
  rw [Option.isSome_iff_ne_none]
  intro hn
  have := (List.findSome?_eq_none_iff.1 hn) (if lifeCycle s = 1 then none else some 0, 13)
    (List.mk_mem_zipIdx_iff_getElem?.2 rfl)
  simp [h] at this

theorem witness_CommitGranted : (let s := withRegs [(okey Reg.secStatus, 1)] { State.reset with boot := .done }
    alive s = true ∧ (actionWrite s 8 Reg.prtCommit 1).any (fun s1 => (commitRefusal s1 (makeLive s1)).isNone) = true) := by decide +kernel

theorem witness_AttestationCommands :
    (let s := { withRegs [(okey Reg.secStatus, 1)] live with running := some Image.first, keys := true }
     spdmReady s (.doe 0) = true ∧ spdmReady s .mctpI3c = true ∧ reachable s .mctpI3c = true ∧ reachable s .mctpSmbus = true ∧ reachable s (.doe 0) = true ∧ signs s = true ∧ signs { s with keys := false } = false ∧ s.boot ≠ .recovery ∧
       fieldMove (lifeCycle s) (2#2).toNat = true) := by decide +kernel

/-- An offset 0 is never past a certificate chain, whose bytes are open (log entry 13). -/
theorem witness_AttestationChain (s : State) : 0 ≤ (certChain s 0).length := Nat.zero_le _

end Sys2Proof.Tests
end

section
/-! SUPPORT. Short-vector registers as lanes: a packed value reads back lane by lane, and what an instruction of format QA writes
(08 R241, R242). -/

namespace Sys2Proof.Machine

theorem fieldOf_eq_div_mod (v lo n : Nat) : fieldOf v lo n = v / 2 ^ lo % 2 ^ n := by
  rw [fieldOf, Nat.shiftRight_eq_div_pow]

/-- A packed value fits into its elements' bits. -/
theorem packElems_lt (w : Nat) (es : List Nat) : packElems w es < 2 ^ (es.length * w) := by
  induction es with
  | nil => simp [packElems]
  | cons e es ih =>
    have he : e % 2 ^ w < 2 ^ w := Nat.mod_lt _ (Nat.two_pow_pos w)
    calc packElems w (e :: es) = e % 2 ^ w + 2 ^ w * packElems w es := rfl
      _ < 2 ^ w * (packElems w es + 1) := by rw [Nat.mul_add, Nat.mul_one]; omega
      _ ≤ 2 ^ w * 2 ^ (es.length * w) := Nat.mul_le_mul_left _ ih
      _ = 2 ^ ((e :: es).length * w) := by rw [← Nat.pow_add, List.length_cons, Nat.succ_mul, Nat.add_comm]

/-- An element of a packed value, cut to its width. -/
theorem fieldOf_packElems (w : Nat) (es : List Nat) (i : Nat) (h : i < es.length) :
    fieldOf (packElems w es) (i * w) w = es[i] % 2 ^ w := by
  induction es generalizing i with
  | nil => simp at h
  | cons e es ih =>
    rw [packElems]
    cases i with
    | zero => simp [fieldOf_eq_div_mod]
    | succ i =>
      have hdiv : (e % 2 ^ w + 2 ^ w * packElems w es) / 2 ^ w = packElems w es := by
        rw [Nat.add_mul_div_left _ _ (Nat.two_pow_pos w), Nat.div_eq_of_lt (Nat.mod_lt _ (Nat.two_pow_pos w)), Nat.zero_add]
      rw [fieldOf_eq_div_mod, Nat.succ_mul, Nat.add_comm (i * w), Nat.pow_add, ← Nat.div_div_eq_div_mul, hdiv, ← fieldOf_eq_div_mod]
      exact ih i (Nat.lt_of_succ_lt_succ h)

theorem formBits_le (q : Bool) : formBits q ≤ 128 := by cases q <;> simp [formBits]

/-! ### The write of a short-vector register -/

/-- A write of CSR fields touches the hart's CSRs alone. -/
theorem Hart.setFlds_eq (x : Hart) (n : Nat) (l : List (Nat × Nat × Nat)) : x.setFlds n l = { x with csr := (x.setFlds n l).csr } := rfl

/-- XS becoming Dirty touches the hart's CSRs alone. -/
theorem Hart.dirty_eq (x : Hart) : x.dirty = { x with csr := x.dirty.csr } := by
  rw [Hart.dirty]
  cases x.guest
  · exact Hart.setFlds_eq x _ _
  · rw [if_pos rfl, Hart.setFlds_eq, Hart.setFlds_eq x]

theorem accrue_zero (x : Hart) : accrue x 0 = x := by simp [accrue, bitAt, b2n]

/-- A short-vector register after a write. -/
theorem qReg_setQ (x : Hart) (r v i : Nat) : qReg (setQ x r v) i = if i = r then v % 2 ^ 128 else qReg x i := by
  simp only [qReg, setQ, sget_sset]
  split <;> simp

@[simp] theorem qReg_accrue_next (x : Hart) (fl i : Nat) : qReg (accrue x fl).next i = qReg x i := rfl

theorem fcsr_setQ_next (x : Hart) (r v fl : Nat) : (accrue (setQ x r v) fl).next.fcsr = (accrue x fl).fcsr := by
  rw [setQ, Hart.dirty_eq]
  rfl

theorem qstat_setQ_next (x : Hart) (r v fl : Nat) : (accrue (setQ x r v) fl).next.qstat = x.qstat := by
  rw [setQ, Hart.dirty_eq]
  rfl

/-- The end of an instruction that writes a short-vector register: the register, XS, the flags and the pc, and nothing else of the hart. -/
theorem quadWrote_setQ (x : Hart) (qd v fl bits : Nat) (hv : v < 2 ^ bits) : QuadWrote x (accrue (setQ x qd v) fl).next qd bits := by
  refine ⟨?_, fun r hr => ?_, ?_⟩
  · simp only [Hart.next, accrue, setQ]
    rw [Hart.dirty_eq]
  · rw [qReg_accrue_next, qReg_setQ, if_neg hr]
  · rw [qReg_accrue_next, qReg_setQ, if_pos rfl]
    exact (Nat.mod_le _ _).trans_lt hv

/-- A lane of a register just written with packed elements that fit into it. -/
theorem lane_setQ_packElems (x : Hart) (w qd fl : Nat) (es : List Nat) (hes : es.length * w ≤ 128) (i : Nat) (hi : i < es.length) :
    lane (accrue (setQ x qd (packElems w es)) fl).next w qd i = es[i] % 2 ^ w := by
  have hlt : packElems w es < 2 ^ 128 := (packElems_lt w es).trans_le (Nat.pow_le_pow_right (by decide) hes)
  rw [lane, qReg_accrue_next, qReg_setQ, if_pos rfl, Nat.mod_eq_of_lt hlt, fieldOf_packElems w es i hi]

/-- A write of a hart changes that hart alone. -/
theorem onlyHart_setHart (s : State) (h : Nat) (y : Hart) : OnlyHart s (setHart s h y) h :=
  ⟨rfl, fun k hk => hartOf_setHart_other s h k y hk, fun _ => rfl⟩

/-- An instruction of format QA that executes with legal fields writes its value and accrues its flags (08 R242, Table 2). -/
theorem qArith_legal {s : State} {h : Nat} {op : QOp} {f : QA} (hr : QuadReady s h) (hl : QA.legal op f = true) (r : Nat × Nat)
    (hv : qValue op f (qReg (hartOf s h) f.qs1.toNat) (qReg (hartOf s h) f.qs2.toNat) (qReg (hartOf s h) f.qd.toNat) = r) :
    qArith op h f s = setHart s h (accrue (setQ (hartOf s h) f.qd.toNat r.1) r.2).next := by
  rw [qArith, hl, qInstr_legal hr, hv]

/-! ### Sums of absolute differences (08 R243) -/

/-- The operation that adds absolute differences, by the sign of its elements and the width of its lanes. -/
def sadOp (signed wide : Bool) : QOp :=
  if wide then (if signed then .sadsX else .saduX) else (if signed then .sadsW else .saduW)

/-- Bits of an accumulator lane. -/
def sadBits (wide : Bool) : Nat := if wide then 64 else 32

/-- The exact absolute difference of two elements of width `w`. -/
def absDiff (signed : Bool) (w a b : Nat) : Nat :=
  if signed then (toSigned w a - toSigned w b).natAbs else ((a : Int) - (b : Int)).natAbs

theorem exec_qaInstr_sadOp (s : State) (h : Nat) (f : QA) (signed wide : Bool) :
    exec (qaInstr h f (sadOp signed wide)) s = onUnit (isHart h) (qArith (sadOp signed wide) h f s) := by
  cases signed <;> cases wide <;> rfl

theorem legal_sadOp (f : QA) (signed wide : Bool) (h : f.esz.toNat ≤ 1) : QA.legal (sadOp signed wide) f = true := by
  cases signed <;> cases wide <;> exact decide_eq_true h

theorem qValue_sadOp (f : QA) (signed wide : Bool) (a b d : Nat) :
    qValue (sadOp signed wide) f a b d = (packElems (sadBits wide) (sadLanes signed (laneWidth f) (sadBits wide) (formBits f.q) a b d), 0) := by
  cases signed <;> cases wide <;> rfl

/-- The model's difference of two elements, which subtracts the smaller unsigned one from the larger, is the absolute one. -/
theorem sadLanes_diff (signed : Bool) (w a b : Nat) :
    (if signed then (toSigned w a - toSigned w b).natAbs else if a < b then b - a else a - b) = absDiff signed w a b := by
  cases signed with
  | true => rfl
  | false =>
    simp only [absDiff, Bool.false_eq_true, if_false]
    split <;> omega

theorem foldl_add_eq_sum (g : Nat → Nat) (l : List Nat) (a : Nat) : l.foldl (fun acc i => acc + g i) a = a + (l.map g).sum := by
  induction l generalizing a with
  | nil => simp
  | cons i l ih => rw [List.foldl_cons, ih, List.map_cons, List.sum_cons, Nat.add_assoc]

/-- The lanes that the command writes to qd. -/
def sadSums (x : Hart) (f : QA) (signed wide : Bool) : List Nat :=
  sadLanes signed (laneWidth f) (sadBits wide) (formBits f.q) (qReg x f.qs1.toNat) (qReg x f.qs2.toNat) (qReg x f.qd.toNat)

theorem sadSums_length (x : Hart) (f : QA) (signed wide : Bool) : (sadSums x f signed wide).length = formBits f.q / sadBits wide := by
  simp [sadSums, sadLanes]

/-- The lanes fill the form. -/
theorem sadSums_fill (x : Hart) (f : QA) (signed wide : Bool) : (sadSums x f signed wide).length * sadBits wide = formBits f.q := by
  rw [sadSums_length]
  cases f.q <;> cases wide <;> rfl

/-- A lane gains the absolute differences of the elements within its bits, modulo the lane. -/
theorem sadSums_getElem (x : Hart) (f : QA) (signed wide : Bool) (l : Nat) (hl : l < (sadSums x f signed wide).length) :
    (sadSums x f signed wide)[l] = (lane x (sadBits wide) f.qd.toNat l + ((List.range (sadBits wide / laneWidth f)).map (fun i =>
      absDiff signed (laneWidth f) (lane x (laneWidth f) f.qs1.toNat (l * (sadBits wide / laneWidth f) + i))
        (lane x (laneWidth f) f.qs2.toNat (l * (sadBits wide / laneWidth f) + i)))).sum) % 2 ^ sadBits wide := by
  simp only [sadSums, sadLanes, List.getElem_map, List.getElem_range, sadLanes_diff, foldl_add_eq_sum, lane]

/-- The command packs its lanes into qd and accrues no flag. -/
theorem exec_sadOp {s : State} {h : Nat} {f : QA} (hr : QuadReady s h) (hesz : f.esz.toNat ≤ 1) (signed wide : Bool) :
    exec (qaInstr h f (sadOp signed wide)) s = .next (setHart s h
      (accrue (setQ (hartOf s h) f.qd.toNat (packElems (sadBits wide) (sadSums (hartOf s h) f signed wide))) 0).next) := by
  rw [exec_qaInstr_sadOp, onUnit_next hr.1, qArith_legal hr (legal_sadOp f signed wide hesz) _ (qValue_sadOp f signed wide _ _ _)]
  rfl

/-- Settles O10: a QSADU or QSADS writes its packed lanes and accrues no flag, and each lane reads back as the sum. -/
theorem quadAbsoluteDifferences : Obligations.QuadAbsoluteDifferences := by
  unfold Obligations.QuadAbsoluteDifferences
  intro s h f signed wide hr hesz w lw c x diff
  have hc : c = qaInstr h f (sadOp signed wide) := by cases signed <;> cases wide <;> rfl
  have hfill := sadSums_fill x f signed wide
  refine ⟨_, hc ▸ exec_sadOp hr hesz signed wide, onlyHart_setHart s h _, ?_⟩
  rw [hartOf_setHart_same]
  refine ⟨quadWrote_setQ x _ _ 0 _ (hfill ▸ packElems_lt _ _), fun l hl => ?_, ?_, ?_⟩
  · have hl' : l < (sadSums x f signed wide).length := sadSums_length x f signed wide ▸ hl
    calc lane _ lw f.qd.toNat l = (sadSums x f signed wide)[l] % 2 ^ lw :=
          lane_setQ_packElems x lw _ 0 _ (hfill ▸ formBits_le f.q) l hl'
      _ = _ := by
          rw [sadSums_getElem]
          exact Nat.mod_mod _ _
  · exact (fcsr_setQ_next x _ _ 0).trans (congrArg Hart.fcsr (accrue_zero x))
  · exact qstat_setQ_next x _ _ 0

end Sys2Proof.Machine
end

section
/-! SUPPORT. The handover of P-die SRAM banks (08 R259, R260). -/

namespace Sys2Proof.Machine

/-- RESULT of the handover that a word of PRT_PBANK_CTRL_d asks for. -/
def requestResult (s : State) (d : Nat) (v : Word) : Nat :=
  handoverResult s d (fieldOf v.toNat 0 6) (fieldOf v.toNat 8 6) (fieldOf v.toNat 16 4)

/-- The handover that the word starts, with all its banks draining. -/
def requested (v : Word) : Handover :=
  let first := fieldOf v.toNat 0 6
  let last := first + fieldOf v.toNat 8 6
  ⟨first, last, fieldOf v.toNat 16 4, (List.range (last + 1 - first)).map (· + first), []⟩

section
variable {s s1 : State} {view d : Nat} {v : Word} (hgo : bitAt v.toNat 24 = true) (hs : alive s = true)
  (hw : actionWrite s view (Reg.prtPbankCtrl + 0x40 * d) v = some s1)
include hgo hs hw

/-- A refused handover shows its RESULT and changes nothing else. -/
theorem pbankHandover_refused (hres : requestResult s d v ≠ 1) :
    pbankHandover view d v s = setResult s1 (Reg.prtPbankCtrl + 0x40 * d) 24 0 28 3 (requestResult s d v) := by
  unfold requestResult at hres ⊢
  simp [pbankHandover, hgo, hs, hw, hres]

/-- A granted handover shows its banks unassigned. -/
theorem pbankHandover_granted (hres : requestResult s d v = 1) :
    pbankHandover view d v s = setHandover (setResult ((requested v).draining.foldl (fun s b => setBankOwner s d b 15) s1)
      (Reg.prtPbankCtrl + 0x40 * d) 24 1 28 3 1) d (some (requested v)) := by
  unfold requestResult at hres
  simp [pbankHandover, hgo, hs, hw, hres, requested]

end

/-- A drained bank starts to zero while fewer than 4 do. -/
theorem pbankDrainDone_starts {s : State} {d b : Nat} {h : Handover} (hs : alive s = true) (hh : handoverOf s d = some h)
    (hb : h.draining.contains b = true) (hn : h.zeroing.length < 4) :
    pbankDrainDone d b s = setHandover s d (some { h with draining := h.draining.filter (· != b), zeroing := h.zeroing ++ [b] }) := by
  simp only [pbankDrainDone, hh, hb, hs, decide_eq_true hn, Bool.and_self, if_true]

/-- The state with a bank zeroed and its owner recorded. -/
def bankZeroed (s : State) (d b owner : Nat) : State :=
  setBankOwner (zeroRange s (sramKey d (b * 0x100000)) (sramKey d ((b + 1) * 0x100000))) d b owner

theorem byteAt_bankZeroed (s : State) (d b owner key : Nat) : byteAt (bankZeroed s d b owner) key =
    if sramKey d (b * 0x100000) ≤ key ∧ key < sramKey d ((b + 1) * 0x100000) then 0#8 else byteAt s key :=
  byteAt_zeroRange s _ _ key

/-- The last bank of a handover ends it: the epoch and the measurement move on. -/
theorem pbankZeroDone_last {s : State} {d b : Nat} {h : Handover} (hs : alive s = true) (hh : handoverOf s d = some h)
    (hb : h.zeroing.contains b = true) (hd : h.draining = []) (hz : h.zeroing.filter (· != b) = []) :
    pbankZeroDone d b s = extendMeas (bumpPrtEpoch
      (setHandover (setResult (bankZeroed s d b h.owner) (Reg.prtPbankCtrl + 0x40 * d) 24 0 28 3 0) d none)) := by
  simp only [pbankZeroDone, hh, hb, hs, hd, hz]
  rfl

/-- Any other bank leaves the handover to the banks that drain or zero still. -/
theorem pbankZeroDone_more {s : State} {d b : Nat} {h : Handover} (hs : alive s = true) (hh : handoverOf s d = some h)
    (hb : h.zeroing.contains b = true) (hm : h.draining ≠ [] ∨ h.zeroing.filter (· != b) ≠ []) :
    pbankZeroDone d b s = setHandover (bankZeroed s d b h.owner) d (some { h with zeroing := h.zeroing.filter (· != b) }) := by
  have hne : (h.draining.isEmpty && (h.zeroing.filter (· != b)).isEmpty) = false := by
    rcases hm with hm | hm <;> simp [List.isEmpty_eq_false_iff.2 hm]
  simp only [pbankZeroDone, hh, hb, hs, hne]
  rfl

/-! ### The commands of a handover -/

theorem exec_pbankHandover {d : Nat} (hd : d < 2) (view : Nat) (v : Word) (s : State) :
    exec (.pbankHandover view d v) s = .next (pbankHandover view d v s) := onUnit_next (decide_eq_true hd) _

theorem exec_pbankDrainDone {d b : Nat} (hd : d < 2) (hb : b < 64) (s : State) :
    exec (.pbankDrainDone d b) s = .next (pbankDrainDone d b s) := onUnit_next (by simp [hd, hb]) _

theorem exec_pbankZeroDone {d b : Nat} (hd : d < 2) (hb : b < 64) (s : State) :
    exec (.pbankZeroDone d b) s = .next (launchWake (pbankZeroDone d b s)) := onUnit_next (by simp [hd, hb]) _

/-- Settles O45: each command of a handover has the effect of its case, and zeroing a bank clears its bytes alone. -/
theorem bankHandover : Obligations.BankHandover := by
  unfold Obligations.BankHandover
  intro s d hd hs
  refine ⟨fun view v s1 hgo hw => ⟨fun hres => ?_, fun hres => ?_⟩, fun b h hb hh hin hn => ?_,
    fun b h hb hh hin => ⟨fun hdr hz => ?_, fun hm => ?_, fun key => ?_⟩⟩
  · rw [exec_pbankHandover hd, pbankHandover_refused hgo hs hw hres]
    rfl
  · rw [exec_pbankHandover hd, pbankHandover_granted hgo hs hw hres]
    rfl
  · rw [exec_pbankDrainDone hd hb, pbankDrainDone_starts hs hh hin hn]
  · rw [exec_pbankZeroDone hd hb, pbankZeroDone_last hs hh hin hdr hz]
    rfl
  · rw [exec_pbankZeroDone hd hb, pbankZeroDone_more hs hh hin hm]
    rfl
  · exact byteAt_bankZeroed s d b h.owner key

end Sys2Proof.Machine
end

section
/-! SUPPORT. What a write of a doorbell register does at an open doorbell of an enabled ring (10 R318, R325, R326). -/

namespace Sys2Proof.Machine

/-- A refused doorbell write sets DB_ERR and emits one record: an event of kind 0x05 of the ring, for the ring's partition (10 R318). -/
theorem refuseDoorbell_emits (s : State) (r p : Nat) (v : BitVec 32) :
    ∃ e : ErrEvent, e.kind = 0x05 ∧ e.part = some p ∧ e.ring = r ∧
      refuseDoorbell s r p v = (errEmit (setRing s r { ringOf s r with dbErr := true }) e).1 := ⟨_, rfl, rfl, rfl, rfl⟩

section
variable {s : State} {who : Party} {r p : Nat} (hopen : DoorbellOpen s who r p) (hon : (ringOf s r).enabled = true) (v : BitVec 32)
include hopen hon

/-- SQ_TAIL takes a TAIL that stays within the ring's window, from which every wait is judged again, and refuses any other. -/
theorem exec_sqTail_open : exec (.sqTail who r v) s = .next
    (if ((ringOf s r).tail - (ringOf s r).fetch).toNat ≤ (v - (ringOf s r).fetch).toNat ∧ (v - (ringOf s r).fetch).toNat ≤ ringEntries s r
      then settleAll (setRing s r { ringOf s r with tail := v }) else refuseDoorbell s r p v) :=
  (doorbell_exists hopen _).trans (congrArg _ (doorbell_open hopen hon))

/-- CQ_HEAD takes a CQH between the old one and COMP, which arms the ring's interrupt, and refuses any other. -/
theorem exec_cqHead_open : exec (.cqHead who r v) s = .next
    (if (v - (ringOf s r).cqh).toNat ≤ ((ringOf s r).comp - (ringOf s r).cqh).toNat
      then ringPoll (setRing s r { ringOf s r with cqh := v, armed := true }) r p else refuseDoorbell s r p v) :=
  (doorbell_exists hopen _).trans (congrArg _ (doorbell_open hopen hon))

/-- BASE takes TAIL, from which every wait is judged again, and refuses any other value. -/
theorem exec_base_open : exec (.base who r v) s = .next
    (if v = (ringOf s r).tail then settleAll (setRing s r { ringOf s r with base := v, bad := [] }) else refuseDoorbell s r p v) :=
  (doorbell_exists hopen _).trans (congrArg _ (doorbell_open hopen hon))

/-- ABORT counts its sequence number from the lowest one without a record: below TAIL it aborts up to that number, in the half of the
numbers ahead it aborts all before TAIL, and in the half behind none. -/
theorem exec_abortTo_open : exec (.abortTo who r v) s = .next
    (if (v - firstOpen (ringOf s r)).toNat < ((ringOf s r).tail - firstOpen (ringOf s r)).toNat then abortBefore s r (v + 1)
      else if (v - firstOpen (ringOf s r)).toNat < 2 ^ 31 then abortBefore s r (ringOf s r).tail else s) :=
  (doorbell_exists hopen _).trans (congrArg _ (doorbell_open hopen hon))

end

/-- Settles O19: each write ends accepted or refused by its window test, and a refused one sets DB_ERR and emits its record. -/
theorem doorbellAcceptance : Obligations.DoorbellAcceptance := by
  unfold Obligations.DoorbellAcceptance
  intro s who r p v hopen hon g refused
  have hrefused : refused (refuseDoorbell s r p v) := ⟨refuseDoorbell_spec s r p v, refuseDoorbell_emits s r p v⟩
  refine ⟨⟨_, exec_sqTail_open hopen hon v, ?_⟩, _, exec_cqHead_open hopen hon v, ?_⟩
  · by_cases hwin : (g.tail - g.fetch).toNat ≤ (v - g.fetch).toNat ∧ (v - g.fetch).toNat ≤ ringEntries s r
    · rw [if_pos hwin, if_pos hwin]
    · rwa [if_neg hwin, if_neg hwin]
  · by_cases hwin : (v - g.cqh).toNat ≤ (g.comp - g.cqh).toNat
    · rw [if_pos hwin, if_pos hwin]
    · rwa [if_neg hwin, if_neg hwin]

/-- Settles O22: BASE by whether the value is TAIL, ABORT by where its number lies from the lowest one without a record. -/
theorem baseAndAbort : Obligations.BaseAndAbort := by
  unfold Obligations.BaseAndAbort
  intro s who r p v hopen hon g o
  have hbase := exec_base_open hopen hon v
  have habort := exec_abortTo_open hopen hon v
  refine ⟨fun heq => ?_, fun hne => ?_, fun hin => ?_, fun hpast hahead => ?_, fun hpast hbehind => ?_⟩
  · rw [hbase, if_pos heq]
  · exact ⟨_, hbase.trans (congrArg _ (if_neg hne)), refuseDoorbell_spec s r p v, refuseDoorbell_emits s r p v⟩
  · rw [habort, if_pos hin]
  · rw [habort, if_neg (Nat.not_lt.2 hpast), if_pos hahead]
  · rw [habort, if_neg (Nat.not_lt.2 hpast), if_neg (Nat.not_lt.2 hbehind)]

end Sys2Proof.Machine
end

section
/-! SUPPORT. Board inputs, the PPS latch, the timebase registers and the test access port (16 R532 to R538, R541, 15 R511). -/

namespace Sys2Proof.Machine

theorem boot_beq_off {s : State} (h : s.boot ≠ .off) : (s.boot == .off) = false := beq_eq_false_iff_ne.2 h

/-! ### Board inputs -/

theorem rawEdge_on {s : State} (hb : s.boot ≠ .off) (i : Nat) : rawEdge i s =
    setRfld s (okey (Reg.pwrInput + 8 * i)) 16 16 (satNat 16 (ofld s (Reg.pwrInput + 8 * i) 16 16 + 1)) := by
  simp [rawEdge, boot_beq_off hb]

/-- An asserted input that no one has been told of is told: STUCK is set and ALERT_N pulses. -/
theorem inputStuck_untold {s : State} {i : Nat} (hb : s.boot ≠ .off) (hl : inputLevel s i = true) (ht : s.stuckTold.contains i = false) :
    inputStuck i s = { setRfld s (okey (Reg.pwrInput + 8 * i)) 2 1 1 with
      alertPulses := s.alertPulses + 1, stuckTold := s.stuckTold ++ [i] } := by
  simp only [inputStuck, boot_beq_off hb, hl, ht, Bool.not_true, Bool.or_false, Bool.false_eq_true, if_false]

/-- Only the release of WARM_RST_N while it holds the package in reset lets the boot go on. -/
theorem inputDeassert_eq (i : Nat) (s : State) : inputDeassert i s =
    if i = 4 ∧ s.warm = 3 then
      { setLevel s i false with stuckTold := s.stuckTold.filter (· != i), boot := .verifying, warm := 0 }
    else { setLevel s i false with stuckTold := s.stuckTold.filter (· != i) } := rfl

/-- FAULT_N, asserted anew with its action enabled, latches in PWR_SAG_STATUS and enters S4. -/
theorem faultIn_enters {s : State} (hon : inputOn s 1 = true) (hl : inputLevel s 1 = false) (hs : stage s < 4) (hb : s.boot ≠ .off) :
    faultIn s = enterS4 (setRfld (setLevel s 1 true) (okey Reg.pwrSagStatus) 3 1 1) := by
  simp [faultIn, hon, hl, hs, hb]

/-- The three actions of 15 R511 on `u`, with the tamper count of `s`. -/
def tamperActions (s u : State) : State :=
  deviceFatal (setRfld (wipeBanks u) (okey Reg.secStatus) 24 8 (satNat 8 (ofld s Reg.secStatus 24 8 + 1))) 6

/-- A glitch detector, or the tamper input asserted anew with its action enabled, takes the three actions. -/
theorem tamper_acts {s : State} (hb : s.boot ≠ .off) (land : Bool) (hland : land = true → inputLevel s 2 = false ∧ inputOn s 2 = true) :
    tamper land s = tamperActions s (if land then setLevel s 2 true else s) := by
  cases land with
  | false => simp [tamper, tamperActions, boot_beq_off hb]
  | true =>
    obtain ⟨hl, hon⟩ := hland rfl
    simp [tamper, tamperActions, boot_beq_off hb, hl, hon]

/-! ### The PPS latch -/

/-- An edge that the latch sees starts the interval, is accepted by its interval, or is counted in IGNORED. -/
theorem ppsEdge_enabled {s : State} (hb : s.boot ≠ .off) (he : ofld s Reg.tmbCtrl 4 1 ≠ 0) (hon : inputOn s 3 = true) (interval : Nat) :
    ppsEdge interval s =
      if s.ppsSince = false then { setLevel s 3 true with ppsSince := true }
      else if 999000000 ≤ interval ∧ interval ≤ 1001000000 then
        setRfld (setReg { setLevel s 3 true with freeCount := s.freeCount + 1 } (okey Reg.tmbPpsLatch)
          (now s + (Config.freeValue s.freeCount).toNat % 11 - 5)) (okey Reg.tmbPpsStatus) 0 32 (ofld s Reg.tmbPpsStatus 0 32 + 1)
      else setRfld (setLevel s 3 true) (okey Reg.tmbPpsStatus) 32 16 (satNat 16 (ofld s Reg.tmbPpsStatus 32 16 + 1)) := by
  have hseen : (s.boot == .off || decide (ofld s Reg.tmbCtrl 4 1 = 0) || !inputOn s 3) = false := by
    rw [boot_beq_off hb, decide_eq_false he, hon]
    rfl
  simp only [ppsEdge, hseen, Bool.not_eq_true']
  rfl

/-! ### The timebase registers -/

theorem tmbAdjust_stores {s : State} {view : Nat} (hs : alive s = true) (hr : (regAt s view Reg.tmbAdjust).isSome = true) (v : Word) :
    tmbAdjust view v s = { storeWord s view Reg.tmbAdjust v.toNat with adjFrac := 0 } := by
  simp only [tmbAdjust, hs, hr, Bool.and_self, if_true]

theorem tmbSet_eq {s : State} (hs : alive s = true) (view : Nat) (v : Word) : tmbSet view v s =
    if view = 8 ∧ partsOf s = [] then setReg { s with tmbFrac := 0 } (okey Reg.tmbCount) v.toNat else s := by
  simp [tmbSet, hs]

/-! ### The test access port -/

/-- The state in which a TAP instruction holds the package. -/
def tapHeldBy (code : Nat) (s : State) : State := { s with tapInstr := code, tapOut := 0, tapHeld := true }

theorem tapHold_off {s : State} (hb : s.boot = .off) (code : Nat) : tapHold code s = tapHeldBy code s := by
  simp [tapHold, tapRun, tapHeldBy, hb]

/-- In a package that runs, the fabric ports and the PCIe slots go down. -/
theorem tapHold_on {s : State} (hb : s.boot ≠ .off) (code : Nat) : tapHold code s =
    (List.range 8).foldl (fun s sl => slotDown sl s) (replayDown ((List.range 16).foldl linkDrop (tapHeldBy code s))) :=
  if_neg (by simpa using hb)

/-! ### The commands of inputs, time and the TAP -/

theorem exec_inputRawEdge {i : Nat} (hi : i < 5) (s : State) : exec (.inputRawEdge i) s = .next (rawEdge i s) :=
  onUnit_next (decide_eq_true hi) _

theorem exec_inputStuck {i : Nat} (hi : i < 5) (s : State) : exec (.inputStuck i) s = .next (inputStuck i s) :=
  onUnit_next (decide_eq_true hi) _

theorem exec_inputDeassert {i : Nat} (hi : i < 5) (s : State) : exec (.inputDeassert i) s = .next (inputDeassert i s) :=
  onUnit_next (decide_eq_true hi) _

theorem exec_tmbAdjust {view : Nat} (hv : view ≤ 8) (v : Word) (s : State) : exec (.tmbAdjust view v) s = .next (tmbAdjust view v s) :=
  onUnit_next (decide_eq_true hv) _

theorem exec_tmbSet {view : Nat} (hv : view ≤ 8) (v : Word) (s : State) : exec (.tmbSet view v) s = .next (tmbSet view v s) :=
  onUnit_next (decide_eq_true hv) _

theorem exec_heartbeat {s : State} (hs : alive s = true) : exec .heartbeat s = .next ((List.range 9).foldl heartbeatOf s) :=
  congrArg _ (if_pos hs)

/-- EXTEST, CLAMP and HIGHZ hold the package alike, each under its own code. -/
theorem exec_tapHold {s : State} {held : Nat → State} (h : ∀ code, tapHold code s = held code) :
    exec .extest s = .next (held 3) ∧ exec .clamp s = .next (held 4) ∧ exec .highz s = .next (held 5) :=
  ⟨congrArg _ (h 3), congrArg _ (h 4), congrArg _ (h 5)⟩

/-- Settles O51: each command takes the branch of its case; a PPS latch differs from the count by its free value modulo 11, less 5. -/
theorem inputTimeAndTestPortCommands : Obligations.InputTimeAndTestPortCommands := by
  unfold Obligations.InputTimeAndTestPortCommands
  refine ⟨fun s i hi => ⟨fun hb => ?rawEdge, fun hb hl ht => ?stuck, fun hn => ?deassert, fun h4 hw => ?release⟩, fun s => rfl,
    fun s hon hl hs hb => congrArg _ (faultIn_enters hon hl hs hb),
    fun s hb => ⟨congrArg _ (tamper_acts hb false nofun), fun hl hon => congrArg _ (tamper_acts hb true fun _ => ⟨hl, hon⟩)⟩,
    fun s interval hb he hon => ?pps, fun s => rfl,
    fun s view v hv hs => ⟨fun hr => ?adjust, fun h8 hno => ?set, fun hn => ?notSet⟩, fun s => rfl, fun s hs => exec_heartbeat hs,
    fun s => ⟨rfl, rfl, ⟨_, rfl⟩, fun hb => ?holdOff, fun hb => ?holdOn⟩⟩
  case rawEdge => rw [exec_inputRawEdge hi, rawEdge_on hb]
  case stuck => rw [exec_inputStuck hi, inputStuck_untold hb hl ht]
  case deassert => rw [exec_inputDeassert hi, inputDeassert_eq, if_neg (not_and_or.2 hn)]
  case release => rw [exec_inputDeassert hi, inputDeassert_eq, if_pos ⟨h4, hw⟩]
  case pps =>
    have hedge := ppsEdge_enabled hb he hon interval
    refine ⟨fun hp => congrArg _ (hedge.trans (if_pos hp)), fun hp hlo hhi => ?_, fun hp hout => ?_⟩
    all_goals have hrest := hedge.trans (if_neg (by simp [hp]))
    · exact ⟨_, Nat.le_of_lt_succ (Nat.mod_lt _ (by decide)), congrArg _ (hrest.trans (if_pos ⟨hlo, hhi⟩))⟩
    · exact congrArg _ (hrest.trans (if_neg (by omega)))
  case adjust => rw [exec_tmbAdjust hv, tmbAdjust_stores hs hr]
  case set => rw [exec_tmbSet hv, tmbSet_eq hs, if_pos ⟨h8, hno⟩]
  case notSet => rw [exec_tmbSet hv, tmbSet_eq hs, if_neg (not_and_or.2 hn)]
  case holdOff => exact (exec_tapHold (tapHold_off hb) :)
  case holdOn => exact (exec_tapHold (tapHold_on hb) :)

end Sys2Proof.Machine
end

section
/-! SUPPORT. The words of the short-vector commands: a word is the sum of its fields, and each field reads back (08 R254, R255, Table 5). -/

namespace Sys2Proof

/-! ### The commands that have a word -/

theorem qaParts_qaInstr (h : Nat) (f : QA) (op : QOp) : qaParts (qaInstr h f op) = some (op, h, f) := by cases op <;> rfl

/-- A command with the parts of an operation is the command that runs it. -/
theorem eq_qaInstr_of_qaParts {i : Instr} {op : QOp} {h : Nat} {f : QA} (hp : qaParts i = some (op, h, f)) : i = qaInstr h f op := by
  unfold qaParts at hp
  split at hp <;> cases hp <;> rfl

/-- A short-vector command runs an operation of Table 2, converts, or accesses memory. -/
inductive QuadForm : Instr → Prop where
  | arith (op : QOp) (h : Nat) (f : QA) : QuadForm (qaInstr h f op)
  | cvt (h : Nat) (src : BitVec 4) (f : QA) : QuadForm (.qcvt h src f)
  | ld (h : Nat) (f : QM) : QuadForm (.qld h f)
  | st (h : Nat) (f : QM) : QuadForm (.qst h f)
  | gather (h : Nat) (f : QM) : QuadForm (.qgather h f)
  | scatter (h : Nat) (f : QM) : QuadForm (.qscatter h f)

/-- Only the short-vector commands have a word. -/
theorem quadForm_of_encodeQuad {i : Instr} (he : (encodeQuad i).isSome = true) : QuadForm i := by
  unfold encodeQuad at he
  split at he
  · next hp => exact eq_qaInstr_of_qaParts hp ▸ .arith _ _ _
  · split at he
    · exact .cvt _ _ _
    · exact .ld _ _
    · exact .st _ _
    · exact .gather _ _
    · exact .scatter _ _
    · simp at he

/-- Only the short-vector commands have legal fields. -/
theorem quadForm_of_quadLegal {i : Instr} (hl : quadLegal i = true) : QuadForm i := by
  unfold quadLegal at hl
  split at hl
  · next hp => exact eq_qaInstr_of_qaParts hp ▸ .arith _ _ _
  · split at hl
    · exact .cvt _ _ _
    · exact .ld _ _
    · exact .st _ _
    · exact .gather _ _
    · exact .scatter _ _
    · simp at hl

@[simp] theorem encodeQuad_qaInstr (h : Nat) (f : QA) (op : QOp) :
    encodeQuad (qaInstr h f op) = some (qaWord op.functs.1 op.functs.2 f) := by cases op <;> rfl

@[simp] theorem quadHart_qaInstr (h : Nat) (f : QA) (op : QOp) : quadHart (qaInstr h f op) = h := by cases op <;> rfl

@[simp] theorem quadLegal_qaInstr (h : Nat) (f : QA) (op : QOp) : quadLegal (qaInstr h f op) = QA.legal op f := by cases op <;> rfl

/-- A FUNCT pair of Table 2 names its operation. -/
theorem qOpOf_functs (op : QOp) : qOpOf op.functs.1 op.functs.2 = some op := by cases op <;> rfl

theorem functs_of_qOpOf {f3 f4 : Nat} {op : QOp} (h : qOpOf f3 f4 = some op) : op.functs = (f3, f4) := by
  simpa using List.find?_some h

/-- FUNCT3 of an operation is not that of QCVT. -/
theorem functs_fst_lt (op : QOp) : op.functs.1 < 6 := by cases op <;> decide

theorem functs_snd_lt (op : QOp) : op.functs.2 < 16 := by cases op <;> decide

/-! ### Words of format QA -/

theorem toNat_lt_two (b : Bool) : b.toNat < 2 := by cases b <;> decide

section
variable {f3 f4 : Nat} (h3 : f3 < 8) (h4 : f4 < 16) (f : QA)
include h3 h4

/-- The fields of a word of format QA, low to high: the opcode, qd, FUNCT3, qs1, qs2, Q, ESZ and FUNCT4, which fill 32 bits. -/
theorem qaWord_fields : wordField (qaWord f3 f4 f) 0 7 = 11 ∧ wordField (qaWord f3 f4 f) 7 5 = f.qd.toNat ∧
    wordField (qaWord f3 f4 f) 12 3 = f3 ∧ wordField (qaWord f3 f4 f) 15 5 = f.qs1.toNat ∧
    wordField (qaWord f3 f4 f) 20 5 = f.qs2.toNat ∧ wordField (qaWord f3 f4 f) 25 1 = f.q.toNat ∧
    wordField (qaWord f3 f4 f) 26 2 = f.esz.toNat ∧ wordField (qaWord f3 f4 f) 28 4 = f4 ∧ qaWord f3 f4 f < 2 ^ 32 := by
  have hd := f.qd.isLt
  have h1 := f.qs1.isLt
  have h2 := f.qs2.isLt
  have he := f.esz.isLt
  have hq := toNat_lt_two f.q
  simp only [wordField, qaWord]
  omega

theorem qaFields_qaWord : qaFields (qaWord f3 f4 f) = f := by
  obtain ⟨_, hd, _, h1, h2, hq, he, _⟩ := qaWord_fields h3 h4 f
  simp [qaFields, hd, h1, h2, hq, he]

end

/-- A field of one bit, read as a Bool. -/
theorem toNat_wordField_bit (w lo : Nat) : (wordField w lo 1 == 1).toNat = wordField w lo 1 := by
  rcases Nat.mod_two_eq_zero_or_one (w / 2 ^ lo) with h | h <;> simp [wordField, h]

/-- A word with the opcode of format QA is the word of its fields. -/
theorem qaWord_qaFields {w : Nat} (hw : w < 2 ^ 32) (ho : wordField w 0 7 = 11) :
    qaWord (wordField w 12 3) (wordField w 28 4) (qaFields w) = w := by
  simp only [qaWord, qaFields, toNat_wordField_bit, BitVec.toNat_ofNat]
  simp only [wordField] at ho ⊢
  omega

/-! ### Words of format QM -/

/-- The fields of a word of format QM, which fill 32 bits. -/
theorem qmWord_fields {f3 : Nat} (h3 : f3 < 8) (f : QM) : wordField (qmWord f3 f) 0 7 = 43 ∧
    wordField (qmWord f3 f) 7 5 = f.qd.toNat ∧ wordField (qmWord f3 f) 12 3 = f3 ∧ wordField (qmWord f3 f) 15 5 = f.rs1.toNat ∧
    wordField (qmWord f3 f) 20 5 = f.f5.toNat ∧ wordField (qmWord f3 f) 25 1 = f.q.toNat ∧
    wordField (qmWord f3 f) 26 2 = f.esz.toNat ∧ wordField (qmWord f3 f) 28 4 = f.f4.toNat ∧ qmWord f3 f < 2 ^ 32 := by
  have hd := f.qd.isLt
  have h1 := f.rs1.isLt
  have h5 := f.f5.isLt
  have he := f.esz.isLt
  have h4 := f.f4.isLt
  have hq := toNat_lt_two f.q
  simp only [wordField, qmWord]
  omega

theorem qmFields_qmWord {f3 : Nat} (h3 : f3 < 8) (f : QM) : qmFields (qmWord f3 f) = f := by
  obtain ⟨_, hd, _, h1, h5, hq, he, h4, _⟩ := qmWord_fields h3 f
  simp [qmFields, hd, h1, h5, hq, he, h4]

/-- A word with the opcode of format QM is the word of its fields. -/
theorem qmWord_qmFields {w : Nat} (hw : w < 2 ^ 32) (ho : wordField w 0 7 = 43) : qmWord (wordField w 12 3) (qmFields w) = w := by
  simp only [qmWord, qmFields, toNat_wordField_bit, BitVec.toNat_ofNat]
  simp only [wordField] at ho ⊢
  omega

/-! ### Decoding -/

/-- The command that a word spells before its fields are judged, by the word's opcode. -/
theorem decodeQuad_qa {h : Nat} {w : BitVec 32} (ho : wordField w.toNat 0 7 = 11) :
    decodeQuad h w = (decodeQa h w.toNat).filter quadLegal := by simp only [decodeQuad, ho]

theorem decodeQuad_qm {h : Nat} {w : BitVec 32} (ho : wordField w.toNat 0 7 = 43) :
    decodeQuad h w = (decodeQm h w.toNat).filter quadLegal := by simp only [decodeQuad, ho]

/-- A word that decodes has the opcode of format QA or QM, and its fields are legal. -/
theorem decodeQuad_some {h : Nat} {w : BitVec 32} {i : Instr} (hd : decodeQuad h w = some i) :
    quadLegal i = true ∧ (wordField w.toNat 0 7 = 11 ∧ decodeQa h w.toNat = some i ∨
      wordField w.toNat 0 7 = 43 ∧ decodeQm h w.toNat = some i) := by
  obtain ⟨hd, hl⟩ := Option.filter_eq_some_iff.1 hd
  refine ⟨hl, ?_⟩
  split at hd
  · next ho => exact .inl ⟨ho, hd⟩
  · next ho => exact .inr ⟨ho, hd⟩
  · simp at hd

/-- The word of an operation decodes to the operation. -/
theorem decodeQa_qaWord_functs (h : Nat) (f : QA) (op : QOp) :
    decodeQa h (qaWord op.functs.1 op.functs.2 f) = some (qaInstr h f op) := by
  have hlt := functs_fst_lt op
  have h3 : op.functs.1 < 8 := by omega
  obtain ⟨_, _, h12, _, _, _, _, h28, _⟩ := qaWord_fields h3 (functs_snd_lt op) f
  rw [decodeQa, h12, h28, if_neg (by omega), qOpOf_functs, qaFields_qaWord h3 (functs_snd_lt op), Option.map_some]

/-- The word of a QCVT decodes to it. -/
theorem decodeQa_qaWord_cvt (h : Nat) (src : BitVec 4) (f : QA) : decodeQa h (qaWord 6 src.toNat f) = some (.qcvt h src f) := by
  obtain ⟨_, _, h12, _, _, _, _, h28, _⟩ := qaWord_fields (f3 := 6) (by decide) src.isLt f
  rw [decodeQa, h12, h28, if_pos rfl, qaFields_qaWord (by decide) src.isLt, BitVec.ofNat_toNat, BitVec.setWidth_eq]

/-- The words of the memory commands decode to them. -/
theorem decodeQm_qmWord (h : Nat) (f : QM) : decodeQm h (qmWord 0 f) = some (.qld h f) ∧ decodeQm h (qmWord 1 f) = some (.qst h f) ∧
    decodeQm h (qmWord 2 f) = some (.qgather h f) ∧ decodeQm h (qmWord 3 f) = some (.qscatter h f) := by
  have field := fun f3 (h3 : f3 < 8) => (qmWord_fields h3 f).2.2.1
  simp only [decodeQm, field, qmFields_qmWord, Nat.reduceLT, and_self]

/-- A command with legal fields whose word of format QA spells it has that word. -/
theorem word_of_qaWord {i : Instr} {f3 f4 : Nat} {f : QA} (h3 : f3 < 8) (h4 : f4 < 16) (hl : quadLegal i = true)
    (he : encodeQuad i = some (qaWord f3 f4 f)) (hd : decodeQa (quadHart i) (qaWord f3 f4 f) = some i) :
    ∃ w : BitVec 32, encodeQuad i = some w.toNat ∧ decodeQuad (quadHart i) w = some i := by
  obtain ⟨ho, _, _, _, _, _, _, _, hlt⟩ := qaWord_fields h3 h4 f
  have hw : (BitVec.ofNat 32 (qaWord f3 f4 f)).toNat = qaWord f3 f4 f := by rw [BitVec.toNat_ofNat, Nat.mod_eq_of_lt hlt]
  exact ⟨_, hw.symm ▸ he, by rw [decodeQuad_qa (by rwa [hw]), hw, hd, Option.filter_some, if_pos hl]⟩

/-- A command with legal fields whose word of format QM spells it has that word. -/
theorem word_of_qmWord {i : Instr} {f3 : Nat} {f : QM} (h3 : f3 < 8) (hl : quadLegal i = true)
    (he : encodeQuad i = some (qmWord f3 f)) (hd : decodeQm (quadHart i) (qmWord f3 f) = some i) :
    ∃ w : BitVec 32, encodeQuad i = some w.toNat ∧ decodeQuad (quadHart i) w = some i := by
  obtain ⟨ho, _, _, _, _, _, _, _, hlt⟩ := qmWord_fields h3 f
  have hw : (BitVec.ofNat 32 (qmWord f3 f)).toNat = qmWord f3 f := by rw [BitVec.toNat_ofNat, Nat.mod_eq_of_lt hlt]
  exact ⟨_, hw.symm ▸ he, by rw [decodeQuad_qm (by rwa [hw]), hw, hd, Option.filter_some, if_pos hl]⟩

/-- The fields of a word of format QA give back its bits. -/
theorem encodeQuad_of_decodeQa {h w : Nat} {i : Instr} (hw : w < 2 ^ 32) (ho : wordField w 0 7 = 11) (hd : decodeQa h w = some i) :
    encodeQuad i = some w ∧ quadHart i = h := by
  have hword := qaWord_qaFields hw ho
  unfold decodeQa at hd
  split at hd
  · next h6 =>
    cases hd
    have h28 : wordField w 28 4 < 16 := Nat.mod_lt _ (by decide)
    refine ⟨congrArg some ?_, rfl⟩
    rw [BitVec.toNat_ofNat, Nat.mod_eq_of_lt h28, ← h6, hword]
  · obtain ⟨op, hop, rfl⟩ := Option.map_eq_some_iff.1 hd
    rw [encodeQuad_qaInstr, functs_of_qOpOf hop, hword, quadHart_qaInstr]
    exact ⟨rfl, rfl⟩

/-- The fields of a word of format QM give back its bits. -/
theorem encodeQuad_of_decodeQm {h w : Nat} {i : Instr} (hw : w < 2 ^ 32) (ho : wordField w 0 7 = 43) (hd : decodeQm h w = some i) :
    encodeQuad i = some w ∧ quadHart i = h := by
  have hword := qmWord_qmFields hw ho
  unfold decodeQm at hd
  split at hd
  case h_5 => simp at hd
  all_goals
    next h3 =>
    cases hd
    exact ⟨congrArg some (h3 ▸ hword), rfl⟩

/-- Settles O6: the word is the sum of the command's fields, each of which reads back from its bits. -/
theorem quadWordDecodesToItsCommand : Obligations.QuadWordDecodesToItsCommand := by
  unfold Obligations.QuadWordDecodesToItsCommand
  intro i hl
  obtain ⟨op, h, f⟩ | ⟨h, src, f⟩ | ⟨h, f⟩ | ⟨h, f⟩ | ⟨h, f⟩ | ⟨h, f⟩ := quadForm_of_quadLegal hl
  · exact word_of_qaWord (Nat.lt_trans (functs_fst_lt op) (by decide)) (functs_snd_lt op) hl (encodeQuad_qaInstr h f op)
      (by rw [quadHart_qaInstr, decodeQa_qaWord_functs])
  · exact word_of_qaWord (by decide) src.isLt hl rfl (decodeQa_qaWord_cvt h src f)
  all_goals obtain ⟨hld, hst, hgather, hscatter⟩ := decodeQm_qmWord h f
  · exact word_of_qmWord (by decide) hl rfl hld
  · exact word_of_qmWord (by decide) hl rfl hst
  · exact word_of_qmWord (by decide) hl rfl hgather
  · exact word_of_qmWord (by decide) hl rfl hscatter

/-- Settles O7: a word with a short-vector opcode is the sum of its fields, so the command decoded from them has no other word. -/
theorem quadCommandHasOneWord : Obligations.QuadCommandHasOneWord := by
  unfold Obligations.QuadCommandHasOneWord
  intro h w i hd
  obtain ⟨hl, ⟨ho, hd⟩ | ⟨ho, hd⟩⟩ := decodeQuad_some hd
  · obtain ⟨he, hh⟩ := encodeQuad_of_decodeQa w.isLt ho hd
    exact ⟨he, hh, hl⟩
  · obtain ⟨he, hh⟩ := encodeQuad_of_decodeQm w.isLt ho hd
    exact ⟨he, hh, hl⟩

/-- Settles O8: each word is evaluated by the decoder. -/
theorem quadWordsDecodeRight : Obligations.QuadWordsDecodeRight := by
  unfold Obligations.QuadWordsDecodeRight
  decide +kernel

end Sys2Proof
end

section
/-! SUPPORT. The step, reset, and the one stop of the model (log entry 1, 00). -/

namespace Sys2Proof.Machine

/-- Settles O1: the step looks at the queue's front alone. -/
theorem stepRunsFrontCommand : Obligations.StepRunsFrontCommand := by
  unfold Obligations.StepRunsFrontCommand
  intro c rest s hq
  change step s = _
  rw [step, hq]

/-- Every command answers through the existence of the units that it names. -/
theorem exec_onUnit (c : Instr) (s : State) : ∃ t, exec c s = onUnit (unitsExist c) t := by
  cases c <;> exact ⟨_, rfl⟩

/-- Settles O4: a command's answer is that of `onUnit`, which knows one stop. -/
theorem commandsStopOnlyOnMissingUnits : Obligations.CommandsStopOnlyOnMissingUnits := by
  unfold Obligations.CommandsStopOnlyOnMissingUnits
  intro c s
  obtain ⟨t, ht⟩ := exec_onUnit c s
  exact ⟨fun h => ⟨t, ht.trans (onUnit_next h t)⟩, fun h => ht.trans (if_neg (by simp [h]))⟩

/-- Settles O5, by the laws of memory. -/
theorem storesKeepMemoryCanonical : Obligations.StoresKeepMemoryCanonical := by
  unfold Obligations.StoresKeepMemoryCanonical
  exact ⟨wf_reset, fun s t tr a bs src hs h => (writeVia_spec s t tr a bs src h).2.1 hs, fun s k bs => wf_putBytes s k bs,
    fun s lo hi => wf_zeroRange s lo hi⟩

theorem xs_init : Hart.init.xs = 0 := by decide +kernel

/-- No partition is VALID or READY at the Reset column of the set-up registers (15 R487, 10 R305). -/
theorem parts_reset : ∀ p < 8, partValid State.reset p = false ∧ partReady State.reset p = false := by decide +kernel

theorem partValid_reset (p : Nat) : partValid State.reset p = false := by
  by_cases hp : p < 8
  · exact (parts_reset p hp).1
  · simp [partValid, hp]

/-- Settles O3: each table of the reset state is empty, so a read of it gives the table's default. -/
theorem resetState : Obligations.ResetState := by
  unfold Obligations.ResetState
  exact ⟨fun h => ⟨xs_init, fun r => rfl⟩, fun r => ⟨rfl, rfl, rfl, rfl, rfl, rfl⟩, fun sl => ⟨rfl, rfl⟩,
    fun p => ⟨partValid_reset p, fun hp => (parts_reset p hp).2⟩, fun k => rfl, rfl, fun k => rfl⟩

end Sys2Proof.Machine
end

section
/-! SUPPORT. Fields of natural numbers: a replaced field reads back and leaves the other bits alone. -/

namespace Sys2Proof.Machine

/-- A number is its bits from `lo + len` up, its field there and its bits below. -/
theorem setFieldOf_eq (v lo len x : Nat) :
    setFieldOf v lo len x = 2 ^ lo * (2 ^ len * (v / 2 ^ lo / 2 ^ len) + x % 2 ^ len) + v % 2 ^ lo := by
  have hlow : 2 ^ lo * (v / 2 ^ lo) + v % 2 ^ lo = v := Nat.div_add_mod _ _
  have hmid : 2 ^ len * (v / 2 ^ lo / 2 ^ len) + v / 2 ^ lo % 2 ^ len = v / 2 ^ lo := Nat.div_add_mod _ _
  have hsplit : v = 2 ^ lo * (2 ^ len * (v / 2 ^ lo / 2 ^ len)) + 2 ^ lo * (v / 2 ^ lo % 2 ^ len) + v % 2 ^ lo := by
    rw [← Nat.mul_add, hmid, hlow]
  rw [setFieldOf, fieldOf_eq_div_mod, Nat.mul_add, Nat.mul_comm _ (2 ^ lo), Nat.mul_comm (x % 2 ^ len)]
  omega

/-- A bit of a number with a field replaced. -/
theorem testBit_setFieldOf (v lo len x j : Nat) :
    (setFieldOf v lo len x).testBit j = if lo ≤ j ∧ j < lo + len then x.testBit (j - lo) else v.testBit j := by
  have hx : x % 2 ^ len < 2 ^ len := Nat.mod_lt _ (Nat.two_pow_pos len)
  have hv : v % 2 ^ lo < 2 ^ lo := Nat.mod_lt _ (Nat.two_pow_pos lo)
  rw [setFieldOf_eq, Nat.testBit_two_pow_mul_add _ hv]
  by_cases hlo : j < lo
  · rw [if_pos hlo, if_neg (by omega), Nat.testBit_mod_two_pow, decide_eq_true hlo, Bool.true_and]
  · rw [if_neg hlo, Nat.testBit_two_pow_mul_add _ hx]
    by_cases hhi : j < lo + len
    · rw [if_pos (by omega), if_pos (by omega), Nat.testBit_mod_two_pow, decide_eq_true (by omega), Bool.true_and]
    · rw [if_neg (by omega), if_neg (by omega), Nat.testBit_div_two_pow, Nat.testBit_div_two_pow]
      congr 1
      omega

/-- A bit of a field. -/
theorem testBit_fieldOf (v lo len j : Nat) : (fieldOf v lo len).testBit j = (decide (j < len) && v.testBit (lo + j)) := by
  rw [fieldOf, Nat.testBit_mod_two_pow, Nat.testBit_shiftRight]

/-- Element `i` of a number after its element `e` was replaced. -/
theorem fieldOf_setFieldOf_elem (v w e i x : Nat) :
    fieldOf (setFieldOf v (e * w) w x) (i * w) w = if i = e then x % 2 ^ w else fieldOf v (i * w) w := by
  apply Nat.eq_of_testBit_eq
  intro j
  rw [testBit_fieldOf, testBit_setFieldOf]
  by_cases hj : j < w
  · rcases lt_trichotomy i e with h | h | h
    · have hle : (i + 1) * w ≤ e * w := Nat.mul_le_mul_right w h
      rw [Nat.succ_mul] at hle
      rw [if_neg (by omega), if_neg (by omega), testBit_fieldOf]
    · subst h
      rw [if_pos (by omega), if_pos rfl, Nat.testBit_mod_two_pow, Nat.add_sub_cancel_left]
    · have hle : (e + 1) * w ≤ i * w := Nat.mul_le_mul_right w h
      rw [Nat.succ_mul] at hle
      rw [if_neg (by omega), if_neg (by omega), testBit_fieldOf]
  · rw [decide_eq_false hj, Bool.false_and]
    by_cases h : i = e
    · simp [h, hj, Nat.testBit_mod_two_pow]
    · simp [h, hj, testBit_fieldOf]

/-- A replaced field that lies within a number's width leaves it within. -/
theorem setFieldOf_lt {v lo len x n : Nat} (hv : v < 2 ^ n) (hn : lo + len ≤ n) : setFieldOf v lo len x < 2 ^ n := by
  apply Nat.lt_pow_two_of_testBit
  intro j hj
  rw [testBit_setFieldOf, if_neg (by omega)]
  exact Nat.testBit_lt_two_pow (hv.trans_le (Nat.pow_le_pow_right (by decide) hj))

theorem fieldOf_mod (v lo len n : Nat) (h : lo + len ≤ n) : fieldOf (v % 2 ^ n) lo len = fieldOf v lo len := by
  apply Nat.eq_of_testBit_eq
  intro j
  rw [testBit_fieldOf, testBit_fieldOf, Nat.testBit_mod_two_pow]
  by_cases hj : j < len
  · rw [decide_eq_true (show lo + j < n by omega), Bool.true_and]
  · simp [hj]

end Sys2Proof.Machine
end

section
/-! SUPPORT. The short-vector commands on registers: lanes, selection, pairs, sums, insertion and conversion (08 R241 to R246, R255). -/

namespace Sys2Proof.Machine

/-! ### Lane-wise operations -/

/-- QHADD, QINS and QEXT have meanings of their own; every other operation writes the value of `qValue`. -/
theorem exec_qaInstr_qArith (s : State) (h : Nat) (f : QA) (op : QOp) (h1 : op ≠ .hadd) (h2 : op ≠ .ins) (h3 : op ≠ .ext) :
    exec (qaInstr h f op) s = onUnit (isHart h) (qArith op h f s) := by
  cases op with
  | hadd => exact absurd rfl h1
  | ins => exact absurd rfl h2
  | ext => exact absurd rfl h3
  | _ => rfl

/-- The flags that the elements of a lane-wise operation raise; the integer ones raise none. -/
def laneFlags (op : QOp) (f : QA) (a b d : Nat) : Nat :=
  if isFp op then (List.range (formBits f.q / laneWidth f)).foldl (fun fl i => fl ||| (fpElem op (laneWidth f)
    (fieldOf a (i * laneWidth f) (laneWidth f)) (fieldOf b (i * laneWidth f) (laneWidth f)) (fieldOf d (i * laneWidth f) (laneWidth f))).2) 0
  else 0

/-- The elements that a lane-wise operation packs into qd. -/
def laneResults (op : QOp) (f : QA) (a b d : Nat) : List Nat :=
  (List.range (formBits f.q / laneWidth f)).map (fun i => laneResult op (laneWidth f) (fieldOf a (i * laneWidth f) (laneWidth f))
    (fieldOf b (i * laneWidth f) (laneWidth f)) (fieldOf d (i * laneWidth f) (laneWidth f)))

/-- A lane-wise operation packs its elements' results. -/
theorem qValue_laneWise {op : QOp} (hop : laneWise op = true) (f : QA) (a b d : Nat) :
    qValue op f a b d = (packElems (laneWidth f) (laneResults op f a b d), laneFlags op f a b d) := by
  unfold qValue
  split
  case h_8 =>
    by_cases hfp : isFp op = true
    · simp only [hfp, if_true, laneResults, laneFlags, laneResult, List.map_map, List.foldl_map, laneWidth]
      rfl
    · simp only [hfp, if_false, Bool.false_eq_true, laneResults, laneFlags, laneResult, laneWidth]
  all_goals simp [laneWise] at hop

theorem laneResults_length (op : QOp) (f : QA) (a b d : Nat) : (laneResults op f a b d).length = formBits f.q / laneWidth f := by
  simp [laneResults]

theorem laneResults_fit (op : QOp) (f : QA) (a b d : Nat) : (laneResults op f a b d).length * laneWidth f ≤ formBits f.q :=
  laneResults_length op f a b d ▸ Nat.div_mul_le_self _ _

/-- Settles O9: the operation packs the elements' results into qd and accrues the elements' flags. -/
theorem quadLaneCommands : Obligations.QuadLaneCommands := by
  unfold Obligations.QuadLaneCommands
  intro s h f op hr hl hop
  obtain ⟨h1, h2, h3⟩ : op ≠ .hadd ∧ op ≠ .ins ∧ op ≠ .ext := by
    refine ⟨?_, ?_, ?_⟩ <;> rintro rfl <;> simp [laneWise] at hop
  have hfit := laneResults_fit op f (qReg (hartOf s h) f.qs1.toNat) (qReg (hartOf s h) f.qs2.toNat) (qReg (hartOf s h) f.qd.toNat)
  have hexec := (exec_qaInstr_qArith s h f op h1 h2 h3).trans
    ((onUnit_next hr.1 _).trans (congrArg _ (qArith_legal hr hl _ (qValue_laneWise hop f _ _ _))))
  refine ⟨_, hexec, onlyHart_setHart s h _, ?_⟩
  rw [hartOf_setHart_same]
  refine ⟨quadWrote_setQ _ _ _ _ _ ((packElems_lt _ _).trans_le (Nat.pow_le_pow_right (by decide) hfit)), fun i hi => ?_,
    qstat_setQ_next _ _ _ _, fun hfp => ?_, fun hfp => ?_⟩
  · rw [lane_setQ_packElems _ _ _ _ _ (hfit.trans (formBits_le f.q)) i (by rwa [laneResults_length])]
    simp only [laneResults, List.getElem_map, List.getElem_range, lane]
  · rw [fcsr_setQ_next, laneFlags, hfp, if_neg Bool.false_ne_true, accrue_zero]
  · rw [fcsr_setQ_next, laneFlags, hfp, if_pos rfl]
    rfl

/-! ### Selection and pairs -/

theorem qReg_lt (x : Hart) (r : Nat) : qReg x r < 2 ^ 128 := BitVec.isLt _

/-- A bit of a selection (08 R245). -/
theorem testBit_qValue_sel (f : QA) (a b : Nat) {d i : Nat} (hd : d < 2 ^ 128) (hi : i < formBits f.q) :
    (qValue .sel f a b d).1.testBit i = if d.testBit i then a.testBit i else b.testBit i := by
  have hi128 : i < 128 := hi.trans_le (formBits_le f.q)
  have hnot : 2 ^ 128 - 1 - d = 2 ^ 128 - (d + 1) := by omega
  simp only [qValue, hnot, Nat.testBit_mod_two_pow, Nat.testBit_or, Nat.testBit_and, Nat.testBit_two_pow_sub_succ hd, hi, hi128,
    decide_true, Bool.true_and]
  cases d.testBit i <;> simp

/-- The operation of an error-free transform. -/
def pairQOp (prod : Bool) : QOp := if prod then .twoProd else .twoSum

theorem qValue_pair (prod : Bool) (f : QA) (a b d : Nat) : qValue (pairQOp prod) f a b d =
    (packElems 64 [(pairOp prod (a % 2 ^ 64) (b % 2 ^ 64)).1, (pairOp prod (a % 2 ^ 64) (b % 2 ^ 64)).2.1],
      (pairOp prod (a % 2 ^ 64) (b % 2 ^ 64)).2.2) := by cases prod <;> rfl

theorem lane_zero (x : Hart) (w r : Nat) : lane x w r 0 = qReg x r % 2 ^ w := by simp [lane, fieldOf]

/-- Settles O11: the selection bit by bit of its mask, and the pair's two elements. -/
theorem quadSelectAndPairs : Obligations.QuadSelectAndPairs := by
  unfold Obligations.QuadSelectAndPairs
  intro s h f hr x
  refine ⟨fun he => ?_, fun he hq prod => ?_⟩
  · have hl : QA.legal .sel f = true := by simp [QA.legal, he]
    refine ⟨_, (onUnit_next hr.1 _).trans (congrArg _ (qArith_legal hr hl _ rfl)), onlyHart_setHart s h _, ?_⟩
    rw [hartOf_setHart_same]
    refine ⟨quadWrote_setQ x _ _ _ _ (Nat.mod_lt _ (Nat.two_pow_pos _)), (fcsr_setQ_next x _ _ 0).trans (congrArg Hart.fcsr (accrue_zero x)),
      qstat_setQ_next x _ _ 0, fun i hi => ?_⟩
    have hi128 : i < 128 := hi.trans_le (formBits_le f.q)
    rw [qReg_accrue_next, qReg_setQ, if_pos rfl, Nat.testBit_mod_two_pow, decide_eq_true hi128, Bool.true_and]
    exact testBit_qValue_sel f _ _ (qReg_lt x _) hi
  · intro r
    have hl : QA.legal (pairQOp prod) f = true := by cases prod <;> simp [pairQOp, QA.legal, he, hq]
    have hexec : exec (if prod then .qf2prod h f else .qf2sum h f) s = onUnit (isHart h) (qArith (pairQOp prod) h f s) := by
      cases prod <;> rfl
    have hexec := hexec.trans ((onUnit_next hr.1 _).trans (congrArg _ (qArith_legal hr hl _ (qValue_pair prod f _ _ _))))
    rw [← lane_zero, ← lane_zero] at hexec
    refine ⟨_, hexec, onlyHart_setHart s h _, ?_⟩
    rw [hartOf_setHart_same]
    exact ⟨quadWrote_setQ x _ _ _ _ (packElems_lt 64 [r.1, r.2.1]), lane_setQ_packElems x 64 _ _ _ (by simp) 0 (by simp),
      lane_setQ_packElems x 64 _ _ _ (by simp) 1 (by simp), fcsr_setQ_next x _ _ _, qstat_setQ_next x _ _ _⟩

/-! ### Sums, insertion and extraction -/

theorem quadWrote_setQ_next (x : Hart) (qd v bits : Nat) (hv : v < 2 ^ bits) : QuadWrote x (setQ x qd v).next qd bits := by
  have h := quadWrote_setQ x qd v 0 bits hv
  rwa [accrue_zero] at h

theorem fcsr_setQ (x : Hart) (r v : Nat) : (setQ x r v).next.fcsr = x.fcsr := by
  have h := fcsr_setQ_next x r v 0
  rwa [accrue_zero, accrue_zero] at h

/-- A lane of a register just written. -/
theorem lane_setQ (x : Hart) {w qd v : Nat} (hv : v < 2 ^ 128) (i : Nat) : lane (setQ x qd v).next w qd i = fieldOf v (i * w) w := by
  rw [lane]
  show fieldOf (qReg (setQ x qd v) qd) (i * w) w = _
  rw [qReg_setQ, if_pos rfl, Nat.mod_eq_of_lt hv]

/-- The bits above the lowest element and the element itself fill the form. -/
theorem rest_add_lt {w bits sum : Nat} (hw : w ≤ bits) (hsum : sum < 2 ^ w) (v : Nat) :
    v / 2 ^ w * 2 ^ w % 2 ^ bits + sum < 2 ^ bits ∧ (v / 2 ^ w * 2 ^ w % 2 ^ bits + sum) % 2 ^ w = sum := by
  obtain ⟨k, rfl⟩ := Nat.exists_eq_add_of_le hw
  have hk : v / 2 ^ w % 2 ^ k < 2 ^ k := Nat.mod_lt _ (Nat.two_pow_pos k)
  rw [Nat.mul_comm (v / 2 ^ w), Nat.pow_add, Nat.mul_mod_mul_left]
  refine ⟨?_, by rw [Nat.mul_add_mod, Nat.mod_eq_of_lt hsum]⟩
  calc 2 ^ w * (v / 2 ^ w % 2 ^ k) + sum < 2 ^ w * (v / 2 ^ w % 2 ^ k) + 2 ^ w := by omega
    _ = 2 ^ w * (v / 2 ^ w % 2 ^ k + 1) := by rw [Nat.mul_add, Nat.mul_one]
    _ ≤ 2 ^ w * 2 ^ k := Nat.mul_le_mul_left _ hk

theorem laneWidth_le_formBits (f : QA) : laneWidth f ≤ formBits f.q := by
  have he : 2 ^ f.esz.toNat ≤ 2 ^ 3 := Nat.pow_le_pow_right (by decide) (Nat.le_of_lt_succ f.esz.isLt)
  have hq : 64 ≤ formBits f.q := by cases f.q <;> decide
  simp only [laneWidth]
  omega

/-- The two values that fill the bits of QHADD's form (log entry 19). -/
def haddRest (s : State) : Nat := (Config.freeValue s.freeCount).toNat + (Config.freeValue (s.freeCount + 1)).toNat * 2 ^ 64

theorem qHadd_legal {s : State} {h : Nat} {f : QA} (hr : QuadReady s h) (hl : QA.legal .hadd f = true) : qHadd h f s =
    setHart { s with freeCount := s.freeCount + 2 } h (setQ (hartOf s h) f.qd.toNat
      (haddRest s / 2 ^ laneWidth f * 2 ^ laneWidth f % 2 ^ formBits f.q +
        ((List.range (formBits f.q / laneWidth f)).map (lane (hartOf s h) (laneWidth f) f.qs1.toNat)).sum % 2 ^ laneWidth f)).next := by
  rw [qHadd, hl, qInstr_legal hr]
  rfl

theorem qIns_legal {s : State} {h : Nat} {f : QA} (hr : QuadReady s h) (hl : QA.legal .ins f = true) : qIns h f s =
    setHart s h (setQ (hartOf s h) f.qd.toNat (setFieldOf (qReg (hartOf s h) f.qd.toNat % 2 ^ formBits f.q)
      (f.qs2.toNat * laneWidth f) (laneWidth f) (xReg (hartOf s h) f.qs1.toNat).toNat)).next := by
  rw [qIns, hl, qInstr_legal hr]
  rfl

theorem qExt_legal {s : State} {h : Nat} {f : QA} (hr : QuadReady s h) (hl : QA.legal .ext f = true) : qExt h f s =
    setHart s h (setX (hartOf s h) f.qd.toNat (BitVec.ofInt 64
      (toSigned (laneWidth f) (lane (hartOf s h) (laneWidth f) f.qs1.toNat f.qs2.toNat)))).next := by
  rw [qExt, hl, qInstr_legal hr]
  rfl

/-- An integer register after a write; x0 keeps reading 0. -/
theorem xReg_setX (x : Hart) (r i : Nat) (v : Word) : xReg (setX x r v) i = if i = r ∧ i ≠ 0 then v else xReg x i := by
  by_cases hi : i = 0
  · simp [xReg, hi]
  · by_cases hr : r = 0 <;> simp [xReg, setX, sget_sset, hi, hr]

theorem setX_eq (x : Hart) (r : Nat) (v : Word) : setX x r v = { x with x := (setX x r v).x } := by
  unfold setX
  split <;> rfl

/-- An element within the form ends within it. -/
theorem elem_end_le {i w bits : Nat} (h : i < bits / w) : i * w + w ≤ bits := by
  rw [← Nat.succ_mul]
  exact (Nat.mul_le_mul_right w h).trans (Nat.div_mul_le_self bits w)

/-- Settles O12: QHADD's sum lies below its free bits; QINS replaces one element of the form; QEXT reads one. -/
theorem quadSumInsertExtract : Obligations.QuadSumInsertExtract := by
  unfold Obligations.QuadSumInsertExtract
  intro s h f hr x w n
  refine ⟨fun hl => ?sum, fun he => ?insert, fun he => ?extract⟩
  case sum =>
    have hsum := Nat.mod_lt ((List.range n).map (lane x w f.qs1.toNat)).sum (Nat.two_pow_pos w)
    obtain ⟨hlt, hlow⟩ := rest_add_lt (laneWidth_le_formBits f) hsum (haddRest s)
    have hlt128 := hlt.trans_le (Nat.pow_le_pow_right (by decide) (formBits_le f.q))
    refine ⟨_, (onUnit_next hr.1 _).trans (congrArg _ (qHadd_legal hr hl)), rfl, fun k hk => hartOf_setHart_other _ h k _ hk, ?_⟩
    rw [hartOf_setHart_same]
    refine ⟨quadWrote_setQ_next x _ _ _ hlt, ?_, fcsr_setQ x _ _⟩
    rw [lane_setQ x hlt128, fieldOf_eq_div_mod, Nat.zero_mul, Nat.pow_zero, Nat.div_one]
    exact hlow
  case insert =>
    have hlt : setFieldOf (qReg x f.qd.toNat % 2 ^ formBits f.q) (f.qs2.toNat * w) w (xReg x f.qs1.toNat).toNat < 2 ^ formBits f.q :=
      setFieldOf_lt (Nat.mod_lt _ (Nat.two_pow_pos _)) (elem_end_le he)
    have hlt128 := hlt.trans_le (Nat.pow_le_pow_right (by decide) (formBits_le f.q))
    refine ⟨_, (onUnit_next hr.1 _).trans (congrArg _ (qIns_legal hr (decide_eq_true he))), onlyHart_setHart s h _, ?_⟩
    rw [hartOf_setHart_same]
    refine ⟨quadWrote_setQ_next x _ _ _ hlt, fun i hi => ?_, fcsr_setQ x _ _⟩
    rw [lane_setQ x hlt128, fieldOf_setFieldOf_elem, fieldOf_mod _ _ _ _ (elem_end_le hi)]
    rfl
  case extract =>
    refine ⟨_, (onUnit_next hr.1 _).trans (congrArg _ (qExt_legal hr (decide_eq_true he))), onlyHart_setHart s h _, ?_⟩
    rw [hartOf_setHart_same]
    exact ⟨congrArg Hart.next (setX_eq x _ _), fun r => xReg_setX x _ r _⟩

/-! ### Conversion -/

/-- QSTAT is not among what a short-vector write must leave alone. -/
theorem quadWrote_qstat {x y : Hart} {qd bits : Nat} (h : QuadWrote x y qd bits) (v : Word) :
    QuadWrote x { y with qstat := v } qd bits := by
  obtain ⟨hy, hq, hlt⟩ := h
  exact ⟨congrArg (fun y : Hart => { y with qstat := v }) hy, hq, hlt⟩

/-- The pairs of a converted element and its flags, for the low `n` elements of a register. -/
def cvtLanes (x : Hart) (src : BitVec 4) (f : QA) (n : Nat) : List Rf :=
  (List.range n).map (fun i => convertType src.toNat f.qs2.toNat (lane x (8 * qTypeBytes src.toNat) f.qs1.toNat i))

/-- The flags of the conversion joined. -/
def cvtFlags (x : Hart) (src : BitVec 4) (f : QA) (n : Nat) : Nat := (cvtLanes x src f n).foldl (fun fl r => fl ||| r.2) 0

/-- How many elements a conversion takes. -/
def cvtCount (src : BitVec 4) (f : QA) : Nat := formBits f.q / max (8 * qTypeBytes src.toNat) (8 * qTypeBytes f.qs2.toNat)

theorem elems_map_convertType (x : Hart) (src : BitVec 4) (f : QA) (n : Nat) :
    (elems (8 * qTypeBytes src.toNat) n (qReg x f.qs1.toNat)).map (convertType src.toNat f.qs2.toNat) = cvtLanes x src f n := by
  rw [elems, List.map_map]
  rfl

theorem cvtFlags_eq (x : Hart) (src : BitVec 4) (f : QA) (n : Nat) : cvtFlags x src f n = (List.range n).foldl (fun fl i =>
    fl ||| (convertType src.toNat f.qs2.toNat (lane x (8 * qTypeBytes src.toNat) f.qs1.toNat i)).2) 0 := by
  rw [cvtFlags, cvtLanes, List.foldl_map]

/-- The hart after a conversion: qd, the flags, and SATCVT where an element saturated. -/
def converted (x : Hart) (src : BitVec 4) (f : QA) : Hart :=
  let n := cvtCount src f
  let fl := cvtFlags x src f n
  { (accrue (setQ x f.qd.toNat (packElems (8 * qTypeBytes f.qs2.toNat) ((cvtLanes x src f n).map (·.1))))
      (if bitAt fl 5 then fl ||| Fl.nx else fl)).next with
    qstat := if bitAt fl 5 then x.qstat ||| 1 else x.qstat }

theorem qstat_setQ (x : Hart) (r v : Nat) : (setQ x r v).qstat = x.qstat := by
  rw [setQ, Hart.dirty_eq]

theorem qCvt_legal {s : State} {h : Nat} {src : BitVec 4} {f : QA} (hr : QuadReady s h) (hl : QA.cvtLegal src f = true) :
    qCvt h src f s = setHart s h (converted (hartOf s h) src f) := by
  rw [qCvt, hl, qInstr_legal hr]
  simp only [qstat_setQ, elems_map_convertType]
  rfl

/-- Settles O13: the converted elements are packed from bit 0, and the joined flags say whether one saturated. -/
theorem quadConvert : Obligations.QuadConvert := by
  unfold Obligations.QuadConvert
  intro s h src f hr hl x sw dw n r fl
  have hfl : cvtFlags x src f n = fl := cvtFlags_eq x src f n
  have hlen : ((cvtLanes x src f n).map (·.1)).length = n := by simp [cvtLanes]
  have hfit : n * dw ≤ formBits f.q := (Nat.mul_le_mul_left n (Nat.le_max_right sw dw)).trans (Nat.div_mul_le_self _ _)
  have hpacked : packElems dw ((cvtLanes x src f n).map (·.1)) < 2 ^ (n * dw) := (packElems_lt dw _).trans_eq (by rw [hlen])
  refine ⟨_, (onUnit_next hr.1 _).trans (congrArg _ (qCvt_legal hr hl)), onlyHart_setHart s h _, ?_⟩
  rw [hartOf_setHart_same]
  refine ⟨quadWrote_qstat (quadWrote_setQ x _ _ _ _ hpacked) _, fun i hi => ?_, ?_, ?_⟩
  · have hpack := lane_setQ_packElems x dw f.qd.toNat (if bitAt fl 5 then fl ||| Fl.nx else fl) ((cvtLanes x src f n).map (·.1))
      (by rw [hlen]; exact hfit.trans (formBits_le f.q)) i (by rwa [hlen])
    rw [show (r i).1 = ((cvtLanes x src f n).map (·.1))[i]'(by rwa [hlen]) by simp [cvtLanes, r, sw, x], ← hpack, ← hfl]
    rfl
  · rw [← hfl]
    rfl
  · rw [← hfl]
    exact fcsr_setQ_next x _ _ _

end Sys2Proof.Machine
end

section
/-! SUPPORT. Traps of the harts: what the mode that takes an exception saves (08 R242, R250, R254; log entry 8). -/

namespace Sys2Proof.Machine

/-- A register after a write of a register. -/
theorem csrw_setCsr (x : Hart) (n v m : Nat) : (x.setCsr n v).csrw m = if m = n then v % 2 ^ 64 else x.csrw m := by
  simp only [Hart.csrw, Hart.setCsr, sget_sset]
  split <;> simp

/-- A register after a write of fields of another. -/
theorem csrw_setFlds_other (x : Hart) {n m : Nat} (l : List (Nat × Nat × Nat)) (h : m ≠ n) : (x.setFlds n l).csrw m = x.csrw m := by
  rw [Hart.setFlds, csrw_setCsr, if_neg h]

/-- An exception is taken in M, HS or VS mode. -/
theorem trapMode_cases (x : Hart) (cause : Nat) : x.trapMode cause = .hs ∨ x.trapMode cause = .vs ∨ x.trapMode cause = .m := by
  unfold Hart.trapMode
  split
  · exact .inr (.inr rfl)
  · split
    · exact .inr (.inl rfl)
    · exact .inl rfl

/-- Nothing of the hart but its CSRs changes. -/
def OnlyCsrs (x y : Hart) : Prop := y = { x with csr := y.csr }

theorem OnlyCsrs.setCsr {x y : Hart} (h : OnlyCsrs x y) (n v : Nat) : OnlyCsrs x (y.setCsr n v) := by
  have hset : y.setCsr n v = { y with csr := (y.setCsr n v).csr } := rfl
  rw [OnlyCsrs, hset]
  exact congrArg (fun z : Hart => { z with csr := (y.setCsr n v).csr }) h

theorem OnlyCsrs.setFlds {x y : Hart} (h : OnlyCsrs x y) (n : Nat) (l : List (Nat × Nat × Nat)) : OnlyCsrs x (y.setFlds n l) :=
  h.setCsr n _

/-- A hart that entered a mode after its CSRs changed. -/
theorem OnlyCsrs.enter {x y : Hart} (h : OnlyCsrs x y) (md : Priv) (pc : Word) :
    ({ y with mode := md, pc := pc } : Hart) = { x with mode := md, pc := pc, csr := y.csr } :=
  congrArg (fun z : Hart => { z with mode := md, pc := pc }) h

theorem csrw_enter (y : Hart) (md : Priv) (pc : Word) (n : Nat) : ({ y with mode := md, pc := pc } : Hart).csrw n = y.csrw n := rfl

/-- The mode that takes an exception holds the pc, the cause and the value, and only the mode, the pc and the CSRs change. -/
theorem took_trapped (x : Hart) {cause : Nat} (hc : cause < 2 ^ 64) (tval : Word) (gpa : Nat) :
    Took x (x.trapped cause tval gpa) cause tval := by
  have hpc := Nat.mod_eq_of_lt x.pc.isLt
  have hval := Nat.mod_eq_of_lt tval.isLt
  have hcause : cause < 18446744073709551616 := hc
  have hx : OnlyCsrs x x := rfl
  unfold Took Hart.trapped
  rcases trapMode_cases x cause with hm | hm | hm
  all_goals simp only [hm]
  · refine ⟨((((((hx.setCsr _ _).setCsr _ _).setCsr _ _).setCsr _ _).setFlds _ _).setFlds _ _).enter _ _, trivial, ?_⟩
    simp [csrw_enter, csrw_setFlds_other, csrw_setCsr, hpc, hcause, hval, Csr.mstatus, Csr.hstatus, Csr.sepc, Csr.scause, Csr.stval,
      Csr.htval]
  · refine ⟨((((hx.setCsr _ _).setCsr _ _).setCsr _ _).setFlds _ _).enter _ _, trivial, ?_⟩
    simp [csrw_enter, csrw_setFlds_other, csrw_setCsr, hpc, hcause, hval, Csr.vsstatus, Csr.vsepc, Csr.vscause, Csr.vstval]
  · refine ⟨(((((hx.setCsr _ _).setCsr _ _).setCsr _ _).setCsr _ _).setFlds _ _).enter _ _, trivial, ?_⟩
    simp [csrw_enter, csrw_setFlds_other, csrw_setCsr, hpc, hcause, hval, Csr.mstatus, Csr.mepc, Csr.mcause, Csr.mtval, Csr.mtval2]

/-- A short-vector command that may not execute raises an illegal-instruction exception (08 R242, R254). -/
theorem exec_illegal {s : State} {i : Instr} (hf : QuadForm i) (hh : isHart (quadHart i) = true) (hr : hartReady s (quadHart i) = true)
    (hb : xsOn (hartOf s (quadHart i)) = false ∨ quadLegal i = false) : exec i s = .next (illegal s (quadHart i)) := by
  cases hf with
  | arith op h f =>
    rw [quadHart_qaInstr] at *
    rw [quadLegal_qaInstr] at hb
    cases op <;> exact (onUnit_next hh _).trans (congrArg _ (qInstr_illegal hr _ _ hb))
  | cvt | ld | st | gather | scatter => exact (onUnit_next hh _).trans (congrArg _ (qInstr_illegal hr _ _ hb))

/-- Settles O14: every command of the extension takes the illegal-instruction branch of `qInstr`, and its trap has a free value. -/
theorem quadIllegalTraps : Obligations.QuadIllegalTraps := by
  unfold Obligations.QuadIllegalTraps
  intro s i he hh hr hb
  refine ⟨_, Config.freeValue s.freeCount, exec_illegal (quadForm_of_encodeQuad he) hh hr hb, rfl,
    fun k hk => hartOf_setHart_other _ _ k _ hk, ?_⟩
  simp only [illegal, trapOpen, trap, hartOf_setHart_same]
  exact took_trapped _ (by decide) _ 0

end Sys2Proof.Machine
end

section
/-! SUPPORT. Reads of byte strings: how many bytes a performed read gives, and how large their number is. -/

namespace Sys2Proof.Machine

theorem leNat_lt (bs : List Byte) : leNat bs < 2 ^ (8 * bs.length) := by
  induction bs with
  | nil => decide
  | cons b bs ih =>
    have hb := b.isLt
    have hpow : 2 ^ (8 * (b :: bs).length) = 256 * 2 ^ (8 * bs.length) := by
      rw [List.length_cons, Nat.mul_succ, Nat.pow_add, Nat.mul_comm]
    rw [hpow, leNat]
    omega

@[simp] theorem getBytes_length (s : State) (k n : Nat) : (getBytes s k n).length = n := by simp [getBytes]

/-- From a sector boundary on, every piece but the last takes 32 bytes. -/
theorem pieces_sum_aligned (f a n : Nat) (ha : a % 32 = 0) (hn : n ≤ 32 * f) : ((pieces f a n).map (·.2)).sum = n := by
  induction f generalizing a n with
  | zero => simp [pieces, Nat.le_zero.1 hn]
  | succ f ih =>
    rw [pieces]
    split
    · simp_all
    · rw [ha, List.map_cons, List.sum_cons]
      by_cases h : n ≤ 32
      · have hz : n - min n (32 - 0) = 0 := by omega
        rw [hz]
        cases f <;> simp [pieces, h]
      · rw [ih _ _ (by omega) (by omega)]
        omega

/-- The pieces of a range cover it. -/
theorem sectorsOf_sum (a n : Nat) : ((sectorsOf a n).map (·.2)).sum = n := by
  rw [sectorsOf, show n / 32 + 2 = (n / 32 + 1) + 1 from rfl, pieces]
  split
  · simp_all
  · rw [List.map_cons, List.sum_cons]
    by_cases h : n ≤ 32 - a % 32
    · have hz : n - min n (32 - a % 32) = 0 := by omega
      rw [hz, pieces]
      simp [h]
    · rw [pieces_sum_aligned _ _ _ (by omega) (by omega)]
      omega

/-- A range that is not empty begins with a piece at its address. -/
theorem sectorsOf_cons {n : Nat} (hn : 0 < n) (a : Nat) : ∃ m l, sectorsOf a n = (a, m) :: l := by
  rw [sectorsOf, pieces, if_neg (by omega)]
  exact ⟨_, _, rfl⟩

theorem readPieces_length {s : State} {tr : Nat → Option Nat} {src : Option Nat} {l : List (Nat × Nat)} {bs : List Byte}
    (h : readPieces s tr src l = .ok bs) : bs.length = (l.map (·.2)).sum := by
  induction l generalizing bs with
  | nil => cases h; rfl
  | cons x l ih =>
    obtain ⟨a, n⟩ := x
    unfold readPieces at h
    repeat' split at h
    all_goals try cases h
    next hbs => simp [ih hbs]

/-- A performed read gives as many bytes as it asked for. -/
theorem readVia_length {s : State} {tr : Nat → Option Nat} {a n : Nat} {src : Option Nat} {bs : List Byte}
    (h : readVia s tr a n src = .ok bs) : bs.length = n := (readPieces_length h).trans (sectorsOf_sum a n)

/-- A read or a write whose address leads nowhere fails on that address. -/
theorem readVia_unmapped {s : State} {tr : Nat → Option Nat} {a n : Nat} (src : Option Nat) (hn : 0 < n) (h : tr a = none) :
    readVia s tr a n src = .error (.addr a) := by
  obtain ⟨m, l, hl⟩ := sectorsOf_cons hn a
  simp only [readVia, hl, readPieces, h]

theorem writeVia_unmapped {s : State} {tr : Nat → Option Nat} {a : Nat} {bs : List Byte} (src : Option Nat) (hn : 0 < bs.length)
    (h : tr a = none) : writeVia s tr a bs src = .error (.addr a) := by
  obtain ⟨m, l, hl⟩ := sectorsOf_cons hn a
  simp only [writeVia, hl, writeError, h]

end Sys2Proof.Machine
end

section
/-! SUPPORT. The harts' accesses: what an address names, and the access that is performed at once (08 R236, R247, 10 R563, 11 R360). -/

namespace Sys2Proof.Machine

/-- A store leaves the harts alone. -/
theorem OnlyBytes.hartOf {s u : State} (h : OnlyBytes s u) (k : Nat) : hartOf u k = hartOf s k := by
  have hh : u.harts = s.harts := by
    unfold OnlyBytes at h
    rw [h]
  rw [Machine.hartOf, Machine.hartOf, hh]

/-- An address that names a register view or a doorbell page names no memory and no Vat page. -/
theorem hartXlate_of_deviceAddr {s : State} {h a z : Nat} {acc : Acc} (ha : a < 2 ^ 64) (hd : deviceAddr s h acc a = some z) :
    hartXlate s h acc a = none := by
  unfold deviceAddr at hd
  cases hg : (hartOf s h).effGuest with
  | true => simp [hg] at hd
  | false =>
    simp only [hg, Bool.false_eq_true, if_false] at hd
    cases hst : stageOne s h acc a with
    | error c => simp [hst] at hd
    | ok x =>
      simp only [hst] at hd
      split at hd
      · next hr =>
        have hplace : xlateOwner s x = none := by
          rw [xlateOwner, if_neg (by omega), if_neg (by omega)]
        simp only [hartXlate, Nat.mod_eq_of_lt ha, hst, hartPlace, hg, hplace, Bool.not_false, if_true, Option.map_none]
      · simp at hd

theorem deviceAddr_of_hartXlate {s : State} {h a : Nat} {acc : Acc} {y : Place} (ha : a < 2 ^ 64) (hx : hartXlate s h acc a = some y) :
    deviceAddr s h acc a = none := by
  cases hd : deviceAddr s h acc a with
  | none => rfl
  | some z => simp [hartXlate_of_deviceAddr ha hd] at hx

theorem hartXlate_of_hartKey {s : State} {h a k : Nat} {acc : Acc} (hk : hartKey s h acc a = some k) : hartXlate s h acc a = some (.mem k) := by
  unfold hartKey at hk
  split at hk
  · next hx => rw [hx, Option.some.inj hk]
  · simp at hk

theorem hartKey_of_vat {s : State} {h a : Nat} {acc : Acc} {node off : Nat} {prio : Bool}
    (hx : hartXlate s h acc a = some (.vat node off prio)) : hartKey s h acc a = none := by simp [hartKey, hx]

/-- A performed read names memory. -/
theorem deviceAddr_of_readVia {s : State} {h a n : Nat} {src : Option Nat} {bs : List Byte} (ha : a < 2 ^ 64) (hn : 0 < n)
    (hr : readVia s (hartKey s h .r) a n src = .ok bs) : deviceAddr s h .r a = none := by
  cases hk : hartKey s h .r a with
  | none => simp [readVia_unmapped src hn hk] at hr
  | some k => exact deviceAddr_of_hartXlate ha (hartXlate_of_hartKey hk)

/-- A performed write names memory. -/
theorem deviceAddr_of_writeVia {s u : State} {h a : Nat} {src : Option Nat} {bs : List Byte} (ha : a < 2 ^ 64) (hn : 0 < bs.length)
    (hw : writeVia s (hartKey s h .w) a bs src = .ok u) : deviceAddr s h .w a = none := by
  cases hk : hartKey s h .w a with
  | none => simp [writeVia_unmapped src hn hk] at hw
  | some k => exact deviceAddr_of_hartXlate ha (hartXlate_of_hartKey hk)

/-- A single-place access names memory at an aligned address. -/
theorem lineKey_spec {s : State} {h size a k : Nat} {acc : Acc} (hl : lineKey s h size a acc = some k) :
    a % size = 0 ∧ hartXlate s h acc a = some (.mem k) := by
  unfold lineKey at hl
  split at hl
  · simp at hl
  · next ha =>
    split at hl
    · next hk =>
      split at hl
      · simp at hl
      · exact ⟨by simpa using ha, Option.some.inj hl ▸ hartXlate_of_hartKey hk⟩
    · simp at hl

theorem hartLoad_ok {s : State} {h a n : Nat} {bs : List Byte} (hr : readVia s (hartKey s h .r) a n (some (hartDie h)) = .ok bs)
    (dest : HartDest) : hartLoad s h a n dest = hartGive s h dest (leNat bs) := by
  rw [hartLoad, hr]
  rfl

theorem hartStore_ok {s u : State} {h a : Nat} {bs : List Byte} (hw : writeVia s (hartKey s h .w) a bs (some (hartDie h)) = .ok u) :
    hartStore s h a bs = .ok u := by rw [hartStore, hw]

end Sys2Proof.Machine
end

section
/-! SUPPORT. The short-vector memory commands (08 R247 to R251, R255, Table 4). -/

namespace Sys2Proof.Machine

theorem formBits_eq (q : Bool) : 8 * (formBits q / 8) = formBits q := by cases q <;> rfl

theorem skip_four (x : Hart) : x.skip 4 = x.next := rfl

theorem qLoad_ok {s : State} {h : Nat} {f : QM} {bs : List Byte} (hr : QuadReady s h) (hl : QM.lineLegal f = true)
    (hb : readVia s (hartKey s h .r) (lineAddr (hartOf s h) f) (formBits f.q / 8) (some (hartDie h)) = .ok bs) :
    qLoad h f s = setHart s h (setQ (hartOf s h) f.qd.toNat (leNat bs)).next := by
  rw [qLoad, hl, qInstr_legal hr, hartLoad_ok hb]
  rfl

theorem qStore_ok {s u : State} {h : Nat} {f : QM} (hr : QuadReady s h) (hl : QM.lineLegal f = true)
    (hw : writeVia s (hartKey s h .w) (lineAddr (hartOf s h) f) (leBytes (formBits f.q / 8) (qReg (hartOf s h) f.qd.toNat))
      (some (hartDie h)) = .ok u) : qStore h f s = setHart u h (hartOf s h).next := by
  have hu := (writeVia_spec _ _ _ _ _ _ hw).1.hartOf h
  rw [qStore, hl, qInstr_legal hr, hartStore_ok hw]
  exact congrArg (fun x : Hart => setHart u h x.next) hu

theorem elemAddrs_length (x : Hart) (f : QM) : (elemAddrs x f).length = QM.count f := by simp [elemAddrs, indices]

/-- An element's address is among the element addresses. -/
theorem elemAddrs_mem {x : Hart} {f : QM} {i : Nat} (hi : i < QM.count f) : (elemAddrs x f).getD i 0 ∈ elemAddrs x f := by
  rw [List.getD_eq_getElem _ _ (by rwa [elemAddrs_length])]
  exact List.getElem_mem _

/-- Every element address is that of some element. -/
theorem elemAddrs_eq (x : Hart) (f : QM) : elemAddrs x f = (List.range (QM.count f)).map (fun i => (elemAddrs x f).getD i 0) := by
  refine List.ext_getElem (by simp [elemAddrs_length]) fun i h1 h2 => ?_
  rw [List.getElem_map, List.getElem_range, List.getD_eq_getElem _ _ h1]

/-- What a function gives on the element addresses, element by element. -/
theorem map_elemAddrs {α : Type} {x : Hart} {f : QM} {g w : Nat → α} (hg : ∀ i, i < QM.count f → g ((elemAddrs x f).getD i 0) = w i) :
    (elemAddrs x f).map g = (List.range (QM.count f)).map w := by
  rw [elemAddrs_eq, List.map_map]
  exact List.map_congr_left fun i hi => hg i (List.mem_range.1 hi)

/-- The elements of a gather fill its form. -/
theorem count_mul_le (f : QM) : QM.count f * (8 * 2 ^ f.esz.toNat) ≤ formBits f.q := Nat.div_mul_le_self _ _

section
variable {s : State} {h : Nat} {f : QM} (hr : QuadReady s h)
include hr

/-- A gather all of whose elements are read packs them into qd. -/
theorem qGather_ok (hl : QM.gatherLegal f = true) {v : Nat → List Byte} (hv : ∀ i, i < QM.count f → readVia s (gatherKey s h .r)
      ((elemAddrs (hartOf s h) f).getD i 0) (2 ^ f.esz.toNat) (some (hartDie h)) = .ok (v i)) :
    qGather h f s = setHart s h (setQ (hartOf s h) f.qd.toNat
      (packElems (8 * 2 ^ f.esz.toNat) ((List.range (QM.count f)).map (fun i => leNat (v i))))).next := by
  have hread : ∀ i, i < QM.count f → readOnes s h (gatherKey s h .r) ((elemAddrs (hartOf s h) f).getD i 0) (2 ^ f.esz.toNat) =
      .ok (v i, []) := fun i hi => by rw [readOnes, hv i hi]
  have hfind : (elemAddrs (hartOf s h) f).find? (fun a => !(readOnes s h (gatherKey s h .r) a (2 ^ f.esz.toNat)).isOk) = none := by
    rw [elemAddrs_eq, List.find?_eq_none]
    simp only [List.mem_map, List.mem_range]
    rintro a ⟨i, hi, rfl⟩
    rw [hread i hi]
    exact Bool.false_ne_true
  rw [qGather, hl, qInstr_legal hr]
  simp only [hfind]
  rw [map_elemAddrs (w := fun i => (v i, []))]
  · have hnil : (List.range (QM.count f)).flatMap (fun _ => ([] : List Nat)) = [] := List.flatMap_eq_nil_iff.2 fun _ _ => rfl
    simp only [List.flatMap_map, List.map_map, hnil]
    rfl
  · intro i hi
    rw [hread i hi]

/-- A scatter none of whose elements fails writes them in turn. -/
theorem qScatter_ok (hl : QM.groupLegal f = true)
    (hw : ∀ a, a ∈ elemAddrs (hartOf s h) f → writeError s (gatherKey s h .w) (some (hartDie h)) (sectorsOf a (2 ^ f.esz.toNat)) = none) :
    qScatter h f s = setHart ((List.range (QM.count f)).foldl (fun u i => putPieces (gatherKey s h .w)
      (sectorsOf ((elemAddrs (hartOf s h) f).getD i 0) (2 ^ f.esz.toNat))
      (leBytes (2 ^ f.esz.toNat) (lane (hartOf s h) (8 * 2 ^ f.esz.toNat) f.qd.toNat i)) u) s) h (hartOf s h).next := by
  have hfind : (elemAddrs (hartOf s h) f).find? (fun a => writeFails s h (gatherKey s h .w) a (2 ^ f.esz.toNat)) = none :=
    List.find?_eq_none.2 fun a ha => by simp [writeFails, hw a ha]
  have hzip : (elemAddrs (hartOf s h) f).zip (elems (8 * 2 ^ f.esz.toNat) (QM.count f) (qReg (hartOf s h) f.qd.toNat)) =
      (List.range (QM.count f)).map (fun i => ((elemAddrs (hartOf s h) f).getD i 0, lane (hartOf s h) (8 * 2 ^ f.esz.toNat) f.qd.toNat i)) :=
    (congrArg (List.zip · _) (elemAddrs_eq _ f)).trans List.zip_map'
  rw [qScatter, hl, qInstr_legal hr]
  simp only [hfind, hzip, List.foldl_map]
  congr 1
  refine List.foldl_ext _ _ _ fun u i hi => ?_
  simp only [writeOrDrop, leBytes_length, hw _ (elemAddrs_mem (List.mem_range.1 hi))]

end

/-- Writes in turn leave alone the bytes that none of them covers. -/
theorem byteAt_foldl_putPieces (tr : Nat → Option Nat) (addr : Nat → Nat) (m : Nat) (bs : Nat → List Byte) (key : Nat) (l : List Nat)
    (hk : ∀ i ∈ l, writtenBy tr (addr i) m key = false) (s : State) :
    byteAt (l.foldl (fun u i => putPieces tr (sectorsOf (addr i) m) (bs i) u) s) key = byteAt s key := by
  induction l generalizing s with
  | nil => rfl
  | cons i l ih =>
    rw [List.foldl_cons, ih (fun j hj => hk j (List.mem_cons_of_mem i hj))]
    exact byteAt_putPieces tr _ _ s key (hk i List.mem_cons_self)

/-- Settles O15: the accesses are performed at once, so a load ends in `setQ` of the bytes read and a store in the bytes put. -/
theorem quadMemoryCommands : Obligations.QuadMemoryCommands := by
  unfold Obligations.QuadMemoryCommands
  intro s h f hr x n m from_
  refine ⟨fun bs hl hb => ?load, fun u hl hw => ?store, fun v hl hv => ?gather, fun hl hw => ?scatter⟩
  case load =>
    have hlt : leNat bs < 2 ^ formBits f.q := by
      have hlt := leNat_lt bs
      rwa [readVia_length hb, formBits_eq] at hlt
    refine ⟨_, (onUnit_next hr.1 _).trans (congrArg _ (qLoad_ok hr hl hb)), onlyHart_setHart s h _, ?_⟩
    rw [hartOf_setHart_same]
    refine ⟨quadWrote_setQ_next x _ _ _ hlt, ?_, fcsr_setQ x _ _⟩
    show qReg (setQ x _ _) _ = _
    rw [qReg_setQ, if_pos rfl, Nat.mod_eq_of_lt (hlt.trans_le (Nat.pow_le_pow_right (by decide) (formBits_le f.q)))]
  case store =>
    obtain ⟨honly, _, hrest⟩ := writeVia_spec _ _ _ _ _ _ hw
    rw [leBytes_length] at hrest
    refine ⟨_, (onUnit_next hr.1 _).trans (congrArg _ (qStore_ok hr hl hw)), rfl, honly, hrest, fun k hk hin i hi => ?_⟩
    have hn : 0 < n := Nat.pos_of_lt_add_left (Nat.lt_of_le_of_lt (Nat.zero_le i) hi)
    have hbyte := writeVia_within _ _ _ _ _ _ _ (by rwa [leBytes_length]) (by rwa [leBytes_length]) hk hw i (by rwa [leBytes_length])
    exact hbyte.trans (leBytes_getD _ _ i hi)
  case gather =>
    have hlen : ((List.range (QM.count f)).map (fun i => leNat (v i))).length = QM.count f := by simp
    have hfit : ((List.range (QM.count f)).map (fun i => leNat (v i))).length * (8 * m) ≤ formBits f.q := by rw [hlen]; exact count_mul_le f
    have hlt := (packElems_lt (8 * m) ((List.range (QM.count f)).map (fun i => leNat (v i)))).trans_le (Nat.pow_le_pow_right (by decide) hfit)
    refine ⟨_, (onUnit_next hr.1 _).trans (congrArg _ (qGather_ok hr hl hv)), onlyHart_setHart s h _, ?_⟩
    rw [hartOf_setHart_same]
    refine ⟨quadWrote_setQ_next x _ _ _ hlt, fun i hi => ?_, fcsr_setQ x _ _⟩
    have hv8 := leNat_lt (v i)
    rw [readVia_length (hv i hi)] at hv8
    rw [lane_setQ x (hlt.trans_le (Nat.pow_le_pow_right (by decide) (formBits_le f.q))), fieldOf_packElems _ _ i (by rwa [hlen]),
      List.getElem_map, List.getElem_range, Nat.mod_eq_of_lt hv8]
  case scatter =>
    refine ⟨_, (onUnit_next hr.1 _).trans (congrArg _ (qScatter_ok hr hl hw)), rfl, fun key hk => ?_⟩
    refine byteAt_foldl_putPieces _ _ m _ key _ (fun i hi => ?_) s
    simpa using List.all_eq_true.1 hk _ (elemAddrs_mem (List.mem_range.1 hi))

end Sys2Proof.Machine
end

section
/-! SUPPORT. The scalar memory accesses of the harts, their CSR reads and scalar instructions (08 R236, R238, 09 R279 to R282, 10 R563, 11 R360). -/

namespace Sys2Proof.Machine

/-! ### The command -/

/-- The operations that access memory. -/
def accessesMemory (op : HartOp) : Prop := op = .load ∨ op = .store ∨ op = .lr ∨ op = .sc ∨ ∃ code, op = .amo code

theorem size_pos {size : Nat} (hz : [1, 2, 4, 8, 16].contains size = true) : 0 < size := by
  rcases Nat.eq_zero_or_pos size with rfl | h
  · simp at hz
  · exact h

theorem exec_hartMemory {h : Nat} (hh : isHart h = true) (op : HartOp) (addr : Word) (size : Nat) (data cmp : BitVec 128) (s : State) :
    exec (.hartMemoryAccess h op addr size data cmp) s = .next (hartAct h op addr size data cmp s) := onUnit_next hh _

theorem exec_hartVat {h : Nat} (hh : isHart h = true) (op : HartOp) (addr : Word) (size : Nat) (data cmp : BitVec 128) (s : State) :
    exec (.hartVatAccess h op addr size data cmp) s = .next (hartAct h op addr size data cmp s) := onUnit_next hh _

section
variable {s : State} {h size : Nat} {addr : Word} (hr : hartReady s h = true) (hz : [1, 2, 4, 8, 16].contains size = true)
include hr hz

/-- An access at a register view or a doorbell page goes to the register. -/
theorem hartAccess_device {op : HartOp} (hop : accessesMemory op) {z : Nat} (hd : deviceAddr s h (opAcc op) addr.toNat = some z)
    (dest : HartDest) (data cmp : BitVec 128) : hartAccess h op dest addr size data cmp s =
      deviceDo s h op dest addr.toNat z size (data.toNat % 2 ^ (8 * size)) := by
  unfold hartAccess
  rcases hop with rfl | rfl | rfl | rfl | ⟨code, rfl⟩ <;> simp only [hr, hz, Bool.and_self, if_true, hd]

/-- Every other access is the hart's operation. -/
theorem hartAccess_memory {op : HartOp} (hop : accessesMemory op) (hd : deviceAddr s h (opAcc op) addr.toNat = none)
    (dest : HartDest) (data cmp : BitVec 128) : hartAccess h op dest addr size data cmp s = hartDo h op dest addr size data cmp s := by
  unfold hartAccess
  rcases hop with rfl | rfl | rfl | rfl | ⟨code, rfl⟩ <;> simp only [hr, hz, Bool.and_self, if_true, hd]

theorem hartAct_device {op : HartOp} (hop : accessesMemory op) {z : Nat} (hd : deviceAddr s h (opAcc op) addr.toNat = some z)
    (data cmp : BitVec 128) : hartAct h op addr size data cmp s =
      deviceDo s h op .value addr.toNat z size (data.toNat % 2 ^ (8 * size)) := by
  rw [← hartAccess_device hr hz hop hd .value data cmp]
  rcases hop with rfl | rfl | rfl | rfl | ⟨code, rfl⟩ <;> rfl

theorem hartAct_memory {op : HartOp} (hop : accessesMemory op) (hd : deviceAddr s h (opAcc op) addr.toNat = none)
    (data cmp : BitVec 128) : hartAct h op addr size data cmp s = hartDo h op .value addr size data cmp s := by
  rw [← hartAccess_memory hr hz hop hd .value data cmp]
  rcases hop with rfl | rfl | rfl | rfl | ⟨code, rfl⟩ <;> rfl

theorem hartDo_load (dest : HartDest) (data cmp : BitVec 128) :
    hartDo h .load dest addr size data cmp s = hartLoad s h addr.toNat size dest := by simp only [hartDo, hr, hz, Bool.not_true, if_true, Bool.false_eq_true, if_false]

theorem hartDo_amo (code : Nat) (dest : HartDest) (data cmp : BitVec 128) : hartDo h (.amo code) dest addr size data cmp s =
    hartAmo s h code dest addr.toNat size (data.toNat % 2 ^ (8 * size)) (cmp.toNat % 2 ^ (8 * size)) := by
  simp only [hartDo, hr, hz, Bool.not_true, if_true, Bool.false_eq_true, if_false]

theorem hartDo_lr (dest : HartDest) (data cmp : BitVec 128) : hartDo h .lr dest addr size data cmp s =
    hartLrSc s h false dest addr.toNat size (data.toNat % 2 ^ (8 * size)) := by
  simp only [hartDo, hr, hz, Bool.not_true, if_true, Bool.false_eq_true, if_false]

theorem hartDo_sc (dest : HartDest) (data cmp : BitVec 128) : hartDo h .sc dest addr size data cmp s =
    hartLrSc s h true dest addr.toNat size (data.toNat % 2 ^ (8 * size)) := by
  simp only [hartDo, hr, hz, Bool.not_true, if_true, Bool.false_eq_true, if_false]

/-- A store whose value has no destination ends in the state of the store, or of its trap. -/
theorem hartDo_store_ok {u : State} {data : BitVec 128} (hs : hartStore s h addr.toNat (leBytes size (data.toNat % 2 ^ (8 * size))) = .ok u)
    (cmp : BitVec 128) : hartDo h .store .value addr size data cmp s = u := by
  simp only [hartDo, hr, hz, Bool.not_true, if_true, Bool.false_eq_true, if_false, hs]
  rfl

theorem hartDo_store_error {u : State} {data : BitVec 128}
    (hs : hartStore s h addr.toNat (leBytes size (data.toNat % 2 ^ (8 * size))) = .error u) (dest : HartDest) (cmp : BitVec 128) :
    hartDo h .store dest addr size data cmp s = u := by
  simp only [hartDo, hr, hz, Bool.not_true, if_true, Bool.false_eq_true, if_false, hs]

end

/-! ### Atomics -/

/-- An AMO at HBM of a domain that is on returns the old value and writes the new one. -/
theorem hartAmo_hbm {s : State} {h code size a k v cmp w : Nat} (hl : lineKey s h size a .a = some k) (hb : isHbm k = true)
    (ho : wayOff s (some (hartDie h)) k = false) (hw : coreAmo code size (leNat (getBytes s k size)) v cmp = some w) (dest : HartDest) :
    hartAmo s h code dest a size v cmp = hartGive (putAtomic s k (leBytes size w)) h dest (leNat (getBytes s k size)) := by
  obtain ⟨ha, hx⟩ := lineKey_spec hl
  simp only [hartAmo, ha, if_true, hx, hl, ho, hw, hb, Bool.false_eq_true, if_false]

/-- The reservations of the other harts. -/
def resvsOf (s : State) (h : Nat) : List (Nat × Nat) := s.resvs.filter (fun x => x.1 != h)

theorem hartLr_on {s : State} {h size a k : Nat} (hl : lineKey s h size a .r = some k) (ho : wayOff s (some (hartDie h)) k = false)
    (dest : HartDest) (v : Nat) : hartLrSc s h false dest a size v =
      { hartGive s h dest (leNat (getBytes s k size)) with resvs := resvsOf s h ++ [(h, k / 64)] } := by
  unfold hartLrSc
  simp only [Bool.false_eq_true, if_false, hl, ho, Bool.not_false, if_true, resvsOf]

theorem hartSc_on {s : State} {h size a k : Nat} (hl : lineKey s h size a .w = some k) (ho : wayOff s (some (hartDie h)) k = false)
    (dest : HartDest) (v : Nat) : hartLrSc s h true dest a size v =
      if s.resvs.contains (h, k / 64) then hartGive (putBytes { s with resvs := resvsOf s h } k (leBytes size v)) h dest 0
      else hartGive { s with resvs := resvsOf s h } h dest 1 := by
  unfold hartLrSc
  simp only [if_true, hl, ho, Bool.false_eq_true, if_false, Bool.not_true, resvsOf]

theorem resvsOf_self (s : State) (h l : Nat) : (resvsOf s h).contains (h, l) = false := by
  rw [Bool.eq_false_iff]
  simp [resvsOf]

theorem resvOutside_resvsOf (s : State) (h k n l : Nat) : (resvOutside (resvsOf s h) k n).contains (h, l) = false := by
  rw [Bool.eq_false_iff]
  simp [resvOutside, resvsOf]

theorem resvsOf_other (s : State) {h g : Nat} (hg : g ≠ h) (l : Nat) : (resvsOf s h).contains (g, l) = s.resvs.contains (g, l) := by
  rw [Bool.eq_iff_iff]
  simp [resvsOf, hg]

/-- A byte after bytes of a number were put into the store. -/
theorem byteAt_putBytes_leBytes (s : State) (k n v key : Nat) :
    byteAt (putBytes s k (leBytes n v)) key = if k ≤ key ∧ key < k + n then BitVec.ofNat 8 (v / 256 ^ (key - k)) else byteAt s key := by
  rw [byteAt_putBytes, leBytes_length]
  split
  · exact leBytes_getD _ _ _ (by omega)
  · rfl

/-! ### CSR reads and scalar instructions -/

theorem hartAct_csrRead {s : State} {h num w : Nat} (hr : hartReady s h = true) (hf : (hartOf s h).csrRefused num false = none)
    (hw : (hartOf s h).csrRead h ((hartOf s h).csrNo num) = some w) (addr : Word) (size : Nat) (data cmp : BitVec 128) :
    hartAct h (.csr num .read) addr size data cmp s = setHart s h { hartOf s h with reply := BitVec.ofNat 128 w } := by
  have hread : ((.read : CsrHow) != .read) = false := rfl
  unfold hartAct hartAccess
  simp only [Bool.false_and, Bool.false_eq_true, if_false, hartDo, hr, Bool.not_true, hartCsr, hread, hf, hw, if_true]

/-- A word of 4 bytes is carried out as it stands. -/
theorem hartAct_scalar {s : State} {h : Nat} (hr : hartReady s h = true) {u : BitVec 32} (hu : u.toNat % 4 = 3) (addr : Word) (size : Nat)
    (data cmp : BitVec 128) : hartAct h (.scalar u) addr size data cmp s = scalarDo s h u.toNat 4 := by
  unfold hartAct hartScalar
  simp only [hr, hu, Bool.not_true, Bool.false_eq_true, if_false, if_true]

theorem mod_four_of_code {w c : Nat} (hc : fieldOf w 0 7 = c) (h3 : c % 4 = 3) : w % 4 = 3 := by
  rw [fieldOf_eq_div_mod] at hc
  omega

section
variable {s : State} {h w : Nat}

theorem scalarDo_alu {y : Word} (hc : fieldOf w 0 7 = 0x13 ∨ fieldOf w 0 7 = 0x1B ∨ fieldOf w 0 7 = 0x33 ∨ fieldOf w 0 7 = 0x3B)
    (hy : aluValue w (xReg (hartOf s h) (fieldOf w 15 5)) (xReg (hartOf s h) (fieldOf w 20 5)) = some y) :
    scalarDo s h w 4 = setHart s h (setX (hartOf s h) (fieldOf w 7 5) y).next := by
  unfold scalarDo
  rcases hc with hc | hc | hc | hc <;> simp only [hc, hy, skip_four]

theorem scalarDo_fp {y : Hart} (hon : fsOn (hartOf s h) = true)
    (hy : fieldOf w 0 7 = 0x53 ∧ fpOp (hartOf s h) w = some y ∨
      (fieldOf w 0 7 = 0x43 ∨ fieldOf w 0 7 = 0x47 ∨ fieldOf w 0 7 = 0x4B ∨ fieldOf w 0 7 = 0x4F) ∧ fpFma (hartOf s h) w = some y) :
    scalarDo s h w 4 = setHart s h y.next := by
  unfold scalarDo
  rcases hy with ⟨hc, hy⟩ | ⟨hc | hc | hc | hc, hy⟩ <;> simp only [hc, hon, hy, if_true, skip_four]

theorem scalarDo_branch {b : Bool} (hc : fieldOf w 0 7 = 0x63)
    (hb : branchTaken (fieldOf w 12 3) (xReg (hartOf s h) (fieldOf w 15 5)) (xReg (hartOf s h) (fieldOf w 20 5)) = some b) :
    scalarDo s h w 4 = setHart s h { hartOf s h with pc := (hartOf s h).pc + if b then immB w else 4 } := by
  unfold scalarDo
  simp only [hc, hb]
  cases b <;> rfl

theorem two_pow_mod_four (f3 : Nat) : [1, 2, 4, 8, 16].contains (2 ^ (f3 % 4)) = true := by
  have h4 : f3 % 4 < 4 := Nat.mod_lt _ (by decide)
  generalize f3 % 4 = e at h4
  interval_cases e <;> rfl

theorem scalarDo_load (hr : hartReady s h = true) {bs : List Byte} (hc : fieldOf w 0 7 = 3) (h7 : fieldOf w 12 3 ≠ 7)
    (hd : deviceAddr s h .r (xReg (hartOf s h) (fieldOf w 15 5) + immI w).toNat = none)
    (hb : readVia s (hartKey s h .r) (xReg (hartOf s h) (fieldOf w 15 5) + immI w).toNat (2 ^ (fieldOf w 12 3 % 4)) (some (hartDie h)) = .ok bs) :
    scalarDo s h w 4 = setHart s h (setX (hartOf s h) (fieldOf w 7 5)
      (if fieldOf w 12 3 < 4 then BitVec.ofInt 64 (toSigned (8 * 2 ^ (fieldOf w 12 3 % 4)) (leNat bs % 2 ^ (8 * 2 ^ (fieldOf w 12 3 % 4))))
        else BitVec.ofNat 64 (leNat bs))).next := by
  unfold scalarDo
  simp only [hc, h7, if_false]
  rw [hartAccess_memory hr (two_pow_mod_four _) (.inl rfl) hd, hartDo_load hr (two_pow_mod_four _), hartLoad_ok hb]
  simp only [hartGive, Hart.put, decide_eq_true_eq, HartDest.len, skip_four]

end

/-- Settles O16: each operation is performed at once, so its clause is the value of the operation's branch. -/
theorem hartMemoryCommands : Obligations.HartMemoryCommands := by
  unfold Obligations.HartMemoryCommands
  intro s h addr size data cmp hh hr hz a v from_
  have ha : a < 2 ^ 64 := addr.isLt
  refine ⟨fun bs hb => ?load, fun u hw => ?store, fun code k w hl hm ho hw => ?amo, fun k hl ho => ?lr, fun k hl ho => ?sc,
    fun op z hop hd => ?device, fun num w => ?csr, fun u => ?scalar⟩
  case load =>
    refine ⟨_, exec_hartMemory hh _ _ _ _ _ _, ?_⟩
    rw [hartAct_memory hr hz (.inl rfl) (deviceAddr_of_readVia ha (size_pos hz) hb), hartDo_load hr hz, hartLoad_ok hb]
    exact ⟨onlyHart_setHart s h _, hartOf_setHart_same _ _ _⟩
  case store =>
    obtain ⟨honly, _, hrest⟩ := writeVia_spec _ _ _ _ _ _ hw
    rw [leBytes_length] at hrest
    have hpos : 0 < (leBytes size v).length := (leBytes_length size v).symm ▸ size_pos hz
    refine ⟨?_, honly, hrest, fun k hk hin i hi => ?_⟩
    · rw [exec_hartMemory hh, hartAct_memory hr hz (.inr (.inl rfl)) (deviceAddr_of_writeVia ha hpos hw),
        hartDo_store_ok hr hz (hartStore_ok hw)]
    · exact (writeVia_within _ _ _ _ _ _ _ hpos (by rwa [leBytes_length]) hk hw i (by rwa [leBytes_length])).trans (leBytes_getD _ _ i hi)
  case amo =>
    refine ⟨_, exec_hartMemory hh _ _ _ _ _ _, ?_⟩
    rw [hartAct_memory hr hz (.inr (.inr (.inr (.inr ⟨code, rfl⟩)))) (deviceAddr_of_hartXlate ha (lineKey_spec hl).2), hartDo_amo hr hz,
      hartAmo_hbm hl hm ho hw]
    exact ⟨rfl, hartOf_setHart_same _ _ _, byteAt_putBytes_leBytes s k size w⟩
  case lr =>
    refine ⟨_, exec_hartMemory hh _ _ _ _ _ _, ?_⟩
    rw [hartAct_memory hr hz (.inr (.inr (.inl rfl))) (deviceAddr_of_hartXlate ha (lineKey_spec hl).2), hartDo_lr hr hz, hartLr_on hl ho]
    refine ⟨rfl, ?_, fun g hg l => ?_, hartOf_setHart_same s h _⟩
    · simp
    · show (resvsOf s h ++ [(h, k / 64)]).contains (g, l) = _
      rw [← resvsOf_other s hg l, Bool.eq_iff_iff]
      simp [hg]
  case sc =>
    refine ⟨_, exec_hartMemory hh _ _ _ _ _ _, ?_⟩
    rw [hartAct_memory hr hz (.inr (.inr (.inr (.inl rfl)))) (deviceAddr_of_hartXlate ha (lineKey_spec hl).2), hartDo_sc hr hz, hartSc_on hl ho]
    cases hc : s.resvs.contains (h, k / 64) with
    | true =>
      refine ⟨rfl, resvOutside_resvsOf s h k _, hartOf_setHart_same _ _ _, fun key => ?_⟩
      · simp only [true_and]
        exact byteAt_putBytes_leBytes _ k size _ key
    | false =>
      refine ⟨rfl, resvsOf_self s h, hartOf_setHart_same _ _ _, fun key => ?_⟩
      simp only [Bool.false_eq_true, false_and, if_false]
      rfl
  case device => rw [exec_hartMemory hh, hartAct_device hr hz hop hd]
  case csr =>
    intro x hf hw
    rw [exec_hartMemory hh, hartAct_csrRead hr hf hw]
  case scalar =>
    intro x w ra rb goes code
    have hword := fun c (h3 : c % 4 = 3) (hc : code = c) =>
      (exec_hartMemory hh _ _ _ _ _ _).trans (congrArg _ (hartAct_scalar hr (mod_four_of_code hc h3) addr size data cmp))
    refine ⟨fun y hc hy => ?_, fun y hon hy => ?_, fun b hc hb => ?_, fun bs hc h7 hd hb => ?_⟩
    · have hgo := scalarDo_alu hc hy
      rcases hc with hc | hc | hc | hc <;> exact (hword _ rfl hc).trans (congrArg _ hgo)
    · have hgo := scalarDo_fp hon hy
      rcases hy with ⟨hc, _⟩ | ⟨hc | hc | hc | hc, _⟩ <;> exact (hword _ rfl hc).trans (congrArg _ hgo)
    · exact (hword _ rfl hc).trans (congrArg _ (scalarDo_branch hc hb))
    · exact (hword _ rfl hc).trans (congrArg _ (scalarDo_load hr hc h7 hd hb))

end Sys2Proof.Machine
end

section
/-! SUPPORT. Failing accesses of the harts: the traps' causes, and the address on which an access of parts or elements traps (08 R249 to R251,
R258; the trap's registers by log entry 8). -/

namespace Sys2Proof.Machine

/-! ### Causes -/

/-- The causes of the faults of an access are those of page faults, access faults and guest page faults. -/
theorem fault_codes_lt (acc : Acc) : pageFault acc < 2 ^ 64 ∧ accFault acc < 2 ^ 64 ∧ guestFault acc < 2 ^ 64 := by
  cases acc <;> decide

theorem placeFault_lt (s : State) (h : Nat) (acc : Acc) (a : Nat) : (placeFault s h acc a).1 < 2 ^ 64 := by
  obtain ⟨_, hacc, hguest⟩ := fault_codes_lt acc
  unfold placeFault
  split
  · exact hacc
  · exact hguest

theorem sv48From_error_lt {s : State} {h : Nat} {user : Bool} {status : Nat} {acc : Acc} {va lvl table : Nat} {c : Nat × Nat}
    (he : sv48From s h user status acc va lvl table = .error c) : c.1 < 2 ^ 64 := by
  obtain ⟨hpage, hacc, hguest⟩ := fault_codes_lt acc
  induction lvl generalizing table with
  | zero => cases he; exact hpage
  | succ lvl ih =>
    unfold sv48From at he
    dsimp only at he
    split at he
    · cases he
      split
      · exact hguest
      · exact hacc
    · cases he; exact hacc
    · split at he
      · cases he; exact hacc
      · split at he
        · cases he; exact hpage
        · split at he
          · split at he
            · cases he
            · cases he; exact hpage
          · exact ih he

theorem stageOne_error_lt {s : State} {h : Nat} {acc : Acc} {va : Nat} {c : Nat × Nat} (he : stageOne s h acc va = .error c) :
    c.1 < 2 ^ 64 := by
  unfold stageOne at he
  dsimp only at he
  generalize (if (hartOf s h).effGuest = true then Csr.vsatp else Csr.satp) = satp at he
  generalize (if (hartOf s h).effGuest = true then Csr.vsstatus else Csr.mstatus) = status at he
  split at he
  · cases he
  · split at he
    · cases he; exact (fault_codes_lt acc).1
    · exact sv48From_error_lt he

theorem faultCause_lt (s : State) (h : Nat) (acc : Acc) (va : Nat) : (faultCause s h acc va).1 < 2 ^ 64 := by
  unfold faultCause
  split
  · next he => exact stageOne_error_lt he
  · split
    · exact placeFault_lt s h acc _
    · exact (fault_codes_lt acc).2.1

/-! ### Traps of failing accesses -/

/-- The mark of a guest's address is none of what a trap saves. -/
theorem took_markGva {x y : Hart} {cause : Nat} {v : Word} (ht : Took x y cause v) : Took x y.markGva cause v := by
  have hcsr : ∀ n l, (n = Csr.mstatus ∨ n = Csr.hstatus) → Took x (y.setFlds n l) cause v := by
    intro n l hn
    obtain ⟨hy, hsaved⟩ := ht
    have hother : ∀ m, m ≠ Csr.mstatus → m ≠ Csr.hstatus → (y.setFlds n l).csrw m = y.csrw m := fun m h1 h2 =>
      csrw_setFlds_other y l (by rcases hn with rfl | rfl; exacts [h1, h2])
    refine ⟨?_, ?_⟩
    · rw [Hart.setFlds_eq]
      exact congrArg (fun z : Hart => { z with csr := (y.setFlds n l).csr }) hy
    · have hpc : (y.setFlds n l).pc = y.pc := rfl
      simp only [hpc, hother Csr.sepc (by decide) (by decide), hother Csr.scause (by decide) (by decide),
        hother Csr.stval (by decide) (by decide), hother Csr.vsepc (by decide) (by decide), hother Csr.vscause (by decide) (by decide),
        hother Csr.vstval (by decide) (by decide), hother Csr.mepc (by decide) (by decide), hother Csr.mcause (by decide) (by decide),
        hother Csr.mtval (by decide) (by decide)]
      exact hsaved
  unfold Hart.markGva
  split
  · exact hcsr _ _ (.inl rfl)
  · exact hcsr _ _ (.inr rfl)
  · exact ht

theorem report_harts (s : State) (kind cls ut u : Nat) (p : Option Nat) (a : Nat) (d : List Byte) :
    (report s kind cls ut u p a d).harts = s.harts := errEmit_harts s _

/-- The hart after a failing access took the trap of its cause, with the address in the value register. -/
theorem took_accessFault (s : State) (h : Nat) (acc : Acc) (va b : Nat) :
    Took (hartOf s h) (hartOf (accessFault s h acc va b) h) (faultCause s h acc b).1 (BitVec.ofNat 64 va) := by
  have key : ∀ s1 : State, s1.harts = s.harts → Took (hartOf s h) (hartOf (setHart s1 h
      (if (hartOf s h).effGuest then ((hartOf s1 h).trapped (faultCause s h acc b).1 (BitVec.ofNat 64 va) (faultCause s h acc b).2).markGva
        else (hartOf s1 h).trapped (faultCause s h acc b).1 (BitVec.ofNat 64 va) (faultCause s h acc b).2)) h)
      (faultCause s h acc b).1 (BitVec.ofNat 64 va) := by
    intro s1 hs1
    have hsame : hartOf s1 h = hartOf s h := by rw [hartOf, hartOf, hs1]
    have htook := took_trapped (hartOf s h) (faultCause_lt s h acc b) (BitVec.ofNat 64 va) (faultCause s h acc b).2
    rw [hartOf_setHart_same, hsame]
    split
    · exact took_markGva htook
    · exact htook
  unfold accessFault faultAs
  refine key _ ?_
  split
  · exact report_harts s _ _ _ _ _ _ _
  · rfl

/-- With no bank refused nothing but the hart changes. -/
theorem onlyHart_accessFault {s : State} {h : Nat} {acc : Acc} {va b : Nat} (hb : bankRefused s h acc b = false) :
    OnlyHart s (accessFault s h acc va b) h := by
  unfold accessFault faultAs
  simp only [hb, Bool.false_eq_true, if_false]
  exact onlyHart_setHart s h _

/-- Settles O17: the first failing part or element decides the address of the trap. -/
theorem hartAccessFaults : Obligations.HartAccessFaults := by
  unfold Obligations.HartAccessFaults
  intro s h hh hr x from_
  refine ⟨fun addr size data cmp e y hz => ⟨fun hd he hf => ?load, fun hd he hf => ?store⟩, fun f a hon => ⟨fun hl hf => ?gather, fun hl hf => ?scatter⟩,
    fun acc va b => ⟨took_accessFault s h acc va b, onlyHart_accessFault⟩⟩
  case load =>
    rw [exec_hartMemory hh, hartAct_memory hr hz (.inl rfl) hd, hartDo_load hr hz, hartLoad, he]
    simp only [hartLoadParts, hf]
  case store =>
    have hstore : hartStore s h addr.toNat (leBytes size (data.toNat % 2 ^ (8 * size))) = .error (accessFault s h .w
        (failingAt s (hartKey s h .w) .w y.1 y.2) (failingAt s (hartKey s h .w) .w y.1 y.2)) := by
      rw [hartStore, he]
      simp only [hartStoreParts, leBytes_length, hf]
    rw [exec_hartMemory hh, hartAct_memory hr hz (.inr (.inl rfl)) hd, hartDo_store_error hr hz hstore]
  case gather =>
    refine (onUnit_next hh _).trans (congrArg _ ?_)
    have hf : (elemAddrs (hartOf s h) f).find? _ = some a := hf
    rw [qGather, hl, qInstr_legal ⟨hh, hr, hon⟩]
    simp only [hf]
  case scatter =>
    refine (onUnit_next hh _).trans (congrArg _ ?_)
    have hf : (elemAddrs (hartOf s h) f).find? _ = some a := hf
    rw [qScatter, hl, qInstr_legal ⟨hh, hr, hon⟩]
    simp only [hf]

end Sys2Proof.Machine
end

section
/-! SUPPORT. The harts' accesses within a Vat page (11 R360, 02 R51). -/

namespace Sys2Proof.Machine

section
variable {s : State} {h a size : Nat} {acc : Acc} {node off : Nat} {prio : Bool}

/-- An access within a page is one part. -/
theorem pageParts_within (hp : a % 4096 + size ≤ 4096) : pageParts a size = [(a, size)] := by
  rw [pageParts, if_neg (by omega)]

theorem partOff_self : partOff a a = 0 := by
  rw [partOff, Nat.add_sub_cancel_left, Nat.mod_self]

theorem localParts_vat (hp : a % 4096 + size ≤ 4096) (hx : hartXlate s h acc a = some (.vat node off prio)) : localParts s h acc a size = [] := by
  simp [localParts, pageParts_within hp, hx]

theorem vatParts_vat (hp : a % 4096 + size ≤ 4096) (hx : hartXlate s h acc a = some (.vat node off prio)) :
    vatParts s h acc a size = [(0, size, node, off, prio)] := by
  simp [vatParts, pageParts_within hp, hx, partOff_self]

/-- The request of an access at `a` for one part at its start. -/
def vatAsk (s : State) (p h a node off : Nat) (prio : Bool) (op size : Nat) (d : List Byte) : State :=
  { s with vatQueue := s.vatQueue ++ [⟨p, .hart h a 0, h / 48, node, off, prio, op, size, d⟩] }

theorem hartAsk_one {p : Nat} (hpart : hartPart s h = some p) (op : Nat) (data : Nat → Nat → List Byte) :
    hartAsk s h a op [(0, size, node, off, prio)] data = vatAsk s p h a node off prio op size (data 0 size) := by
  simp only [hartAsk, hpart]
  rfl

/-- The hart waits for one answer to an access at `a`. -/
def vatWait (s u : State) (h a size : Nat) : State :=
  setHart u h { hartOf s h with waiting := some ⟨.value, 1, a, List.replicate size 0#8⟩ }

section
variable (hn : 0 < size) (hp : a % 4096 + size ≤ 4096)
include hn hp

theorem hartLoad_vat {p : Nat} (hpart : hartPart s h = some p) (hx : hartXlate s h .r a = some (.vat node off prio)) :
    hartLoad s h a size .value = if fdieOpen s h then vatWait s (vatAsk s p h a node off prio 0 size []) h a size
      else hartReturns (offRecord s a) h (leNat (List.replicate size 0xFF#8)) := by
  rw [hartLoad, readVia_unmapped _ hn (hartKey_of_vat hx)]
  simp only [hartLoadParts, localParts_vat hp hx, vatParts_vat hp hx, hartAsk_one hpart, List.find?_nil, List.map_nil, List.foldl_nil,
    List.flatMap_nil]
  rfl

theorem hartStore_vat {p : Nat} (hpart : hartPart s h = some p) (hx : hartXlate s h .w a = some (.vat node off prio)) (v : Nat) :
    hartStore s h a (leBytes size v) = .ok (if fdieOpen s h then vatAsk s p h a node off prio 1 size (leBytes size v) else offRecord s a) := by
  have htake : (leBytes size v).take size = leBytes size v := List.take_of_length_le (leBytes_length size v).le
  rw [hartStore, writeVia_unmapped _ (by rwa [leBytes_length]) (hartKey_of_vat hx)]
  simp only [hartStoreParts, leBytes_length, localParts_vat hp hx, vatParts_vat hp hx, hartAsk_one hpart, List.find?_nil, List.foldl_nil,
    List.drop_zero, htake]
  split <;> rfl

end

/-- An AMO of a fabric operation to a Vat page is a request. -/
theorem hartAmo_vat {p code v cmp : Nat} (hpart : hartPart s h = some p) (h2 : 2 ≤ code) (h15 : code ≤ 15) (hal : a % size = 0)
    (hopen : fdieOpen s h = true) (hx : hartXlate s h .a a = some (.vat node off prio)) :
    hartAmo s h code .value a size v cmp = vatWait s (vatAsk s p h a node off prio code size
      (leBytes size v ++ if code = 11 then leBytes size cmp else [])) h a size := by
  have hcode : (decide (code < 2) || decide (15 < code)) = false := by simp; omega
  simp only [hartAmo, hal, hx, hcode, hopen, hartAsk_one hpart, if_true, Bool.not_true, Bool.false_eq_true, if_false]
  rfl

theorem lineKey_vat (hx : hartXlate s h acc a = some (.vat node off prio)) : lineKey s h size a acc = none := by
  rw [lineKey, hartKey_of_vat hx]
  split <;> rfl

theorem hartLrSc_vat {sc : Bool} (hx : hartXlate s h (if sc then .w else .r) a = some (.vat node off prio)) (dest : HartDest) (v : Nat) :
    hartLrSc s h sc dest a size v = accessFault s h (if sc then .w else .r) a a := by
  unfold hartLrSc
  simp only [lineKey_vat hx]

/-- An access that a Vat page does not take is an access fault. -/
theorem faultCause_vat (hx : hartXlate s h acc a = some (.vat node off prio)) : faultCause s h acc a = (accFault acc, 0) := by
  unfold hartXlate at hx
  unfold faultCause
  split at hx
  · next hst => simp only [hst, hx, Option.isNone_some, Bool.false_eq_true, if_false]
  · simp at hx

end

/-- Settles O18: the access is one part, which lies on the Vat page. -/
theorem hartVatCommands : Obligations.HartVatCommands := by
  unfold Obligations.HartVatCommands
  intro s h addr size data cmp p node off prio hh hr hz hpart hpage a v ask wait
  have ha : a < 2 ^ 64 := addr.isLt
  have hn := size_pos hz
  have hact := fun {op : HartOp} (hop : accessesMemory op) (hx : hartXlate s h (opAcc op) a = some (.vat node off prio)) =>
    (exec_hartVat hh op addr size data cmp s).trans (congrArg _ (hartAct_memory hr hz hop (deviceAddr_of_hartXlate ha hx) data cmp))
  refine ⟨fun hx => ?_, fun hx => ?_, fun code h2 h15 hal hopen hx => ?_⟩
  · have hload := hartLoad_vat hn hpage hpart hx
    rw [hact (.inl rfl) hx, hartDo_load hr hz, hload, hact (.inr (.inr (.inl rfl))) hx, hartDo_lr hr hz]
    exact ⟨fun ho => congrArg _ (if_pos ho), fun ho => congrArg _ (if_neg (by simp [ho])), congrArg _ (hartLrSc_vat (sc := false) hx _ _),
      faultCause_vat hx⟩
  · have hstore := hartDo_store_ok hr hz (hartStore_vat hn hpage hpart hx v) cmp
    rw [hact (.inr (.inl rfl)) hx, hstore, hact (.inr (.inr (.inr (.inl rfl)))) hx, hartDo_sc hr hz]
    exact ⟨fun ho => congrArg _ (if_pos ho), fun ho => congrArg _ (if_neg (by simp [ho])), congrArg _ (hartLrSc_vat (sc := true) hx _ _),
      faultCause_vat hx⟩
  · rw [hact (.inr (.inr (.inr (.inr ⟨code, rfl⟩)))) hx, hartDo_amo hr hz, hartAmo_vat hpart h2 h15 hal hopen hx]
    rfl

end Sys2Proof.Machine
end

section
/-! SUPPORT. The counters of the rings: TAIL, FETCH, CQH and BASE move by doorbells, fetches and enables alone, whatever completions and resets
do to the rings' descriptors (10 R316 to R326). -/

namespace Sys2Proof.Machine

/-- Two rings have the same TAIL, FETCH, CQH and BASE. -/
def Ring.SameCounters (g g' : Ring) : Prop := g'.tail = g.tail ∧ g'.fetch = g.fetch ∧ g'.cqh = g.cqh ∧ g'.base = g.base

/-- No ring's TAIL, FETCH, CQH or BASE moves. -/
def KeepsCounters (s t : State) : Prop := ∀ q, (ringOf s q).SameCounters (ringOf t q)

theorem Ring.SameCounters.refl (g : Ring) : g.SameCounters g := ⟨rfl, rfl, rfl, rfl⟩

theorem Ring.sameCounters_retire (g : Ring) (d : Desc) (st : BitVec 16) (c : BitVec 32) : g.SameCounters { g.retire d st with comp := c } :=
  ⟨rfl, rfl, rfl, rfl⟩

theorem Ring.sameCounters_off (g : Ring) : g.SameCounters g.off := ⟨rfl, rfl, rfl, rfl⟩

theorem Ring.sameCounters_signal (g : Ring) (n : Nat) (b : Bool) : g.SameCounters { g with unsignalled := n, armed := b } :=
  ⟨rfl, rfl, rfl, rfl⟩

theorem Ring.sameCounters_dbErr (g : Ring) : g.SameCounters { g with dbErr := true } := ⟨rfl, rfl, rfl, rfl⟩

theorem Ring.sameCounters_disabled (g : Ring) : g.SameCounters { g with enabled := false, disabling := false, reads := [], abortLeft := 0 } :=
  ⟨rfl, rfl, rfl, rfl⟩

theorem KeepsCounters.refl (s : State) : KeepsCounters s s := fun _ => .refl _

theorem KeepsCounters.trans {s t u : State} (h : KeepsCounters s t) (g : KeepsCounters t u) : KeepsCounters s u := fun q => by
  obtain ⟨h1, h2, h3, h4⟩ := h q
  obtain ⟨g1, g2, g3, g4⟩ := g q
  exact ⟨g1.trans h1, g2.trans h2, g3.trans h3, g4.trans h4⟩

/-- What leaves the rings alone keeps their counters. -/
theorem KeepsCounters.of_rings {s t : State} (h : t.rings = s.rings) : KeepsCounters s t := fun q => by
  rw [ringOf, ringOf, h]
  exact .refl _

theorem keepsCounters_setRing {s : State} {r : Nat} {g : Ring} (h : (ringOf s r).SameCounters g) : KeepsCounters s (setRing s r g) := fun q => by
  by_cases hq : q = r
  · subst hq
    rwa [ringOf_setRing_same]
  · rw [ringOf_setRing_other s r q g hq]
    exact .refl _

theorem KeepsCounters.foldl {α : Type} {f : State → α → State} (hf : ∀ s x, KeepsCounters s (f s x)) (l : List α) (s : State) :
    KeepsCounters s (l.foldl f s) := by
  induction l generalizing s with
  | nil => exact .refl s
  | cons x l ih => exact (hf s x).trans (ih _)

/-- Reporting and bytes leave the rings alone. -/
theorem Reporting.rings {s t : State} (h : Reporting s t) : t.rings = s.rings := by
  obtain ⟨h, _⟩ := h
  unfold OnlyReports at h
  rw [h]

theorem keepsCounters_writeVa {s t : State} {p a : Nat} {bs : List Byte} {src : Option Nat} (h : writeVa s p a bs src = .ok t) :
    KeepsCounters s t := .of_rings (reporting_writeVia _ _ _ _ _ _ h).rings

/-! ### Completion records -/

theorem keepsCounters_ringPoll (s : State) (r p : Nat) : KeepsCounters s (ringPoll s r p) := by
  have hraise := (reporting_raiseVector s p (ofld s (Reg.rngCfg + 64 * r) 16 11)).rings
  unfold ringPoll ringRaise
  dsimp only
  split
  · split
    · refine (KeepsCounters.of_rings hraise).trans (keepsCounters_setRing ?_)
      rw [ringOf, hraise]
      exact Ring.sameCounters_signal _ 0 false
    · exact keepsCounters_setRing (Ring.sameCounters_signal _ 0 _)
  · exact .refl s

theorem keepsCounters_disableCheck (s : State) (r : Nat) : KeepsCounters s (disableCheck s r) := by
  unfold disableCheck
  dsimp only
  split
  · exact keepsCounters_setRing (Ring.sameCounters_disabled _)
  · exact .refl s

theorem keepsCounters_releaseTiles (s : State) (r : Nat) (seq : BitVec 32) : KeepsCounters s (releaseTiles s r seq) := .of_rings rfl

theorem keepsCounters_writeRecord {s u : State} {r : Nat} {d : Desc} {st : BitVec 16} {detail : Nat} {errec : Bool}
    (h : writeRecord s r d st detail errec = some u) : KeepsCounters s u := by
  unfold writeRecord at h
  dsimp only at h
  split at h
  · cases h
  · next s1 hw =>
    have h1 : s1.rings = s.rings := (reporting_writeVia _ _ _ _ _ _ hw).rings
    rw [← Option.some.inj h]
    refine KeepsCounters.trans ?_ (keepsCounters_disableCheck _ r)
    have h2 : KeepsCounters s (releaseTiles (setRing s1 r { (ringOf s r).retire d st with comp := (ringOf s r).comp + 1 }) r d.seq) := by
      refine ((KeepsCounters.of_rings h1).trans (keepsCounters_setRing ?_)).trans (keepsCounters_releaseTiles _ r d.seq)
      rw [ringOf, h1]
      exact Ring.sameCounters_retire _ d st _
    split
    · exact (h2.trans (keepsCounters_setRing (Ring.sameCounters_signal _ _ _))).trans (keepsCounters_ringPoll _ r _)
    · exact h2

theorem keepsCounters_dropDesc (s : State) (r : Nat) (d : Desc) (st : BitVec 16) : KeepsCounters s (dropDesc s r d st) :=
  (keepsCounters_setRing (Ring.sameCounters_retire _ d st _)).trans (keepsCounters_releaseTiles _ r d.seq)

theorem keepsCounters_resetRecords (r : Nat) (st : BitVec 16) (l : List Desc) (s : State) : KeepsCounters s (resetRecords r st l s) := by
  induction l generalizing s with
  | nil => exact .refl s
  | cons d l ih =>
    unfold resetRecords
    split
    · next hw => exact (keepsCounters_writeRecord hw).trans (ih _)
    · exact (keepsCounters_dropDesc s r d st).trans (ih _)

/-! ### Stopped work and partition resets -/

theorem keepsCounters_scramble (s : State) (l : List (Nat × Nat)) : KeepsCounters s (scramble s l) := by
  unfold scramble
  exact .foldl (fun s x => .of_rings (by rfl)) l s

theorem keepsCounters_tryWrite (s : State) (p a : Nat) (bs : List Byte) : KeepsCounters s (tryWrite s p a bs) := by
  unfold tryWrite
  split
  · next hw => exact keepsCounters_writeVa hw
  · exact .refl s

theorem keepsCounters_freeSets (s : State) (t : Nat) (ks : List Nat) : KeepsCounters s (freeSets s t ks) := by
  unfold freeSets
  exact .foldl (fun s k => .of_rings (by rfl)) ks s

theorem keepsCounters_tileScramble (s : State) (r : Nat) (d : Desc) (wrote : List (Nat × Nat)) : KeepsCounters s (tileScramble s r d wrote) := by
  have hcut : ∀ (l : List Nat) (x : State × List (Nat × Nat)), KeepsCounters x.1 (l.foldl (tileCut d) x).1 := by
    intro l
    induction l with
    | nil => exact fun x => .refl _
    | cons t l ih => exact fun x => (keepsCounters_freeSets x.1 t _).trans (ih (tileCut d x t))
  exact (hcut _ (s, wrote)).trans (keepsCounters_scramble _ _)

theorem keepsCounters_scrambleTile (s : State) (t : Nat) : KeepsCounters s (scrambleTile s t) :=
  (keepsCounters_scramble s _).trans (keepsCounters_freeSets _ t _)

theorem keepsCounters_withPosts (s : State) (b : Bool) (l : List Post) :
    KeepsCounters s (if b = true then s else { s with posts := s.posts ++ l }) := by
  cases b
  · exact .of_rings rfl
  · exact .refl s

theorem keepsCounters_workStopped (s : State) (r : Nat) (d : Desc) (st : BitVec 16) : KeepsCounters s (workStopped s r d st) := by
  unfold workStopped
  split
  · exact keepsCounters_tileScramble s r d _
  · dsimp only
    refine KeepsCounters.trans ?_ (keepsCounters_tryWrite _ _ _ _)
    refine KeepsCounters.trans ?_ (keepsCounters_withPosts _ _ _)
    split
    · exact keepsCounters_scramble s _
    · exact (keepsCounters_scramble s _).trans (keepsCounters_tryWrite _ _ _ _)
  · exact keepsCounters_scramble s _
  · dsimp only
    refine KeepsCounters.trans ?_ (keepsCounters_tryWrite _ _ _ _)
    exact (keepsCounters_scramble s _).trans (.foldl keepsCounters_scrambleTile _ _)
  · exact .refl s

theorem keepsCounters_snapEnd (s : State) (p : Nat) : KeepsCounters s (snapEnd s p) := by
  unfold snapEnd
  split
  · exact .refl s
  · refine KeepsCounters.trans (t := setSnap s p none) (.of_rings rfl) (.foldl (fun s w => ?_) _ _)
    unfold resumeWrite
    split
    · next hw => exact keepsCounters_writeVa hw
    · exact .refl s

theorem scuTables_rings (s : State) (slots : Sparse ScuSlot) (open_ : Sparse OpenRec) (closed : Sparse (List (Nat × Bool))) :
    ({ s with scuSlots := slots, scuOpen := open_, scuClosed := closed } : State).rings = s.rings := rfl

theorem keepsCounters_scuClear (s : State) (p : Nat) : KeepsCounters s (scuClear s p) :=
  (KeepsCounters.of_rings (setReg_rings s _ 0)).trans (.of_rings (scuTables_rings (setReg s (pkey p Reg.scuStep) 0) _ _ _))

theorem keepsCounters_purgePart (s : State) (p : Nat) : KeepsCounters s (purgePart s p) := .of_rings rfl

theorem keepsCounters_startZeroing (s : State) (gs : List Nat) : KeepsCounters s (startZeroing s gs) := by
  unfold startZeroing
  exact .foldl (fun s g => .of_rings (by rfl)) gs s

theorem keepsCounters_resetting (s : State) (l : List Nat) : KeepsCounters s { s with resetting := l } := .of_rings rfl

theorem keepsCounters_notReady (s : State) (p : Nat) (l : List Nat) :
    KeepsCounters s { setRfld s (pkey p Reg.hifPartStatus) 0 1 0 with resetting := l } :=
  (KeepsCounters.of_rings (setRfld_rings s _ 0 1 0)).trans (keepsCounters_resetting _ l)

theorem keepsCounters_partitionReset (s : State) (p : Nat) : KeepsCounters s (partitionReset s p) := by
  unfold partitionReset
  dsimp only
  refine KeepsCounters.trans ?_ (keepsCounters_scuClear _ p)
  refine KeepsCounters.trans ?_ (keepsCounters_startZeroing _ _)
  refine KeepsCounters.trans ?_ (.foldl (fun s r => ?_) _ _)
  · refine KeepsCounters.trans ?_ (.foldl (fun s r => keepsCounters_resetRecords r _ _ s) _ _)
    refine KeepsCounters.trans ?_ (keepsCounters_purgePart _ p)
    refine KeepsCounters.trans ?_ (keepsCounters_snapEnd _ p)
    exact (keepsCounters_notReady s p _).trans (.foldl (fun s (x : Nat × Desc) => keepsCounters_workStopped s x.1 x.2 _) _ _)
  · exact (KeepsCounters.of_rings (setRfld_rings s _ 8 1 0)).trans (keepsCounters_setRing (Ring.sameCounters_off _))

/-! ### Waits -/

theorem keepsCounters_completeOne (s : State) (r : Nat) (d : Desc) (st : BitVec 16) (detail : Nat) (errec : Bool) :
    KeepsCounters s (completeOne s r d st detail errec) := by
  have hstop : KeepsCounters s (snapStop s r d) := by
    unfold snapStop
    split
    · split
      · exact keepsCounters_snapEnd s _
      · exact .refl s
    · exact .refl s
  unfold completeOne
  dsimp only
  refine hstop.trans ?_
  split
  · next hw => exact keepsCounters_writeRecord hw
  · exact ((KeepsCounters.of_rings (errEmit_rings _ _)).trans (keepsCounters_dropDesc _ r d _)).trans (keepsCounters_partitionReset _ _)

theorem keepsCounters_settle (n : Nat) (s : State) : KeepsCounters s (settle n s) := by
  induction n generalizing s with
  | zero => exact .refl s
  | succ n ih =>
    unfold settle
    split
    · exact .refl s
    · dsimp only
      split
      · exact ((KeepsCounters.of_rings (errEmit_rings s _)).trans (keepsCounters_completeOne _ _ _ _ _ _)).trans (ih _)
      · exact (keepsCounters_completeOne _ _ _ _ _ _).trans (ih _)

/-- Judging every wait moves no counter, though it may complete descriptors. -/
theorem keepsCounters_settleAll (s : State) : KeepsCounters s (settleAll s) := (keepsCounters_settle _ s).trans (.of_rings rfl)

/-! ### SQ_TAIL -/

/-- A doorbell write by any party only reports, or is refused, or performs its function. -/
theorem doorbell_induct {P : State → Prop} {s : State} {r : Nat} {v : BitVec 32} {f : Nat → Ring → State}
    (hrep : ∀ t, Reporting s t → P t) (hrefuse : ∀ p, P (refuseDoorbell s r p v)) (hdo : ∀ p, P (f p (ringOf s r))) (who : Party) :
    P (doorbell s who r v f) := by
  have hact : ∀ p, P (doorbell.act s r v f p) := by
    intro p
    unfold doorbell.act
    dsimp only
    split
    · exact hrep s (.refl s)
    · split
      · exact hrefuse p
      · exact hdo p
  unfold doorbell
  dsimp only
  split
  · split
    · exact hact _
    · exact hrep _ (reporting_report s _ _ _ _ _ _ _)
  · split
    · split
      · exact hact _
      · exact hrep _ (reporting_report s _ _ _ _ _ _ _)
    · exact hrep _ (reporting_report s _ _ _ _ _ _ _)

theorem keepsCounters_refuseDoorbell (s : State) (r p : Nat) (v : BitVec 32) : KeepsCounters s (refuseDoorbell s r p v) :=
  (keepsCounters_setRing (Ring.sameCounters_dbErr _)).trans (.of_rings (errEmit_rings _ _))

/-- The next state of a command on a unit. -/
theorem onUnit_eq_next {b : Bool} {t u : State} (h : onUnit b t = .next u) : t = u := by
  unfold onUnit at h
  split at h
  · exact Host.Outcome.next.inj h
  · exact absurd h nofun

/-- TAIL of ring `r` lies in its window of `n` descriptors, and no other counter of a ring has moved since `s`. -/
def WindowKept (s : State) (r n : Nat) (t : State) : Prop :=
  ((ringOf t r).tail - (ringOf t r).fetch).toNat ≤ n ∧
    ∀ q, (ringOf t q).fetch = (ringOf s q).fetch ∧ (ringOf t q).cqh = (ringOf s q).cqh ∧ (ringOf t q).base = (ringOf s q).base ∧
      (q ≠ r → (ringOf t q).tail = (ringOf s q).tail)

/-- What moves no counter keeps a window that is kept. -/
theorem WindowKept.mono {s t u : State} {r n : Nat} (h : WindowKept s r n t) (hu : KeepsCounters t u) : WindowKept s r n u := by
  obtain ⟨hwin, hrest⟩ := h
  refine ⟨?_, fun q => ?_⟩
  · obtain ⟨htail, hfetch, _, _⟩ := hu r
    rwa [htail, hfetch]
  · obtain ⟨htail, hfetch, hcqh, hbase⟩ := hu q
    rw [htail, hfetch, hcqh, hbase]
    exact hrest q

/-- A TAIL within the window keeps it. -/
theorem windowKept_setTail {s : State} {r n : Nat} {v : BitVec 32} (hv : (v - (ringOf s r).fetch).toNat ≤ n) :
    WindowKept s r n (setRing s r { ringOf s r with tail := v }) := by
  refine ⟨by rwa [ringOf_setRing_same], fun q => ?_⟩
  by_cases hq : q = r
  · subst hq
    rw [ringOf_setRing_same]
    exact ⟨rfl, rfl, rfl, fun h => absurd rfl h⟩
  · rw [ringOf_setRing_other _ _ _ _ hq]
    exact ⟨rfl, rfl, rfl, fun _ => rfl⟩

/-- Settles O20: a refused or ignored write moves no counter, and an accepted one sets TAIL within the window before waits are judged. -/
theorem tailWriteKeepsRingWindow : Obligations.TailWriteKeepsRingWindow := by
  unfold Obligations.TailWriteKeepsRingWindow
  intro s t who r v ht hwin
  have hs : WindowKept s r (ringEntries s r) s := ⟨hwin, fun q => ⟨rfl, rfl, rfl, fun _ => rfl⟩⟩
  obtain rfl : sqTail who r v s = t := onUnit_eq_next ht
  refine doorbell_induct (P := WindowKept s r (ringEntries s r)) (fun u hu => hs.mono (.of_rings hu.rings))
    (fun p => hs.mono (keepsCounters_refuseDoorbell s r p v)) (fun p => ?_) who
  by_cases hv : ((ringOf s r).tail - (ringOf s r).fetch).toNat ≤ (v - (ringOf s r).fetch).toNat ∧
      (v - (ringOf s r).fetch).toNat ≤ ringEntries s r
  · rw [if_pos hv]
    exact (windowKept_setTail hv.2).mono (keepsCounters_settleAll _)
  · rw [if_neg hv]
    exact hs.mono (keepsCounters_refuseDoorbell s r p v)

end Sys2Proof.Machine
end

section
/-! SUPPORT. Shadow lines, descriptor reads and fetches, and a ring written twice (10 R311, R313, R319). -/

namespace Sys2Proof.Machine

/-! ### A ring written twice -/

theorem sinsert_sinsert {α : Type} (m : Sparse α) (k : Nat) (v w : α) : sinsert (sinsert m k v) k w = sinsert m k w := by
  induction m with
  | nil => simp [sinsert]
  | cons e m ih =>
    obtain ⟨j, x⟩ := e
    rcases lt_trichotomy k j with h | h | h
    · simp [sinsert, h]
    · simp [sinsert, h]
    · have hne : k ≠ j := by omega
      have hlt : ¬ k < j := by omega
      simp [sinsert, hlt, hne, ih]

theorem filter_sinsert {α : Type} (m : Sparse α) (k : Nat) (v : α) :
    (sinsert m k v).filter (fun e => decide (e.1 ≠ k)) = m.filter (fun e => decide (e.1 ≠ k)) := by
  induction m with
  | nil => simp [sinsert]
  | cons e m ih =>
    obtain ⟨j, x⟩ := e
    rcases lt_trichotomy k j with h | h | h
    · simp [sinsert, h]
    · simp [sinsert, h]
    · have hne : k ≠ j := by omega
      have hlt : ¬ k < j := by omega
      simp only [sinsert, hlt, if_false, hne, List.filter_cons, ih]

/-- The second of two writes of a key prevails, the first having listed the key. -/
theorem sset_sset {α : Type} [DecidableEq α] {d : Nat → α} {k : Nat} {v : α} (hv : v ≠ d k) (m : Sparse α) (w : α) :
    sset d (sset d m k v) k w = sset d m k w := by
  have hfirst : sset d m k v = sinsert m k v := if_neg hv
  rw [hfirst, sset, sset, sinsert_sinsert, filter_sinsert]

theorem ne_init_of_enabled {g : Ring} (h : g.enabled = true) : g ≠ Ring.init := by
  rintro rfl
  exact absurd h Bool.false_ne_true

/-- The second of two writes of a ring prevails, the first being enabled. -/
theorem setRing_setRing {g : Ring} (hg : g.enabled = true) (s : State) (r : Nat) (g' : Ring) :
    setRing (setRing s r g) r g' = setRing s r g' :=
  congrArg (fun rings => { s with rings := rings }) (sset_sset (ne_init_of_enabled hg) s.rings g')

/-! ### Shadow lines -/

/-- A re-read does nothing without a stale line. -/
theorem shadowReread_stale {s : State} {r p : Nat} (hp : ringPart s r = some p) (hs : (ringOf s r).stale = true) :
    let g := ringOf s r
    let taken := setRing s r { g with stale := false, shadowTail := g.lineTail, shadowHead := g.lineHead }
    let tailed := if g.lineTail != g.shadowTail then sqTail (.host p) r g.lineTail taken else taken
    shadowReread r s = if g.lineHead != g.shadowHead then cqHead (.host p) r g.lineHead tailed else tailed := by
  simp only [shadowReread, hp, hs, Bool.not_true, Bool.false_eq_true, if_false]

/-- Settles O23: the re-read runs the doorbell of each value that differs. -/
theorem shadowLine : Obligations.ShadowLine := by
  unfold Obligations.ShadowLine
  intro s r p tail head hr hp g taken
  have hreread := fun hs => (onUnit_next hr _).trans (congrArg Host.Outcome.next (shadowReread_stale hp hs))
  have hparty : ∀ u : State, p < 8 → onUnit (isRing r && isParty (.host p)) u = .next u := fun u hp8 =>
    onUnit_next (by simp [hr, isParty, hp8]) u
  refine ⟨fun hheld => ?_, fun hs ht hh => ?_, fun hs hp8 ht hh => ?_, fun hs hp8 ht hh => ?_⟩
  · exact (onUnit_next hr _).trans (congrArg _ (if_pos hheld))
  · refine (hreread hs).trans (congrArg _ ?_)
    rw [if_neg (by simpa using hh), if_neg (by simpa using ht)]
  · refine ((hreread hs).trans (congrArg _ ?_)).trans (hparty _ hp8).symm
    rw [if_neg (by simpa using hh), if_pos (by simpa using ht)]
  · refine ((hreread hs).trans (congrArg _ ?_)).trans (hparty _ hp8).symm
    rw [if_pos (by simpa using hh), if_neg (by simpa using ht)]

/-! ### Reads and fetches of descriptors -/

/-- A descriptor read goes out when it is allowed to. -/
theorem readIssue_allowed {s : State} {r p : Nat} (hp : ringPart s r = some p) (hon : (ringOf s r).enabled = true) (ha : alive s = true)
    (ho : (ringOf s r).obituary = false) (htap : s.tapHeld = false) (hst : stage s < 3) (hres : s.resetting.contains p = false)
    (h16 : (ringOf s r).reads.length < 16) (htail : (ringOf s r).reads.length < ((ringOf s r).tail - (ringOf s r).fetch).toNat)
    (hcq : ((ringOf s r).fetch + BitVec.ofNat 32 (ringOf s r).reads.length - (ringOf s r).cqh).toNat < ringEntries s r) :
    readIssue r s = setRing s r { ringOf s r with
      reads := (ringOf s r).reads ++ [xlateMem s p .r (sqSlot s r ((ringOf s r).fetch + BitVec.ofNat 32 (ringOf s r).reads.length))] } := by
  simp only [readIssue, hp, hon, ha, ho, htap, hst, hres, h16, htail, hcq, Bool.not_false, decide_true, Bool.and_self, if_true]

/-- The descriptor that a good read returns. -/
def fetched (s : State) (r p : Nat) (bs : List Byte) : Desc :=
  ⟨(ringOf s r).fetch, bs, p, pfld s p Reg.hifWaitLimit 0 16, .waiting, .idle, false, false, false, false, none⟩

/-- The state with the oldest read returned: FETCH past its descriptor, which is in flight. -/
def afterFetch (s : State) (r p : Nat) (bs : List Byte) : State :=
  setRing s r { ringOf s r with
    fetch := (ringOf s r).fetch + 1, reads := (ringOf s r).reads.tail, abortLeft := (ringOf s r).abortLeft - 1
    descs := (ringOf s r).descs ++ [fetched s r p bs] }

/-- A good read's descriptor is aborted, or invalid, or in flight. -/
theorem descFetch_good {s : State} {r p : Nat} {k : Option Nat} {ks : List (Option Nat)} {bs : List Byte} (hp : ringPart s r = some p)
    (hon : (ringOf s r).enabled = true) (ha : alive s = true) (hk : (ringOf s r).reads = k :: ks)
    (hb : issuedRead s p (sqSlot s r (ringOf s r).fetch) k = .ok bs) : descFetch r .good s =
      if (ringOf s r).disabling || decide (0 < (ringOf s r).abortLeft) then endDesc (afterFetch s r p bs) r (fetched s r p bs) St.aborted 0
      else if descInvalid bs then endDesc (afterFetch s r p bs) r (fetched s r p bs) St.descInvalid 0
      else settleAll (afterFetch s r p bs) := by
  have hu := setRing_setRing (g := { ringOf s r with
    fetch := (ringOf s r).fetch + 1, reads := (ringOf s r).reads.tail, abortLeft := (ringOf s r).abortLeft - 1 }) hon s r
  have hgo : ((ringOf s r).reads.isEmpty || !(ringOf s r).enabled || !alive s) = false := by simp [hk, hon, ha]
  have hread : issuedRead s p (sqSlot s r (ringOf s r).fetch) ((ringOf s r).reads.headD none) = .ok bs := by rw [hk]; exact hb
  simp only [descFetch, hp, hgo, hread, Bool.false_eq_true, reduceCtorEq, if_false, ringOf_setRing_same, hu]
  rfl

/-- Settles O24: a read goes out under its conditions, and a good one ends by the ring's state and its header. -/
theorem descriptorReadAndFetch : Obligations.DescriptorReadAndFetch := by
  unfold Obligations.DescriptorReadAndFetch
  intro s r p hr hp hon ha g n
  refine ⟨fun ho htap hst hres h16 htail hcq => ?_, fun k ks bs hk hb => ?_⟩
  · exact (onUnit_next hr _).trans (congrArg _ (readIssue_allowed hp hon ha ho htap hst hres h16 htail hcq))
  · intro d u
    have hu : afterFetch s r p bs = u := by
      have htail : (ringOf s r).reads.tail = ks := congrArg List.tail hk
      rw [afterFetch, htail]
      rfl
    have hfetch := (onUnit_next hr _).trans (congrArg Host.Outcome.next (descFetch_good hp hon ha hk hb))
    rw [hu] at hfetch
    refine ⟨fun hdis hleft hinv => ?_, fun hdis hleft hinv => ?_, fun hkill => ?_⟩
    · refine hfetch.trans (congrArg _ ?_)
      rw [if_neg (by simp [g] at hdis hleft; simp [hdis, hleft]), if_neg (by simp [hinv])]
    · refine hfetch.trans (congrArg _ ?_)
      rw [if_neg (by simp [g] at hdis hleft; simp [hdis, hleft]), if_pos hinv]
      rfl
    · refine hfetch.trans (congrArg _ ?_)
      rw [if_pos (by simpa using hkill)]
      rfl

end Sys2Proof.Machine
end

section
/-! SUPPORT. Completions, vectors, completion records, and enabling and disabling a ring (10 R321 to R324, R331, R333, 01 R22). -/

namespace Sys2Proof.Machine

/-! ### Vectors and timers -/

/-- A vector of a usable link goes out, or its pending bit is set where it is masked (10 R333; log entry 39). -/
theorem raiseVector_usable {s : State} {p sl : Nat} (hl : linkUsable s p = true) (hsl : partSlot s p = some sl) (v : Nat) :
    raiseVector s p v =
      if (slotOf s sl).msixOn && !(slotOf s sl).fmask && (slotOf s sl).clear.contains v then { s with msix := s.msix ++ [(p, v)] }
      else setSlot s sl { slotOf s sl with
        pend := if (slotOf s sl).pend.contains v then (slotOf s sl).pend else (slotOf s sl).pend ++ [v] } := by
  simp only [raiseVector, hl, hsl, Bool.not_true, Bool.false_eq_true, if_false]

theorem modExpiry_due {s : State} {r p : Nat} (hp : ringPart s r = some p) (ha : (ringOf s r).armed = true)
    (hu : 0 < (ringOf s r).unsignalled) (hm : ofld s (Reg.rngCfg + 64 * r) 32 10 ≠ 0) (hl : linkUsable s p = true) :
    modExpiry r s = setRing (raiseVector s p (ofld s (Reg.rngCfg + 64 * r) 16 11)) r
      { ringOf s r with unsignalled := 0, armed := false } := by
  have hdue : ((ringOf s r).armed && decide (0 < (ringOf s r).unsignalled) && ofld s (Reg.rngCfg + 64 * r) 32 10 != 0) = true := by
    simp [ha, hu, hm]
  simp only [modExpiry, hp, hdue, if_true, ringRaise, hl]

theorem waitExpiry_open {s : State} {r : Nat} {seq : BitVec 32} {d : Desc} {w : Nat × BitVec 32} (hd : findDesc s r seq = some d)
    (hw : d.phase = .waiting) (ho : d.waits.find? (fun w => judgeWait s d.part w.1 w.2 == .open) = some w) :
    waitExpiry r seq s = settleAll (completeOne s r d St.dependency (waitDetail w true) false) := by
  simp only [waitExpiry, hd, hw, ho]

theorem nopDescriptor_starts {s : State} {r : Nat} {seq : BitVec 32} {d : Desc} (hd : startable s r seq 0 0 = some d) :
    nopDescriptor r seq s = settleAll (completeOne s r d St.ok 0 false) := by
  simp only [nopDescriptor, hd]

/-- Settles O25: each command takes the branch of its case, and a vector goes by the three masks. -/
theorem nopWaitLimitAndModeration : Obligations.NopWaitLimitAndModeration := by
  unfold Obligations.NopWaitLimitAndModeration
  intro s r seq hr
  have hon : ∀ u : State, onUnit (isRing r) u = .next u := onUnit_next hr
  refine ⟨fun d hd => ?_, fun d w hd hw ho => ?_, fun p hp ha hu hm hl => ?_, fun p v sl hl hsl => ⟨fun hx hf hc => ?_, fun hm => ?_⟩⟩
  · exact (hon _).trans (congrArg _ (nopDescriptor_starts hd))
  · exact (hon _).trans (congrArg _ (waitExpiry_open hd hw ho))
  · exact (hon _).trans (congrArg _ (modExpiry_due hp ha hu hm hl))
  · rw [raiseVector_usable hl hsl, if_pos (by simp only [hx, hf, hc, Bool.not_false, Bool.and_self])]
  · rw [raiseVector_usable hl hsl, if_neg]
    rcases hm with h | h | h <;> simp only [h, Bool.not_true, Bool.and_false, Bool.false_and, Bool.false_eq_true, not_false_iff]

/-! ### Completion records -/

/-- Memory, the descriptors of a ring and its COMP, and every other ring are as before. -/
def KeepsRecords (r : Nat) (s t : State) : Prop :=
  (∀ key, byteAt t key = byteAt s key) ∧ (ringOf t r).descs = (ringOf s r).descs ∧ (ringOf t r).comp = (ringOf s r).comp ∧
    ∀ q, q ≠ r → ringOf t q = ringOf s q

theorem KeepsRecords.trans {r : Nat} {s t u : State} (h : KeepsRecords r s t) (g : KeepsRecords r t u) : KeepsRecords r s u := by
  obtain ⟨h1, h2, h3, h4⟩ := h
  obtain ⟨g1, g2, g3, g4⟩ := g
  exact ⟨fun k => (g1 k).trans (h1 k), g2.trans h2, g3.trans h3, fun q hq => (g4 q hq).trans (h4 q hq)⟩

theorem KeepsRecords.of_eq {r : Nat} {s t : State} (hm : t.mem = s.mem) (hr : t.rings = s.rings) : KeepsRecords r s t := by
  refine ⟨fun key => by rw [byteAt, byteAt, hm], ?_, ?_, fun q _ => ?_⟩ <;> simp only [ringOf, hr]

theorem keepsRecords_setRing {s : State} {r : Nat} {g : Ring} (hd : g.descs = (ringOf s r).descs) (hc : g.comp = (ringOf s r).comp) :
    KeepsRecords r s (setRing s r g) :=
  ⟨fun _ => rfl, by rw [ringOf_setRing_same, hd], by rw [ringOf_setRing_same, hc], fun q hq => ringOf_setRing_other s r q g hq⟩

theorem raiseVector_mem (s : State) (p v : Nat) : (raiseVector s p v).mem = s.mem := by
  unfold raiseVector
  split
  · rfl
  · split
    · rfl
    · dsimp only
      split <;> rfl

theorem keepsRecords_ringPoll (s : State) (r p : Nat) : KeepsRecords r s (ringPoll s r p) := by
  have hraise : KeepsRecords r s (raiseVector s p (ofld s (Reg.rngCfg + 64 * r) 16 11)) :=
    .of_eq (raiseVector_mem _ _ _) (reporting_raiseVector _ _ _).rings
  unfold ringPoll ringRaise
  dsimp only
  split
  · split
    · obtain ⟨_, hd, hc, _⟩ := id hraise
      exact hraise.trans (keepsRecords_setRing hd.symm hc.symm)
    · exact keepsRecords_setRing (by rfl) (by rfl)
  · exact .of_eq rfl rfl

theorem keepsRecords_disableCheck (s : State) (r : Nat) : KeepsRecords r s (disableCheck s r) := by
  unfold disableCheck
  dsimp only
  split
  · exact keepsRecords_setRing (by rfl) (by rfl)
  · exact .of_eq rfl rfl

theorem keepsRecords_releaseTiles (s : State) (r : Nat) (seq : BitVec 32) : KeepsRecords r s (releaseTiles s r seq) := .of_eq rfl rfl

/-- What follows the bytes of a record: the descriptor leaves its ring, COMP moves on, and the rest of the rings is as before. -/
theorem writeRecord_spec {s u : State} {r : Nat} {d : Desc} {st : BitVec 16} {detail : Nat} {errec : Bool}
    (h : writeRecord s r d st detail errec = some u) : ∃ v, writeVa s d.part (cqSlot s r)
        (cqBytes r d st detail (stamp s (18 + partPdie s d.part)) ((ringOf s r).comp.toNat / ringEntries s r % 2 == 0) errec) = .ok v ∧
      KeepsRecords r (setRing v r { (ringOf s r).retire d st with comp := (ringOf s r).comp + 1 }) u := by
  unfold writeRecord at h
  dsimp only at h
  split at h
  · cases h
  · next v hv =>
    refine ⟨v, hv, ?_⟩
    rw [← Option.some.inj h]
    refine KeepsRecords.trans (keepsRecords_releaseTiles _ r d.seq) (KeepsRecords.trans ?_ (keepsRecords_disableCheck _ r))
    split
    · exact (keepsRecords_setRing (by rfl) (by rfl)).trans (keepsRecords_ringPoll _ r _)
    · exact .of_eq rfl rfl

/-- Settles O26, by what follows the bytes of a record. -/
theorem completionRecordWritten : Obligations.CompletionRecordWritten := by
  unfold Obligations.CompletionRecordWritten
  intro s u r d st detail errec h
  obtain ⟨v, hv, hbytes, hdescs, hcomp, hrings⟩ := writeRecord_spec h
  have hvr : v.rings = s.rings := (reporting_writeVia _ _ _ _ _ _ hv).rings
  rw [ringOf_setRing_same] at hdescs hcomp
  refine ⟨hcomp, fun x hx => ?_, fun q hq => ?_, v, hv, hbytes⟩
  · rw [hdescs] at hx
    simpa using (List.mem_filter.1 hx).2
  · rw [hrings q hq, ringOf_setRing_other _ _ _ _ hq, ringOf, ringOf, hvr]

/-! ### Enable and disable -/

section
variable {s : State} {view r : Nat} {v : Word} (ha : alive s = true) (hreg : (regAt s view (Reg.rngCfg + 64 * r)).isSome = true)
include ha hreg

/-- An enable of a disabled ring stores the fields, and sets the ring up where its set-up is right (10 R323). -/
theorem ringEnable_disabled {p : Nat} (hp : ringPart s r = some p) (hv : bitAt v.toNat 8 = true) (hoff : (ringOf s r).enabled = false) :
    ringEnable view r v s =
      let s1 := storeWord s view (Reg.rngCfg + 64 * r) v.toNat
      if !partReady s p || (ringOf s r).obituary || fieldOf v.toNat 0 5 < 4 || 16 < fieldOf v.toNat 0 5 then s1
      else settleAll (setRing s1 r (ringOf s1 r).enable) := by
  obtain ⟨y, hy⟩ := Option.isSome_iff_exists.1 hreg
  simp only [ringEnable, hv, ha, hy, hoff, hp, Bool.not_true, Bool.or_self, Bool.false_eq_true, if_false]

/-- A disable of an enabled ring aborts what lies before TAIL; of a disabled one it stores the fields (10 R324). -/
theorem ringDisable_eq (hv : bitAt v.toNat 8 = false) : ringDisable view r v s =
    if (ringOf s r).enabled then disableCheck (abortBefore
      (setRing (setRfld s (okey (Reg.rngCfg + 64 * r)) 8 1 0) r { ringOf s r with disabling := true }) r (ringOf s r).tail) r
    else storeWord s view (Reg.rngCfg + 64 * r) v.toNat := by
  obtain ⟨y, hy⟩ := Option.isSome_iff_exists.1 hreg
  simp only [ringDisable, hv, ha, hy, Bool.not_true, Bool.or_self, Bool.false_eq_true, if_false, Bool.not_eq_true']
  cases (ringOf s r).enabled <;> rfl

end

/-- Settles O27: the enable by its set-up checks, the disable by the ring's state. -/
theorem ringEnableAndDisable : Obligations.RingEnableAndDisable := by
  unfold Obligations.RingEnableAndDisable
  intro s view r p v hr hview ha hreg hp s1
  have hon : ∀ u : State, onUnit (isRing r && decide (view ≤ 8)) u = .next u := onUnit_next (by simp [hr, hview])
  refine ⟨fun hv hoff hready hobit h4 h16 => ?_, fun hv hoff hsize => ?_, fun hv hen => ?_, fun hv hoff => ?_⟩
  · refine (hon _).trans (congrArg _ ((ringEnable_disabled ha hreg hp hv hoff).trans (if_neg ?_)))
    simp [hready, hobit, h4, h16]
  · refine (hon _).trans (congrArg _ ((ringEnable_disabled ha hreg hp hv hoff).trans (if_pos ?_)))
    rcases hsize with h | h <;> simp [h]
  · exact (hon _).trans (congrArg _ ((ringDisable_eq ha hreg hv).trans (if_pos hen)))
  · exact (hon _).trans (congrArg _ ((ringDisable_eq ha hreg hv).trans (if_neg (by simp [hoff]))))

end Sys2Proof.Machine
end

section
/-! SUPPORT. Host attachment, partition reset and register writes (10 R302 to R312, R340, 13 R434, 15 R494, 17 R545 to R555). -/

namespace Sys2Proof.Machine

/-! ### Stored register words -/

theorem storeWord_at {s : State} {view off : Nat} {row : RegRow} {key : Nat} (hr : regAt s view off = some (row, key))
    (hb : actionBusy s row off key = false) (v : Nat) :
    storeWord s view off v =
      let rw := if s.locked then row.rw &&& (2 ^ 64 - 1 - row.lock) else row.rw
      if row.shadow then setShadow s key (mergeWrite (shadowReg s key) rw 0 v)
      else setReg s key (taken s off key (mergeWrite (reg s key) rw row.w1c v)) := by
  simp only [storeWord, hr, hb, Bool.false_eq_true, if_false]

@[simp] theorem shadowReg_setShadow_same (s : State) (k v : Nat) : shadowReg (setShadow s k v) k = v % 2 ^ 64 := by
  simp [shadowReg, setShadow]

theorem shadowReg_setShadow_other (s : State) (k i v : Nat) (h : i ≠ k) : shadowReg (setShadow s k v) i = shadowReg s i := by
  simp only [shadowReg, setShadow, sget_sset_other _ _ _ _ _ h]

/-- Settles O34: the word goes to its shadow or to the live file, and a register file's other words are untouched. -/
theorem storedWordAlone : Obligations.StoredWordAlone := by
  unfold Obligations.StoredWordAlone
  intro s view off v row key hr hb t rw
  have ht : t = _ := storeWord_at hr hb v
  refine ⟨fun hs => ?_, fun hs => ?_⟩
  · rw [hs] at ht
    rw [ht]
    exact ⟨rfl, reg_setReg_same _ _ _, fun k hk => reg_setReg_other _ _ _ _ hk⟩
  · rw [hs] at ht
    rw [ht]
    exact ⟨rfl, shadowReg_setShadow_same _ _ _, fun k hk => shadowReg_setShadow_other _ _ _ _ hk⟩

/-! ### Host memory windows and the HBM window -/

theorem hmwWrite_alive {s : State} (ha : alive s = true) (p n word : Nat) (v : Word) :
    hmwWrite p n word v s =
      let s1 := storeWord s p (Reg.hifHmw + 16 * n + 8 * word) v.toNat
      let k := pkey p (Reg.hifHmw + 16 * n)
      if rfld s1 k 0 1 = 1 && hmwClash s1 p n then setRfld s k 0 1 0 else s1 := by
  simp only [hmwWrite, ha, Bool.not_true, Bool.false_eq_true, if_false]

/-- Settles O28: the word is stored unless the window is then valid and clashes. -/
theorem hostMemoryWindowWrite : Obligations.HostMemoryWindowWrite := by
  unfold Obligations.HostMemoryWindowWrite
  intro s p n word v hp hn hw ha s1 k
  have hexec : exec (.hmwWrite p n word v) s = .next (if rfld s1 k 0 1 = 1 && hmwClash s1 p n then setRfld s k 0 1 0 else s1) :=
    (onUnit_next (by simp only [hp, hn, hw, decide_true, Bool.and_self]) _).trans (congrArg _ (hmwWrite_alive ha p n word v))
  refine ⟨fun h => ?_, fun hv hc => ?_⟩
  · rw [hexec, if_neg]
    rcases h with h | h <;> simp [h]
  · rw [hexec, if_pos (by simp [hv, hc])]

section
variable {s : State} {p sl n off len : Nat} {write : Bool} {data : List Byte}

/-- An access of a slot's window by a host whose link is usable is beyond the window, beyond the region or within it. -/
theorem hostWindowAccess_usable (hsl : partSlot s p = some sl) (hn : slotRegion s sl = some n) (hl : linkUsable s p = true)
    (ha : alive s = true) :
    hostWindowAccess p write off len data s =
      let span := len.max (if write then data.length else 0)
      let units := fieldOf (regionWord s n) 32 13
      let tr : Nat → Option Nat := fun a => some (regionKey s n (fieldOf (regionWord s n) 16 13 * 0x4000000 + a))
      if windowUnits (slotCxl s sl) units * 0x4000000 < off + span then s
      else if !(bitAt (regionWord s n) 0 && holdsRegion s p n) || units * 0x4000000 < off + span then
        windowMiss s p off len (slotCxl s sl) write
      else if write then
        match writeVia s tr off data (some (8 + sl / 4)) with
        | .ok u => u
        | .error e => windowFail s p off len write e
      else match readVia s tr off len (some (8 + sl / 4)) with
        | .ok bs => { s with hostReply := bs }
        | .error e => windowFail s p off len write e := by
  simp only [hostWindowAccess, hsl, hn, hl, ha, Bool.not_true, Bool.false_or, decide_eq_true_eq] <;> rfl

theorem hostWindowAccess_unusable (h : linkUsable s p = false ∨ alive s = false ∨ ∀ sl, partSlot s p = some sl → slotRegion s sl = none) :
    hostWindowAccess p write off len data s = s := by
  unfold hostWindowAccess
  cases hsl : partSlot s p with
  | none => rfl
  | some sl =>
    cases hn : slotRegion s sl with
    | none => simp only [hn]
    | some n =>
      rcases h with h | h | h
      · simp only [hn, h, Bool.not_false, Bool.true_or, if_true]
      · simp only [hn, h, Bool.not_false, Bool.true_or, Bool.or_true, if_true]
      · rw [h sl hsl] at hn
        cases hn

end

/-- Settles O29: the access is within its region, beyond it, beyond the window, or made without slot, region or link. -/
theorem hostWindowAccess_holds : Obligations.HostWindowAccess := by
  unfold Obligations.HostWindowAccess
  intro s p off len write data hp
  have hon : ∀ u : State, onUnit (decide (p < 8)) u = .next u := onUnit_next (decide_eq_true hp)
  refine ⟨fun sl n hsl hn hl ha => ?_, fun h => (hon _).trans (congrArg _ (hostWindowAccess_unusable h))⟩
  intro span size window tr
  have hexec : exec (.hostWindowAccess p write off len data) s = _ :=
    (hon _).trans (congrArg _ (hostWindowAccess_usable hsl hn hl ha))
  refine ⟨fun hw hz hb hh => ?_, fun hw hmiss => ?_, fun hw => ?_⟩
  · have hin : (!(bitAt (regionWord s n) 0 && holdsRegion s p n) || decide (size < off + span)) = false := by
      simp [hb, hh, Nat.not_lt.2 hz]
    have hmem := hexec.trans (congrArg _ ((if_neg (Nat.not_lt.2 hw)).trans (if_neg (by rw [hin]; exact Bool.false_ne_true))))
    refine ⟨fun hr => ?_, fun hr => ⟨?_, fun u hu => ?_⟩⟩
    · subst hr
      exact hmem
    · subst hr
      exact hmem
    · obtain ⟨h1, -, h3⟩ := writeVia_spec _ _ _ _ _ _ hu
      exact ⟨h1, h3⟩
  · have hout : (!(bitAt (regionWord s n) 0 && holdsRegion s p n) || decide (size < off + span)) = true := by
      rcases hmiss with h | h | h <;> simp [h]
    exact hexec.trans (congrArg _ ((if_neg (Nat.not_lt.2 hw)).trans (if_pos hout)))
  · exact hexec.trans (congrArg _ (if_pos hw))

/-! ### Links -/

theorem pcieLinkUp_trains {s : State} {sl p width speed : Nat} (hsl : slotPart s sl = some p) (hperst : (slotOf s sl).perst = false)
    (hup : (slotOf s sl).up = false) (hp : partValid s p = true) (ha : alive s = true) (ht : s.tapHeld = false) (hb : s.boot = .done)
    (hpow : slotPowered s sl = true)
    (hw : [1, 2, 4, 8].contains width = true ∨ (width = 16 ∧ bitAt (reg s (okey (Reg.hifPortCfg + 8 * (sl / 2)))) 0 = false))
    (h1 : 1 ≤ speed) (h6 : speed ≤ 6) :
    pcieLinkUp sl width speed s =
      linkStatus (setSlot s sl { slotOf s sl with up := true, width := width, speed := speed, d3hot := false }) p sl := by
  have hlanes : ([1, 2, 4, 8, 16].contains width &&
      decide (width ≤ if bitAt (reg s (okey (Reg.hifPortCfg + 8 * (sl / 2)))) 0 = true then 8 else 16)) = true := by
    rcases hw with hw | ⟨rfl, hw⟩
    · have hle : width ∈ [1, 2, 4, 8] := List.contains_iff_mem.1 hw
      simp only [List.mem_cons, List.not_mem_nil, or_false] at hle
      rcases hle with rfl | rfl | rfl | rfl <;> split <;> rfl
    · simp [hw]
  obtain ⟨hlist, hmost⟩ := Bool.and_eq_true_iff.1 hlanes
  simp only [pcieLinkUp, hsl]
  refine if_neg ?_
  simp only [hperst, hup, hp, ha, ht, hb, hpow, hlist, Nat.not_lt.2 (of_decide_eq_true hmost), Nat.not_lt.2 h6, Nat.ne_of_gt h1,
    bne_self_eq_false, Bool.not_true, Bool.or_false, decide_false, Bool.false_eq_true, not_false_iff]

/-- A link event resets the slot's partition where that is VALID and the package runs. -/
theorem resetBySlot_valid {s : State} {sl p : Nat} (hsl : slotPart s sl = some p) (hp : partValid s p = true) (ha : alive s = true) :
    resetBySlot s sl = partitionReset s p := by
  simp only [resetBySlot, hsl, hp, ha, Bool.and_self, if_true]

theorem resetBySlot_setSlot {s : State} {sl p : Nat} (hsl : slotPart s sl = some p) (hp : partValid s p = true) (ha : alive s = true) (x : Slot) :
    resetBySlot (setSlot s sl x) sl = partitionReset (setSlot s sl x) p :=
  resetBySlot_valid (s := setSlot s sl x) hsl hp ha

theorem functionReset_up {s : State} {sl p : Nat} (hup : (slotOf s sl).up = true) (hsl : slotPart s sl = some p) (hp : partValid s p = true)
    (ha : alive s = true) : functionReset sl s = partitionReset (setSlot s sl (slotOf s sl).fresh) p :=
  (if_pos hup).trans (resetBySlot_setSlot hsl hp ha _)

theorem d3hotEntry_up {s : State} {sl p : Nat} (hup : (slotOf s sl).up = true) (hd : (slotOf s sl).d3hot = false) (hsl : slotPart s sl = some p)
    (hp : partValid s p = true) (ha : alive s = true) :
    d3hotEntry sl s = partitionReset (setSlot s sl { slotOf s sl with d3hot := true }) p :=
  (if_pos (by rw [hup, hd]; rfl)).trans (resetBySlot_setSlot hsl hp ha _)

theorem slotDown_up {s : State} {sl p : Nat} (hup : (slotOf s sl).up = true) (hsl : slotPart s sl = some p) :
    slotDown sl s = resetBySlot
      (setRfld (linkStatus (setSlot s sl { Slot.init with perst := (slotOf s sl).perst }) p sl) (pkey p Reg.hifPartStatus) 1 1 1) sl := by
  have hsl' : slotPart (setSlot s sl { Slot.init with perst := (slotOf s sl).perst }) sl = some p := hsl
  simp only [slotDown, hup, hsl', Bool.not_true, Bool.false_eq_true, if_false]

/-- Settles O30: each link event takes the branch of a slot whose partition is VALID. -/
theorem hostLinkEvents : Obligations.HostLinkEvents := by
  unfold Obligations.HostLinkEvents
  intro s sl p hlt x
  have hon : ∀ u : State, onUnit (decide (sl < 8)) u = .next u := onUnit_next (decide_eq_true hlt)
  refine ⟨hon _, fun width speed hsl hperst hup hp ha ht hb hpow hw h1 h6 =>
      (hon _).trans (congrArg _ (pcieLinkUp_trains hsl hperst hup hp ha ht hb hpow hw h1 h6)), fun hup hsl hp ha => ⟨?_, ?_, fun hd => ?_, ?_⟩⟩
  · exact (hon _).trans (congrArg _ (functionReset_up hup hsl hp ha))
  · exact (hon _).trans (congrArg _ (functionReset_up hup hsl hp ha))
  · exact (hon _).trans (congrArg _ (d3hotEntry_up hup hd hsl hp ha))
  · exact (hon _).trans (congrArg _ (slotDown_up hup hsl))

/-! ### Partition reset and the reduction signature -/

theorem detSignatureRead_allowed {s : State} {view p : Nat} (hv : view = p ∨ view = 8) (ha : alive s = true) :
    detSignatureRead view p s = { s with hostReply := leBytes 8 (detSignature s p) } := by
  have hv' : (decide (view = p) || decide (view = 8)) = true := by simpa using hv
  simp only [detSignatureRead, hv', ha, Bool.and_self, if_true]

/-- Settles O35: the read is allowed from either view. -/
theorem signatureRead : Obligations.SignatureRead := by
  unfold Obligations.SignatureRead
  intro s view p hp hv ha
  exact (onUnit_next (decide_eq_true hp) _).trans (congrArg _ (detSignatureRead_allowed hv ha))

theorem partReset_valid {s s1 : State} {view p : Nat} {v : Word} (ha : alive s = true) (hv : bitAt v.toNat 1 = true)
    (hw : actionWrite s view (Reg.prtPartCfg + 0x40 * p) v = some s1) (hp : partValid s1 p = true) :
    partReset view p v s = partitionReset (setRfld s1 (okey (Reg.prtPartCfg + 0x40 * p)) 1 1 1) p := by
  simp only [partReset, hv, ha, hw, hp, Bool.not_true, Bool.or_self, Bool.false_eq_true, if_false, if_true]

theorem fieldOf_setFieldOf_same (v lo len x : Nat) : fieldOf (setFieldOf v lo len x) lo len = x % 2 ^ len := by
  apply Nat.eq_of_testBit_eq
  intro j
  rw [testBit_fieldOf, testBit_setFieldOf, Nat.testBit_mod_two_pow]
  by_cases hj : j < len
  · rw [if_pos (by omega), Nat.add_sub_cancel_left]
  · simp only [hj, decide_false, Bool.false_and]

theorem rfld_setRfld_same (s : State) (k lo len v : Nat) (h : lo + len ≤ 64) : rfld (setRfld s k lo len v) k lo len = v % 2 ^ len := by
  rw [rfld, setRfld, reg_setReg_same, fieldOf_mod _ _ _ _ h, fieldOf_setFieldOf_same]

theorem rfld_setRfld_other (s : State) (k i lo len v a n : Nat) (h : i ≠ k) : rfld (setRfld s k lo len v) i a n = rfld s i a n := by
  rw [rfld, setRfld, reg_setReg_other _ _ _ _ h, rfld]

theorem setRfld_eq (s : State) (k lo len v : Nat) : setRfld s k lo len v = { s with regs := (setRfld s k lo len v).regs } := rfl

theorem bitAt_eq_field (w i : Nat) : bitAt w i = (fieldOf w i 1 == 1) := rfl

/-- A partition's configuration word and the words of a partition's own view have different keys. -/
theorem okey_partCfg_ne_pkey {p : Nat} (hp : p < 8) (q off : Nat) : okey (Reg.prtPartCfg + 0x40 * p) ≠ pkey q off := by
  have hlt : okey (Reg.prtPartCfg + 0x40 * p) < 2 ^ 24 := by
    simp only [okey, Reg.prtPartCfg]
    omega
  have hge : 2 ^ 24 ≤ pkey q off := by
    simp only [pkey]
    omega
  exact (hlt.trans_le hge).ne

theorem contains_filter_ne (l : List Nat) (p q : Nat) : (l.filter (· != p)).contains q = (l.contains q && q != p) := by
  rw [Bool.eq_iff_iff]
  simp

/-- The state in which a partition's reset has ended. -/
def resetEnded (s : State) (p : Nat) : State :=
  setRfld (setRfld { s with resetting := s.resetting.filter (· != p) } (okey (Reg.prtPartCfg + 0x40 * p)) 1 1 0)
    (pkey p Reg.hifPartStatus) 0 1 (b2n (partValid s p))

theorem partitionResetEnd_zeroed {s : State} {p : Nat} (ha : alive s = true) (hr : s.resetting.contains p = true)
    (hz : ∀ g, g < 168 → holdsGroup s p g = true → (groupOf s g).zeroing = false) : partitionResetEnd p s = resetEnded s p := by
  have hall : (partGroups s p).all (fun g => !(groupOf s g).zeroing) = true := by
    rw [List.all_eq_true]
    intro g hg
    obtain ⟨hlt, hheld⟩ := List.mem_filter.1 hg
    rw [hz g (List.mem_range.1 hlt) hheld]
    rfl
  exact if_pos (by rw [hr, hall, ha]; rfl)

theorem resetEnded_eq (s : State) (p : Nat) :
    resetEnded s p = { s with resetting := s.resetting.filter (· != p), regs := (resetEnded s p).regs } := rfl

theorem resetting_resetEnded (s : State) (p : Nat) : (resetEnded s p).resetting = s.resetting.filter (· != p) := rfl

theorem partReady_resetEnded (s : State) (p : Nat) : partReady (resetEnded s p) p = partValid s p := by
  have hfld : rfld (resetEnded s p) (pkey p Reg.hifPartStatus) 0 1 = b2n (partValid s p) % 2 ^ 1 := rfld_setRfld_same _ _ _ _ _ (by decide)
  rw [partReady, bitAt_eq_field]
  change (rfld (resetEnded s p) (pkey p Reg.hifPartStatus) 0 1 == 1) = _
  rw [hfld]
  cases partValid s p <;> rfl

theorem reset_resetEnded {p : Nat} (hp : p < 8) (s : State) : ofld (resetEnded s p) (Reg.prtPartCfg + 0x40 * p) 1 1 = 0 :=
  (rfld_setRfld_other _ _ _ _ _ _ _ _ (okey_partCfg_ne_pkey hp _ _)).trans (rfld_setRfld_same _ _ _ _ _ (by decide))

/-- Settles O31: the start resets the partition whose RESET is set, the end writes RESET and READY and forgets the reset. -/
theorem partitionResetStartAndEnd : Obligations.PartitionResetStartAndEnd := by
  unfold Obligations.PartitionResetStartAndEnd
  intro s p hp ha
  have hon : ∀ u : State, onUnit (decide (p < 8)) u = .next u := onUnit_next (decide_eq_true hp)
  refine ⟨fun view v s1 hv hw hval => (hon _).trans (congrArg _ (partReset_valid ha hv hw hval)), fun hr hz => ?_⟩
  refine ⟨resetEnded s p, (hon _).trans (congrArg _ (partitionResetEnd_zeroed ha hr hz)), resetEnded_eq s p, ?_, fun q hq => ?_,
    partReady_resetEnded s p, reset_resetEnded hp s⟩
  · rw [resetting_resetEnded, contains_filter_ne]
    simp
  · rw [resetting_resetEnded, contains_filter_ne]
    simp [hq]

/-! ### Register writes -/

section
variable {s : State} {who : Party} {view off size : Nat} {v : Word}

/-- What keeps a write from storing a register word is one of the reasons of 17 R547 and R550 to R555. -/
def writeIgnored (s : State) (who : Party) (view off size : Nat) (v : Word) : Bool :=
  let base := off / 8 * 8
  !viewAllowed s who view || !(size = 4 || size = 8) || off % size != 0 || ownRow base || (isRingWord base 0x10 && off % 8 == 0) ||
    ringLocked s off || !alive s || setsAction s view base (widenWrite s view off size v.toNat)

theorem registerWrite_ignored (h : writeIgnored s who view off size v = true) : registerWrite who view off size v s = s := if_pos h

theorem registerWrite_stores (h : writeIgnored s who view off size v = false) (hv : view ≤ 8) :
    registerWrite who view off size v s =
      let base := off / 8 * 8
      let w := widenWrite s view off size v.toNat
      let s1 := storeWord s view base w
      if base = Reg.errRing + 8 then errRingEnable s1 view (bitAt (reg s (pkey view base)) 9)
      else if base = Reg.tmbCtrl then ppsEnable s1 (ofld s Reg.tmbCtrl 4 1 == 1)
      else if isRingWord base 0x28 = true then dbErrClear s1 ((base - Reg.rngSqBase) / 64) (regAt s view base).isSome w
      else s1 := by
  have hstore : registerWrite who view off size v s = _ := if_neg (by rw [Bool.not_eq_true]; exact h)
  refine hstore.trans ?_
  by_cases he : off / 8 * 8 = Reg.errRing + 8
  · simp only [he, beq_self_eq_true, hv, decide_true, Bool.and_self, Bool.true_and, if_true]
  · simp only [he, beq_eq_false_iff_ne.2 he, Bool.false_and, Bool.false_eq_true, if_false]

theorem writeIgnored_eq_false : writeIgnored s who view off size v = false ↔
    viewAllowed s who view = true ∧ (size = 4 ∨ size = 8) ∧ off % size = 0 ∧ ownRow (off / 8 * 8) = false ∧
      (isRingWord (off / 8 * 8) 0x10 = false ∨ off % 8 ≠ 0) ∧ ringLocked s off = false ∧ alive s = true ∧
      setsAction s view (off / 8 * 8) (widenWrite s view off size v.toNat) = false := by
  simp only [writeIgnored, Bool.or_eq_false_iff, Bool.not_eq_false', Bool.or_eq_true, decide_eq_true_eq, bne_eq_false_iff_eq,
    Bool.and_eq_false_iff, beq_eq_false_iff_ne, and_assoc, ne_eq]

theorem writeIgnored_eq_true : writeIgnored s who view off size v = true ↔
    viewAllowed s who view = false ∨ (size ≠ 4 ∧ size ≠ 8) ∨ off % size ≠ 0 ∨ ownRow (off / 8 * 8) = true ∨
      (isRingWord (off / 8 * 8) 0x10 = true ∧ off % 8 = 0) ∨ ringLocked s off = true ∨ alive s = false ∨
      setsAction s view (off / 8 * 8) (widenWrite s view off size v.toNat) = true := by
  simp only [writeIgnored, Bool.or_eq_true, Bool.not_eq_true', Bool.or_eq_false_iff, decide_eq_false_iff_not, bne_iff_ne,
    Bool.and_eq_true, beq_iff_eq, or_assoc, ne_eq]

end

theorem alignTo_pos {size : Nat} (h : size ≠ 0) (v : Nat) : alignTo size v = v / size * size := if_neg h

section
variable {s : State} {who : Party} {sl off p : Nat}

/-- A host's own function whose link is up takes the write that the place names. -/
theorem functionWrite_own (hwho : who = .host p) (hsl : slotPart s sl = some p) (hup : (slotOf s sl).up = true) (v : Word) :
    functionWrite who sl off v s =
      let x := slotOf s sl
      if off = Fn.bar0 then setSlot s sl { x with bar0 := v.toNat / 0x4000000 * 0x4000000 }
      else if off = Fn.bar2 then setSlot s sl { x with bar2 := v.toNat / 0x1000000 * 0x1000000 }
      else if off = Fn.bar4 then setSlot s sl { x with bar4 := alignTo (barSize s sl 4) v.toNat }
      else if off = Fn.power then (if fieldOf v.toNat 0 2 = 0 then setSlot s sl { x with d3hot := false } else s)
      else if off = Fn.msix then fireVectors (setSlot s sl { x with msixOn := bitAt v.toNat 15, fmask := bitAt v.toNat 14 }) sl
      else if off = Fn.aer then setSlot s sl { x with aer := x.aer &&& (2 ^ 64 - 1 - v.toNat) }
      else if off = Fn.hdm then (if x.hdmOn = true ∨ slotCxl s sl = false then s
        else setSlot s sl { x with hdm := v.toNat / 0x10000000 * 0x10000000, hdmOn := bitAt v.toNat 0 })
      else if Fn.vectors ≤ off ∧ off < Fn.vectors + 8 * 2048 ∧ off % 8 = 0 then
        fireVectors (setSlot s sl { x with clear := x.clear.filter (· != (off - Fn.vectors) / 8) ++
          (if bitAt v.toNat 0 = true then [] else [(off - Fn.vectors) / 8]) }) sl
      else s := by
  have hb0 : barSize s sl 0 = 0x4000000 := by simp only [barSize]
  have hb2 : barSize s sl 2 = 0x1000000 := by simp only [barSize]
  have hclear : ∀ (b : Bool) (l : List Nat) (i : Nat), (if b = true then l else l ++ [i]) = l ++ (if b = true then [] else [i]) := by
    intro b l i
    cases b
    · rfl
    · exact (List.append_nil l).symm
  subst hwho
  simp only [functionWrite, hsl, hup, hb0, hb2, hclear, bne_self_eq_false, Bool.not_true, Bool.or_self, Bool.false_eq_true, if_false,
    alignTo_pos (show (0x4000000 : Nat) ≠ 0 by decide), alignTo_pos (show (0x1000000 : Nat) ≠ 0 by decide),
    alignTo_pos (show (0x10000000 : Nat) ≠ 0 by decide), Bool.or_eq_true, Bool.not_eq_true']

theorem functionWrite_ignored (h : (¬ ∃ p, who = .host p ∧ slotPart s sl = some p) ∨ (slotOf s sl).up = false) (v : Word) :
    functionWrite who sl off v s = s := by
  refine if_pos ?_
  rcases h with h | h
  · rw [Bool.or_eq_true]
    refine .inl ?_
    split
    · next p q hq =>
      rw [bne_iff_ne]
      rintro rfl
      exact h ⟨_, rfl, hq⟩
    · rfl
  · rw [h]
    exact Bool.or_true _

end

/-- Settles O33: a write through a view is ignored for one of the reasons listed or stores its word, and a write to a function's own
registers acts by its place. -/
theorem registerWriteStoresOrIsIgnored : Obligations.RegisterWriteStoresOrIsIgnored := by
  unfold Obligations.RegisterWriteStoresOrIsIgnored
  refine ⟨fun s who view off size v hv => ?_, fun s who sl off size v hsl => ?_⟩
  · intro base w s1
    have hexec : exec (.registerWrite who view off size v) s = .next (registerWrite who view off size v s) :=
      (onUnit_next (by simp only [hv, decide_true, Bool.true_or]) _).trans (congrArg _ (if_neg (by omega)))
    rw [hexec]
    refine ⟨fun ha hs hal ho hr hl hal' hact => ?_, fun h => ?_⟩
    · exact congrArg _ (registerWrite_stores (writeIgnored_eq_false.2 ⟨ha, hs, hal, ho, hr, hl, hal', hact⟩) hv)
    · exact congrArg _ (registerWrite_ignored (writeIgnored_eq_true.2 h))
  · intro x own
    have hexec : exec (.registerWrite who (16 + sl) off size v) s = .next (functionWrite who sl off v s) := by
      refine (onUnit_next (by simp only [Nat.le_add_right, decide_true, Bool.true_and, Bool.or_eq_true, decide_eq_true_eq]; omega) _).trans
        (congrArg _ ((if_pos (by omega)).trans ?_))
      rw [Nat.add_sub_cancel_left]
    rw [hexec]
    refine ⟨fun ⟨p, hwho, hp⟩ hup => congrArg _ (functionWrite_own hwho hp hup v), fun h => congrArg _ (functionWrite_ignored h v)⟩

end Sys2Proof.Machine
end

section
/-! SUPPORT. Tile commands: the sequencer, the matrix, vector and DMA queues, and the end of a stream (03 R61 to R99, 04 R104 to R128). -/

namespace Sys2Proof.Machine

/-! ### A tile whose command dispatches -/

theorem ne_init_of_running {x : Tile} {q : Nat × BitVec 32} (h : x.running = some q) : x ≠ Tile.init := by
  rintro rfl
  cases h

/-- Of two writes of one tile the second stands, where the first is not the default that the map leaves out. -/
theorem setTile_setTile {x : Tile} (hx : x ≠ Tile.init) (s : State) (t : Nat) (y : Tile) : setTile (setTile s t x) t y = setTile s t y := by
  have h : sset (fun _ => Tile.init) (sset (fun _ => Tile.init) s.tiles t x) t y = sset (fun _ => Tile.init) s.tiles t y := sset_sset hx s.tiles y
  simp only [setTile, h]

/-- Fetching fills the burst and the loop buffer alone. -/
theorem fetch_eq (s : State) (t : Nat) (d : Desc) (x : Tile) :
    (x.fetch s t d).1 = { x with burst := (x.fetch s t d).1.burst, loops := (x.fetch s t d).1.loops } := by
  unfold Tile.fetch
  split
  · rfl
  · dsimp only
    split <;> split <;> rfl

theorem loops_length_fetch (s : State) (t : Nat) (d : Desc) (x : Tile) : (x.fetch s t d).1.loops.length = x.loops.length := by
  unfold Tile.fetch
  split
  · rfl
  · dsimp only
    split <;> split <;> simp

theorem onward_running (x : Tile) : x.onward.running = x.running := rfl

section
variable {s : State} {t r : Nat} {d : Desc} {x : Tile} {b : List Byte}

theorem Dispatches.tile (h : Dispatches s t r d x b) : x = { tileOf s t with burst := x.burst, loops := x.loops } := by
  obtain ⟨-, -, -, -, -, -, -, hf, -, -⟩ := h
  have hx : ((tileOf s t).fetch s t d).1 = x := congrArg Prod.fst hf
  rw [← hx]
  exact fetch_eq s t d (tileOf s t)

theorem Dispatches.running (h : Dispatches s t r d x b) : x.running = some (r, d.seq) := by
  rw [h.tile]
  exact h.2.1

theorem Dispatches.ne_init (h : Dispatches s t r d x b) : x ≠ Tile.init := ne_init_of_running h.running

theorem Dispatches.on (h : Dispatches s t r d x b) : isTile t = true := h.1

/-- The command that dispatches runs on the state with it fetched. -/
theorem Dispatches.runs (h : Dispatches s t r d x b) {op : Nat} (ho : tileOp b = op) (k : State → Nat → Desc → List Byte → State) :
    withCommand s t op k = k (setTile s t x) r d b := (withCommand_spec h op k).trans (if_pos ho)

end

/-- A tile with a next command moves on to it. -/
theorem advance_setTile {y : Tile} (hy : y ≠ Tile.init) {n : Nat} (hm : y.onward.pos < n) (s : State) (t : Nat) :
    advance (setTile s t y) t n = setTile s t y.onward := by
  simp only [advance, tileOf_setTile_same, setTile_setTile hy]
  exact if_neg (Nat.not_le.2 hm)

/-- A valid sequencer command changes the tile, and dispatch goes on. -/
theorem seqCommand_valid {x y : Tile} (hx : x ≠ Tile.init) {d : Desc} {valid : Bool} (hv : valid = true) {f : Tile → Tile} (hf : f x = y)
    (hy : y ≠ Tile.init) (hm : y.more d) (s : State) (t : Nat) : seqCommand (setTile s t x) t d valid f = setTile s t y.onward := by
  simp only [seqCommand, hv, Bool.not_true, Bool.false_eq_true, if_false, tileOf_setTile_same, setTile_setTile hx, hf]
  exact advance_setTile hy hm s t

/-! ### The sequencer -/

theorem tileWork_starts {s : State} {r : Nat} {seq : BitVec 32} {d : Desc} (hd : startable s r seq 1 0 = some d)
    (hm : d.fld 20 21 &&& groupMask s d.part = d.fld 20 21) (hf : groupsFenced s (d.fld 20 21) = false)
    (hi : groupsIdle s (d.fld 20 21) = true) (hfirst : firstReady s r seq (fun e => descGroups e &&& d.fld 20 21 != 0) = true)
    (hl : (maskGroups (d.fld 20 21)).all (fun g => (groupOf s g).lost.isEmpty) = true) :
    tileWork r seq s = startTiles (startWork s r d (.tile [])) r seq (tileParam d) 0 (maskTiles (d.fld 20 21)) := by
  have hlost : (maskGroups (d.fld 20 21)).any (fun g => !(groupOf s g).lost.isEmpty) = false := by
    rw [← Bool.not_eq_true', ← hl, List.not_any_eq_all_not]
    simp only [Bool.not_not]
  simp only [tileWork, hd, hm, hf, hi, hfirst, hlost, bne_self_eq_false, Bool.and_self, Bool.not_true, Bool.false_eq_true, if_false]

section
variable {s : State} {t r : Nat} {d : Desc} {x : Tile} {b : List Byte} (hd : Dispatches s t r d x b)
include hd

theorem tileNop_dispatches (ho : tileOp b = 0x00) (hz : reservedZero b 17 [] = true) (hm : x.more d) :
    tileNop t s = setTile s t x.onward :=
  (hd.runs ho _).trans (seqCommand_valid hd.ne_init hz rfl hd.ne_init hm s t)

theorem tileEnd_dispatches (ho : tileOp b = 0x01) (hz : reservedZero b 17 [] = true) :
    tileEnd t s = tileFinish (mcastOrphans (setTile s t { x with ended := true, loops := [] }) t) r d.seq := by
  refine (hd.runs ho _).trans ?_
  simp only [hz, Bool.not_true, Bool.false_eq_true, if_false, tileOf_setTile_same, setTile_setTile hd.ne_init]

theorem tileLoop_dispatches (ho : tileOp b = 0x02) (hz : reservedZero b 25 [(4, 4)] = true) (hbody : 1 ≤ fieldOf (leField b 0 4) 17 8)
    (hcount : 1 ≤ leField b 4 4) (hn : x.loops.length < 4)
    (hin : match x.loops with
      | [] => x.pos + 1 + fieldOf (leField b 0 4) 17 8 ≤ tileCmds d
      | f :: _ => x.pos + 1 + fieldOf (leField b 0 4) 17 8 ≤ f.last) :
    tileLoop t s = setTile s t (x.openLoop (fieldOf (leField b 0 4) 17 8) (leField b 4 4)) := by
  refine (hd.runs ho _).trans ?_
  simp only [tileOf_setTile_same, setTile_setTile hd.ne_init, hz, decide_eq_true hbody, decide_eq_true hcount, decide_eq_true hn,
    Bool.true_and]
  refine if_neg ?_
  cases hl : x.loops with
  | nil =>
    rw [hl] at hin
    simpa using hin
  | cons f fs =>
    rw [hl] at hin
    simpa using hin

theorem tileSetbase_dispatches (ho : tileOp b = 0x03) (hz : reservedZero b 20 [(8, 8)] = true) (hm : x.more d) :
    tileSetbase t s = setTile s t ({ x with bases := x.bases.set (fieldOf (leField b 0 4) 17 3) (leField b 8 8) } : Tile).onward :=
  (hd.runs ho _).trans (seqCommand_valid hd.ne_init hz rfl (ne_init_of_running hd.running) hm s t)

theorem tileAddbase_dispatches (ho : tileOp b = 0x04) (hz : reservedZero b 20 [(8, 8)] = true) (hm : x.more d) :
    tileAddbase t s =
      let k := fieldOf (leField b 0 4) 17 3
      setTile s t ({ x with bases := x.bases.set k ((x.bases.getD k 0 + leField b 8 8) % 2 ^ 64) } : Tile).onward :=
  (hd.runs ho _).trans (seqCommand_valid hd.ne_init hz rfl (ne_init_of_running hd.running) hm s t)

theorem tileLdbase_loads (ho : tileOp b = 0x05) (hz : reservedZero b 17 [] = true) (hm : x.more d)
    (hmem : ∀ nd o pr, xlate (setTile s t x) d.part .r (x.bases.getD 7 0) ≠ some (.vat nd o pr)) {bs : List Byte}
    (hr : readVa (setTile s t x) d.part (x.bases.getD 7 0) 56 (some (tileDie t)) = .ok bs) :
    tileLdbase t s = setTile s t (x.loadBases bs).onward := by
  refine (hd.runs ho _).trans ?_
  have hgo : seqCommand (setTile s t x) t d true (fun y => y.loadBases bs) = setTile s t (x.loadBases bs).onward :=
    seqCommand_valid hd.ne_init rfl rfl (ne_init_of_running (x := x.loadBases bs) hd.running) hm s t
  simp only [hz, Bool.not_true, Bool.false_eq_true, if_false, tileOf_setTile_same]
  cases hx : xlate (setTile s t x) d.part .r (x.bases.getD 7 0) with
  | none => simp only [hr, hgo]
  | some place =>
    cases place with
    | mem k => simp only [hr, hgo]
    | vat nd o pr => exact absurd hx (hmem nd o pr)

theorem tileLdbase_asks (ho : tileOp b = 0x05) (hz : reservedZero b 17 [] = true) {nd o : Nat} {pr : Bool}
    (hvat : xlate (setTile s t x) d.part .r (x.bases.getD 7 0) = some (.vat nd o pr)) :
    tileLdbase t s = pushVat (setTile s t { x with bar := some 2 }) [⟨d.part, .ldbase t, tileFdie t, nd, o, pr, 0, 56, []⟩] := by
  refine (hd.runs ho _).trans ?_
  simp only [hz, Bool.not_true, Bool.false_eq_true, if_false, tileOf_setTile_same, hvat, setTile_setTile hd.ne_init]

theorem tileBar_dispatches (ho : tileOp b = 0x06) (hz : reservedZero b 18 [] = true) (hm : x.more d) :
    tileBar t s = setTile s t ({ x with
      bar := some (fieldOf (leField b 0 4) 17 1)
      barsG := if fieldOf (leField b 0 4) 17 1 = 0 then x.barsG + 1 else x.barsG
      barsD := if fieldOf (leField b 0 4) 17 1 = 1 then x.barsD + 1 else x.barsD } : Tile).onward :=
  (hd.runs ho _).trans (seqCommand_valid hd.ne_init hz rfl (ne_init_of_running hd.running) hm s t)

end

theorem tileBarRelease_opens {s : State} {t scope : Nat} (hb : (tileOf s t).bar = some scope) (hs : scope < 2)
    (hstop : (tileOf s t).stopped = false)
    (hall : ∀ u, u ∈ barTiles s t scope → barCount (tileOf s t) scope ≤ barCount (tileOf s u) scope) :
    tileBarRelease t s = setTile s t { tileOf s t with bar := none } := by
  have hnone : (barTiles s t scope).any
      (fun u => (tileOf s u).ended && decide (barCount (tileOf s u) scope < barCount (tileOf s t) scope)) = false := by
    rw [List.any_eq_false]
    intro u hu
    rw [decide_eq_false (Nat.not_lt.2 (hall u hu)), Bool.and_false]
    exact Bool.false_ne_true
  have hmet : (barTiles s t scope).all (fun u => decide (barCount (tileOf s t) scope ≤ barCount (tileOf s u) scope)) = true := by
    rw [List.all_eq_true]
    exact fun u hu => decide_eq_true (hall u hu)
  simp only [tileBarRelease, hb, hstop, hnone, hmet, decide_eq_false (show scope ≠ 2 by omega), Bool.or_self, Bool.false_eq_true, if_false,
    if_true]

/-- Settles O36: each command that dispatches has its row's effect, and a stream or barrier that may start or open does. -/
theorem tileSequencerCommands : Obligations.TileSequencerCommands := by
  unfold Obligations.TileSequencerCommands
  refine ⟨fun s r seq d hr hd hm hf hi hfirst hl => ?_, fun s t r d x b hd => ?_, fun s t scope ht hb hs hstop hall => ?_⟩
  · exact (onUnit_next (decide_eq_true hr) _).trans (congrArg _ (tileWork_starts hd hm hf hi hfirst hl))
  · intro s0 h k
    have hon : ∀ {u v : State}, u = v → onUnit (isTile t) u = .next v := fun e => (onUnit_next hd.on _).trans (congrArg _ e)
    exact ⟨fun ho hz hm => hon (tileNop_dispatches hd ho hz hm), fun ho hz => hon (tileEnd_dispatches hd ho hz),
      fun ho hz h1 h2 h3 h4 => hon (tileLoop_dispatches hd ho hz h1 h2 h3 h4), fun ho hz hm => hon (tileSetbase_dispatches hd ho hz hm),
      fun ho hz hm => hon (tileAddbase_dispatches hd ho hz hm),
      fun ho hz => ⟨fun bs hm hmem hr => hon (tileLdbase_loads hd ho hz hm hmem hr), fun nd o pr hv => hon (tileLdbase_asks hd ho hz hv)⟩,
      fun ho hz hm => hon (tileBar_dispatches hd ho hz hm)⟩
  · exact (onUnit_next ht _).trans (congrArg _ (tileBarRelease_opens hb hs hstop hall))

/-! ### Accumulator sets and the matrix queue -/

theorem accGet_accPut (a : AccSet) {i j k l : Nat} (hj : j < 48) (hl : l < 48) (v : Nat) :
    accGet (accPut a k l v) i j = if (i, j) = (k, l) then v else accGet a i j := by
  have hkey : (i * 48 + j = k * 48 + l) = ((i, j) = (k, l)) := by
    rw [Prod.mk.injEq, eq_iff_iff]
    omega
  simp only [accGet, accPut, sget_sset, hkey]

theorem mem_blockCells (m n i j : Nat) : (i, j) ∈ blockCells m n ↔ i < m ∧ j < n := by
  simp [blockCells]

theorem nodup_blockCells (m n : Nat) : (blockCells m n).Nodup := List.nodup_range.product List.nodup_range

theorem accGet_congr {a c : AccSet} (h : a.elts = c.elts) (i j : Nat) : accGet a i j = accGet c i j := by simp only [accGet, h]

/-- A walk over cells, each of which replaces its own element by a function of it, replaces each element of the cells once. -/
theorem accGet_foldl {g : AccSet → Nat × Nat → AccSet} {v : Nat × Nat → Nat → Nat}
    (hg : ∀ x c, (g x c).elts = (accPut x c.1 c.2 (v c (accGet x c.1 c.2))).elts) {i j : Nat} (hj : j < 48) (l : List (Nat × Nat))
    (hnd : l.Nodup) (hl : ∀ c ∈ l, c.2 < 48) (set : AccSet) :
    accGet (l.foldl g set) i j = if (i, j) ∈ l then v (i, j) (accGet set i j) else accGet set i j := by
  induction l generalizing set with
  | nil => rfl
  | cons c cs ih =>
    obtain ⟨hnot, hnd'⟩ := List.nodup_cons.1 hnd
    have hstep : accGet (g set c) i j = if (i, j) = c then v c (accGet set i j) else accGet set i j := by
      rw [accGet_congr (hg set c), accGet_accPut _ hj (hl c (List.mem_cons_self ..))]
      by_cases h : (i, j) = c
      · subst h
        rfl
      · exact (if_neg h).trans (if_neg h).symm
    rw [List.foldl_cons, ih hnd' (fun e he => hl e (List.mem_cons_of_mem _ he)), hstep]
    by_cases h : (i, j) = c
    · subst h
      simp [hnot]
    · simp [h]

/-- A walk whose every step keeps a part of the state keeps it. -/
theorem foldl_keeps {α β γ : Type} (f : α → γ) {g : α → β → α} (hg : ∀ x c, f (g x c) = f x) (l : List β) (a : α) : f (l.foldl g a) = f a := by
  induction l generalizing a with
  | nil => rfl
  | cons c cs ih => rw [List.foldl_cons, ih, hg]

/-- A matrix command with a next command enters its queue, and dispatch goes on. -/
theorem matDone_setTile {z : Tile} {q : Nat × BitVec 32} (hz : z.running = some q) {n : Nat} (hm : z.onward.pos < n) (s : State) (t set : Nat)
    (w : Bool) : matDone (setTile s t z) t n set w =
      setTile s t ({ z with qmat := z.qmat ++ [⟨z.cmds, set, w⟩], cmds := z.cmds + 1 } : Tile).onward := by
  simp only [matDone, tileOf_setTile_same, setTile_setTile (ne_init_of_running hz)]
  exact advance_setTile (y := { z with qmat := z.qmat ++ [⟨z.cmds, set, w⟩], cmds := z.cmds + 1 }) (ne_init_of_running hz) hm s t

/-- The sums of a matrix command read memory alone. -/
theorem macLoop_setTile (s : State) (u t acc aT bT aA bA aS bS n k : Nat) (x : Tile) (st : Nat × Bool × Bool × Bool) :
    macLoop (setTile s u x) t acc aT bT aA bA aS bS n k st = macLoop s t acc aT bT aA bA aS bS n k st := by
  induction n generalizing k st with
  | zero => rfl
  | succ n ih => exact ih _ _

/-- An operand of a matrix command has a double error. -/
theorem any_poisoned_iff (s : State) (kk : Nat) (f g : Nat → Nat) (a b : Nat) :
    (List.range (if s.poison = [] then 0 else kk)).any (fun k => poisoned s (f k) a || poisoned s (g k) b) = true ↔
      ∃ k, k < kk ∧ (poisoned s (f k) a = true ∨ poisoned s (g k) b = true) := by
  by_cases h : s.poison = []
  · simp [h, poisoned]
  · simp [h]

section
variable {s : State} {t r : Nat} {d : Desc} {x : Tile} {b : List Byte} (hd : Dispatches s t r d x b)
include hd

/-- A matrix command that replaces a set enters the queue as its writer. -/
theorem matDone_setAcc (hm : x.more d) (k : Nat) (y : AccSet) :
    matDone (setTile (setTile s t x) t (setAcc x k y)) t (tileCmds d) k true =
      setTile s t ({ setAcc x k y with qmat := x.qmat ++ [⟨x.cmds, k, true⟩], cmds := x.cmds + 1 } : Tile).onward := by
  rw [setTile_setTile hd.ne_init]
  exact matDone_setTile (z := setAcc x k y) hd.running hm s t k true

end

/-- The block of an MMA as its command gives it (03 Table 6). -/
def mmaBlock (s : State) (t tag : Nat) (double : Bool) (b : List Byte) (set0 : AccSet) : AccSet :=
  let h := leField b 0 4
  let w1 := leField b 4 4
  let w3 := leField b 12 4
  macBlock s t tag (fieldOf h 20 3) (fieldOf h 23 3) (fieldOf w1 0 16) (fieldOf w1 16 16) (if double then 24 else 48) 48 (leField b 8 2)
    (blockCells (fieldOf w3 0 6) (fieldOf w3 8 6)) set0

theorem tag_mmaBlock (s : State) (t tag : Nat) (double : Bool) (b : List Byte) (set0 : AccSet) :
    (mmaBlock s t tag double b set0).tag = set0.tag := by
  exact foldl_keeps AccSet.tag (by intros; rfl) _ _

theorem accGet_mmaBlock (s : State) (u t tag : Nat) (x : Tile) (double : Bool) (b : List Byte) (set0 : AccSet) {i j : Nat} (hj : j < 48)
    (hn : fieldOf (leField b 12 4) 8 6 ≤ 48) :
    let h := leField b 0 4
    let w1 := leField b 4 4
    let w3 := leField b 12 4
    let aT := fieldOf h 20 3
    let bT := fieldOf h 23 3
    accGet (mmaBlock (setTile s u x) t tag double b set0) i j =
      if i < fieldOf w3 0 6 ∧ j < fieldOf w3 8 6 then
        (macLoop s t tag aT bT (fieldOf w1 0 16 * 32 + i * typeBytes aT) (fieldOf w1 16 16 * 32 + j * typeBytes bT)
          ((if double then 24 else 48) * typeBytes aT) (48 * typeBytes bT) (leField b 8 2) 0 (accGet set0 i j, false, false, false)).1
      else accGet set0 i j := by
  intro h w1 w3 aT bT
  have hcells : ∀ c ∈ blockCells (fieldOf w3 0 6) (fieldOf w3 8 6), c.2 < 48 :=
    fun c hc => ((mem_blockCells _ _ _ _).1 hc).2.trans_le hn
  refine (accGet_foldl (v := fun c e => (macLoop (setTile s u x) t tag aT bT (fieldOf w1 0 16 * 32 + c.1 * typeBytes aT)
    (fieldOf w1 16 16 * 32 + c.2 * typeBytes bT) ((if double then 24 else 48) * typeBytes aT) (48 * typeBytes bT) (leField b 8 2) 0
    (e, false, false, false)).1) (by intros; rfl) hj _ (nodup_blockCells _ _) hcells set0).trans ?_
  simp only [mem_blockCells, macLoop_setTile]

/-- The set that an ACCLD loads: its block from the scratchpad, zeros elsewhere (03 R75). -/
def accldBlock (s : State) (t : Nat) (b : List Byte) : AccSet :=
  let tag := fieldOf (leField b 0 4) 19 2
  let w1 := leField b 4 4
  let w3 := leField b 12 4
  (blockCells (fieldOf w3 0 6) (fieldOf w3 8 6)).foldl (fun a c =>
    accPut a c.1 c.2 (leNat (getBytes s (spKey t ((fieldOf w1 0 16 + c.1 * fieldOf w1 16 16) * 32 + c.2 * tagBytes tag)) (tagBytes tag))))
    { AccSet.init with tag := tag }

theorem accGet_accldBlock (s : State) (u t : Nat) (x : Tile) (b : List Byte) {i j : Nat} (hj : j < 48)
    (hn : fieldOf (leField b 12 4) 8 6 ≤ 48) :
    let w1 := leField b 4 4
    let w3 := leField b 12 4
    let tag := fieldOf (leField b 0 4) 19 2
    accGet (accldBlock (setTile s u x) t b) i j = if i < fieldOf w3 0 6 ∧ j < fieldOf w3 8 6 then
      leNat (getBytes s (spKey t ((fieldOf w1 0 16 + i * fieldOf w1 16 16) * 32 + j * tagBytes tag)) (tagBytes tag)) else 0 := by
  intro w1 w3 tag
  have hcells : ∀ c ∈ blockCells (fieldOf w3 0 6) (fieldOf w3 8 6), c.2 < 48 :=
    fun c hc => ((mem_blockCells _ _ _ _).1 hc).2.trans_le hn
  refine (accGet_foldl (v := fun c _ => leNat (getBytes s (spKey t ((fieldOf w1 0 16 + c.1 * fieldOf w1 16 16) * 32 + c.2 * tagBytes tag))
    (tagBytes tag))) (by intros; rfl) hj _ (nodup_blockCells _ _) hcells _).trans ?_
  simp only [mem_blockCells]
  rfl

/-- What a block that passes the checks of ACCLD and ACCST has: columns within a set, rows within their pitch, and every row within the banks. -/
theorem accCheck_none {d : Desc} {b : List Byte} {tag lo : Nat} (h : accCheck d b tag lo = none) :
    fieldOf (leField b 12 4) 8 6 ≤ 48 ∧ (fieldOf (leField b 12 4) 8 6 * tagBytes tag + 31) / 32 ≤ fieldOf (leField b 4 4) 16 16 ∧
      ∀ i, i < fieldOf (leField b 12 4) 0 6 → spRangeOk (tileMask d)
        ((fieldOf (leField b 4 4) 0 16 + i * fieldOf (leField b 4 4) 16 16) * 32) (fieldOf (leField b 12 4) 8 6 * tagBytes tag) = true := by
  unfold accCheck at h
  obtain ⟨-, h⟩ | ⟨hv, h⟩ := ite_eq_iff.1 h
  · cases h
  obtain ⟨-, h⟩ | ⟨hr, -⟩ := ite_eq_iff.1 h
  · cases h
  rw [Bool.not_eq_true, Bool.not_eq_false'] at hv hr
  simp only [Bool.and_eq_true, decide_eq_true_eq] at hv
  obtain ⟨⟨⟨-, -⟩, hn⟩, hpitch⟩ := hv
  exact ⟨hn, hpitch, fun i hi => List.all_eq_true.1 hr i (List.mem_range.2 hi)⟩

section
variable {s : State} {t r : Nat} {d : Desc} {x : Tile} {b : List Byte} (hd : Dispatches s t r d x b)
include hd

/-- A valid MMA with room in its queue fails on an operand with a double error, and otherwise replaces its set. -/
theorem tileMma_valid {double : Bool} {tag : Nat} (ho : tileOp b = (if double then 0x11 else 0x10)) (hq : x.qmat.length < 8)
    (hz : reservedZero b 26 [(4, 4), (8, 2), (12, 2)] = true) (h6 : fieldOf (leField b 12 4) 6 2 = 0) (h14 : fieldOf (leField b 12 4) 14 2 = 0)
    (hk : 1 ≤ leField b 8 2) (hm1 : 1 ≤ fieldOf (leField b 12 4) 0 6) (hm : fieldOf (leField b 12 4) 0 6 ≤ if double then 24 else 48)
    (hn1 : 1 ≤ fieldOf (leField b 12 4) 8 6) (hn : fieldOf (leField b 12 4) 8 6 ≤ 48)
    (hp : pairTag double (fieldOf (leField b 0 4) 20 3) (fieldOf (leField b 0 4) 23 3) = some tag)
    (htag : bitAt (leField b 0 4) 19 = true ∨ (accOf x (fieldOf (leField b 0 4) 17 2)).tag = tag)
    (hA : spRangeOk (tileMask d) (fieldOf (leField b 4 4) 0 16 * 32)
      (leField b 8 2 * (if double then 24 else 48) * typeBytes (fieldOf (leField b 0 4) 20 3)) = true)
    (hB : spRangeOk (tileMask d) (fieldOf (leField b 4 4) 16 16 * 32) (leField b 8 2 * 48 * typeBytes (fieldOf (leField b 0 4) 23 3)) = true) :
    let h := leField b 0 4
    let w1 := leField b 4 4
    let w3 := leField b 12 4
    let aT := fieldOf h 20 3
    let bT := fieldOf h 23 3
    let set0 := if bitAt h 19 then { AccSet.init with tag := tag } else accOf x (fieldOf h 17 2)
    tileMma double t s =
      if (List.range (if (setTile s t x).poison = [] then 0 else leField b 8 2)).any (fun k =>
          poisoned (setTile s t x) (spKey t (fieldOf w1 0 16 * 32 + k * (if double then 24 else 48) * typeBytes aT)) (fieldOf w3 0 6 * typeBytes aT) ||
            poisoned (setTile s t x) (spKey t (fieldOf w1 16 16 * 32 + k * 48 * typeBytes bT)) (fieldOf w3 8 6 * typeBytes bT)) = true then
        tileFail (setTile s t x) t St.uncorrected
      else matDone (setTile (setTile s t x) t (setAcc x (fieldOf h 17 2) (mmaBlock (setTile s t x) t tag double b set0))) t (tileCmds d)
        (fieldOf h 17 2) true := by
  intro h w1 w3 aT bT set0
  have hset : (!bitAt (leField b 0 4) 19 && (accOf x (fieldOf (leField b 0 4) 17 2)).tag != tag) = false := by
    rcases htag with e | e
    · rw [e]
      rfl
    · rw [e, bne_self_eq_false, Bool.and_false]
  have hvalid : (reservedZero b 26 [(4, 4), (8, 2), (12, 2)] && fieldOf w3 6 2 == 0 && fieldOf w3 14 2 == 0 && decide (1 ≤ leField b 8 2) &&
      decide (1 ≤ fieldOf w3 0 6) && decide (fieldOf w3 0 6 ≤ if double then 24 else 48) && decide (1 ≤ fieldOf w3 8 6) &&
      decide (fieldOf w3 8 6 ≤ 48)) = true := by
    simp only [w3, hz, h6, h14, hk, hm1, hm, hn1, hn, beq_self_eq_true, decide_true, Bool.and_self]
  refine (hd.runs ho _).trans ?_
  simp only [tileOf_setTile_same]
  rw [if_neg (Nat.not_le.2 hq), if_pos hvalid, hp]
  simp only [hset, hA, hB, Bool.and_self, Bool.not_true, Bool.false_eq_true, if_false, mmaBlock]
  rfl

/-- A valid ACCLD with room in its queue fails on a row with a double error, and otherwise loads its set. -/
theorem tileAccld_valid (ho : tileOp b = 0x12) (hq : x.qmat.length < 8) (htag : fieldOf (leField b 0 4) 19 2 ≠ 3)
    (hc : accCheck d b (fieldOf (leField b 0 4) 19 2) 21 = none) :
    tileAccld t s =
      if blockPoisoned (setTile s t x) t b (tagBytes (fieldOf (leField b 0 4) 19 2)) then tileFail (setTile s t x) t St.uncorrected
      else matDone (setTile (setTile s t x) t (setAcc x (fieldOf (leField b 0 4) 17 2) (accldBlock (setTile s t x) t b))) t (tileCmds d)
        (fieldOf (leField b 0 4) 17 2) true := by
  refine (hd.runs ho _).trans ?_
  simp only [tileOf_setTile_same, hc]
  rw [if_neg (Nat.not_le.2 hq), if_neg htag]
  rfl

end

/-- Settles O37: a dispatched MMA or ACCLD replaces its set by the block's walk, each cell once, and enters the queue as its writer. -/
theorem tileMatrixCommands : Obligations.TileMatrixCommands := by
  unfold Obligations.TileMatrixCommands
  intro s t r d x b hd hq hm s0 h w1 w3 m n queued
  have hon : ∀ {u v : State}, u = v → onUnit (isTile t) u = .next v := fun e => (onUnit_next hd.on _).trans (congrArg _ e)
  refine ⟨fun double tag ho => ?_, fun ho htag hc => ?_⟩
  · intro aT bT kk aLen set set0 bad hz h6 h14 hk hm1 hm' hn1 hn hp ht hA hB
    have hexec : ∀ v, tileMma double t s = v → exec (if double then .mmaD t else .mmaH t) s = .next v := by
      intro v e
      cases double
      · exact hon e
      · exact hon e
    have hrun := tileMma_valid hd ho hq hz h6 h14 hk hm1 hm' hn1 hn hp ht hA hB
    have hbad : _ ↔ bad := any_poisoned_iff (setTile s t x) kk _ _ (m * typeBytes aT) (n * typeBytes bT)
    refine ⟨fun hb => hexec _ (hrun.trans (if_pos (hbad.2 hb))), fun hb => ?_⟩
    refine ⟨mmaBlock (setTile s t x) t tag double b set0,
      hexec _ ((hrun.trans (if_neg (fun e => hb (hbad.1 e)))).trans (matDone_setAcc hd hm _ _)), ?_, fun i j hi hj => ?_⟩
    · rw [tag_mmaBlock]
      rcases ht with e | e
      · exact congrArg AccSet.tag (if_pos e)
      · simp only [set0]
        split
        · rfl
        · exact e
    · exact accGet_mmaBlock s t t tag x double b set0 hj hn
  · intro tag
    have hrun := tileAccld_valid hd ho hq htag hc
    refine ⟨fun hb => hon (hrun.trans (if_pos hb)), fun hb => ?_⟩
    refine ⟨accldBlock (setTile s t x) t b,
      hon ((hrun.trans (if_neg (by rw [Bool.not_eq_true]; exact hb))).trans (matDone_setAcc hd hm _ _)), ?_⟩
    obtain ⟨hn, -, -⟩ := accCheck_none hc
    exact ⟨foldl_keeps AccSet.tag (by intros; rfl) _ _, foldl_keeps AccSet.inv (by intros; rfl) _ _, foldl_keeps AccSet.ovf (by intros; rfl) _ _,
      foldl_keeps AccSet.sat (by intros; rfl) _ _, fun i j hi hj => accGet_accldBlock s t t x b hj hn⟩

end Sys2Proof.Machine
end

section
/-! SUPPORT. Tile commands that move bytes: ACCST, VEC, DMA_IN and DMA_OUT (03 R75, R76, R84 to R97, 04 R104 to R128). -/

namespace Sys2Proof.Machine

/-! ### Cells of the store, each replaced once -/

theorem leNat_leBytes (n v : Nat) : leNat (leBytes n v) = v % 2 ^ (8 * n) := by
  induction n generalizing v with
  | zero => simp [leBytes, leNat, Nat.mod_one]
  | succ n ih =>
    have h8 : (2 : Nat) ^ (8 * (n + 1)) = 256 * 2 ^ (8 * n) := by
      rw [Nat.mul_succ, Nat.pow_add]
      omega
    rw [leBytes, leNat, ih, h8, Nat.mod_mul, BitVec.toNat_ofNat]

theorem spKey_add (t a b : Nat) : spKey t (a + b) = spKey t a + b := by
  unfold spKey
  omega

theorem onlyBytes_putBytes (s : State) (k : Nat) (bs : List Byte) : OnlyBytes s (putBytes s k bs) := rfl

/-- The bytes of a range that a write leaves alone. -/
theorem getBytes_putBytes_other (s : State) {k a n : Nat} {bs : List Byte} (h : a + n ≤ k ∨ k + bs.length ≤ a) :
    getBytes (putBytes s k bs) a n = getBytes s a n := by
  rw [getBytes_eq, getBytes_eq]
  refine List.map_congr_left fun i hi => ?_
  have hi' := List.mem_range.1 hi
  rw [byteAt_putBytes, if_neg (by omega)]

theorem getBytes_putBytes_same (s : State) (k : Nat) (bs : List Byte) : getBytes (putBytes s k bs) k bs.length = bs := by
  rw [getBytes_eq]
  refine List.ext_getElem (by simp) fun i h1 h2 => ?_
  rw [List.getElem_map, List.getElem_range, byteAt_putBytes, if_pos (by omega), Nat.add_sub_cancel_left, List.getD_eq_getElem _ _ h2]

/-- Cells of `n` bytes are replaced in turn, each by a number that its old one gives. -/
def putCells (n : Nat) (addr : Nat × Nat → Nat) (w : Nat × Nat → Nat → Nat) (l : List (Nat × Nat)) (s : State) : State :=
  l.foldl (fun s c => putBytes s (addr c) (leBytes n (w c (leNat (getBytes s (addr c) n))))) s

section
variable {n : Nat} {addr : Nat × Nat → Nat} {w : Nat × Nat → Nat → Nat}

theorem onlyBytes_putCells (l : List (Nat × Nat)) (s : State) : OnlyBytes s (putCells n addr w l s) := by
  induction l generalizing s with
  | nil => exact OnlyBytes.refl s
  | cons c cs ih => exact (onlyBytes_putBytes s _ _).trans (ih _)

theorem byteAt_putCells {key : Nat} (l : List (Nat × Nat)) (h : ∀ c ∈ l, key < addr c ∨ addr c + n ≤ key) (s : State) :
    byteAt (putCells n addr w l s) key = byteAt s key := by
  induction l generalizing s with
  | nil => rfl
  | cons c cs ih =>
    have hc := h c List.mem_cons_self
    refine (ih (fun e he => h e (List.mem_cons_of_mem c he)) _).trans ?_
    rw [byteAt_putBytes, leBytes_length, if_neg (by omega)]

/-- Bytes apart from every cell stay. -/
theorem getBytes_putCells_other {a : Nat} (l : List (Nat × Nat)) (h : ∀ c ∈ l, a + n ≤ addr c ∨ addr c + n ≤ a) (s : State) :
    getBytes (putCells n addr w l s) a n = getBytes s a n := by
  rw [getBytes_eq, getBytes_eq]
  refine List.map_congr_left fun i hi => byteAt_putCells l (fun c hc => ?_) s
  have hi' := List.mem_range.1 hi
  rcases h c hc with e | e
  · exact .inl (by omega)
  · exact .inr (by omega)

/-- Cells that lie apart hold the numbers that their old bytes give. -/
theorem getBytes_putCells {c : Nat × Nat} (l : List (Nat × Nat)) (hnd : l.Nodup)
    (hd : ∀ a ∈ l, ∀ b ∈ l, a ≠ b → addr a + n ≤ addr b ∨ addr b + n ≤ addr a) (hc : c ∈ l) (s : State) :
    getBytes (putCells n addr w l s) (addr c) n = leBytes n (w c (leNat (getBytes s (addr c) n))) := by
  induction l generalizing s with
  | nil => cases hc
  | cons e es ih =>
    obtain ⟨hnot, hnd'⟩ := List.nodup_cons.1 hnd
    have htail := fun a ha b hb => hd a (List.mem_cons_of_mem e ha) b (List.mem_cons_of_mem e hb)
    rcases List.mem_cons.1 hc with rfl | hc'
    · have hapart : ∀ a ∈ es, addr c + n ≤ addr a ∨ addr a + n ≤ addr c := fun a ha =>
        hd c List.mem_cons_self a (List.mem_cons_of_mem c ha) (fun h => hnot (h ▸ ha))
      refine (getBytes_putCells_other es hapart _).trans ?_
      have hsame := getBytes_putBytes_same s (addr c) (leBytes n (w c (leNat (getBytes s (addr c) n))))
      rwa [leBytes_length] at hsame
    · have hne : c ≠ e := fun h => hnot (h ▸ hc')
      refine (ih hnd' htail hc' _).trans ?_
      rw [getBytes_putBytes_other]
      rw [leBytes_length]
      exact hd c hc e List.mem_cons_self hne
end

/-! ### ACCST -/

/-- The key of a cell of the block of an ACCLD or ACCST with elements of `esz` bytes. -/
def blockKey (t esz : Nat) (b : List Byte) (c : Nat × Nat) : Nat :=
  spKey t ((fieldOf (leField b 4 4) 0 16 + c.1 * fieldOf (leField b 4 4) 16 16) * 32 + c.2 * esz)

theorem blockKey_eq (t esz : Nat) (b : List Byte) (i j : Nat) : blockKey t esz b (i, j) = blockKey t esz b (i, 0) + j * esz := by
  simp only [blockKey, Nat.zero_mul, Nat.add_zero, spKey_add]

/-- Rows within their pitch follow one another. -/
theorem blockKey_row_le {esz n : Nat} {b : List Byte} (t : Nat) (h : (n * esz + 31) / 32 ≤ fieldOf (leField b 4 4) 16 16) {i k : Nat} (hik : i < k) :
    blockKey t esz b (i, 0) + n * esz ≤ blockKey t esz b (k, 0) := by
  have hrow : (i + 1) * fieldOf (leField b 4 4) 16 16 ≤ k * fieldOf (leField b 4 4) 16 16 := Nat.mul_le_mul_right _ hik
  rw [Nat.succ_mul] at hrow
  simp only [blockKey, Nat.zero_mul, Nat.add_zero, spKey]
  omega

/-- The cells of a block whose rows lie within their pitch lie apart. -/
theorem blockKey_apart {esz n : Nat} {b : List Byte} (t : Nat) (h : (n * esz + 31) / 32 ≤ fieldOf (leField b 4 4) 16 16) {c e : Nat × Nat}
    (hc : c.2 < n) (he : e.2 < n) (hne : c ≠ e) :
    blockKey t esz b c + esz ≤ blockKey t esz b e ∨ blockKey t esz b e + esz ≤ blockKey t esz b c := by
  obtain ⟨i, j⟩ := c
  obtain ⟨k, l⟩ := e
  have hj : (j + 1) * esz ≤ n * esz := Nat.mul_le_mul_right _ hc
  have hl : (l + 1) * esz ≤ n * esz := Nat.mul_le_mul_right _ he
  rw [Nat.succ_mul] at hj hl
  rw [blockKey_eq t esz b i j, blockKey_eq t esz b k l]
  rcases lt_trichotomy i k with hik | rfl | hik
  · have := blockKey_row_le t h hik
    exact .inl (by omega)
  · rcases lt_trichotomy j l with hjl | rfl | hjl
    · have : (j + 1) * esz ≤ l * esz := Nat.mul_le_mul_right _ hjl
      rw [Nat.succ_mul] at this
      exact .inl (by omega)
    · exact absurd rfl hne
    · have : (l + 1) * esz ≤ j * esz := Nat.mul_le_mul_right _ hjl
      rw [Nat.succ_mul] at this
      exact .inr (by omega)
  · have := blockKey_row_le t h hik
    exact .inr (by omega)

/-- What ACCST stores in a cell, of the element there before (03 R76). -/
def accstCell (set : AccSet) (b : List Byte) (c : Nat × Nat) (old : Nat) : Nat :=
  if bitAt (leField b 0 4) 21 then accAdd set.tag old (accGet set c.1 c.2) else accGet set c.1 c.2

/-- The scratchpad after an ACCST. -/
def accstStored (s : State) (t : Nat) (set : AccSet) (b : List Byte) : State :=
  putCells (tagBytes set.tag) (blockKey t (tagBytes set.tag) b) (accstCell set b)
    (blockCells (fieldOf (leField b 12 4) 0 6) (fieldOf (leField b 12 4) 8 6)) s

section
variable {s : State} {t r : Nat} {d : Desc} {x : Tile} {b : List Byte}

theorem cmdTargets_accst (s : State) (t : Nat) (x : Tile) (ho : tileOp b = 0x13) : (cmdTargets s t x b).1 =
    (List.range (fieldOf (leField b 12 4) 0 6)).map (fun i =>
      (blockKey t (tagBytes (accOf x (fieldOf (leField b 0 4) 17 2)).tag) b (i, 0),
        fieldOf (leField b 12 4) 8 6 * tagBytes (accOf x (fieldOf (leField b 0 4) 17 2)).tag)) := by
  have ho' : fieldOf (leField b 0 4) 0 8 = 0x13 := ho
  simp only [cmdTargets, ho', blockKey, Nat.zero_mul, Nat.add_zero]

/-- A valid ACCST with room in its queue stores its block and enters the queue as a reader of its set. -/
theorem tileAccst_valid (hd : Dispatches s t r d x b) (ho : tileOp b = 0x13) (hq : x.qmat.length < 8) (h0 : fieldOf (leField b 0 4) 19 2 = 0)
    (hc : accCheck d b (accOf x (fieldOf (leField b 0 4) 17 2)).tag 22 = none)
    (hok : bitAt (leField b 0 4) 21 = false ∨ blockPoisoned s t b (tagBytes (accOf x (fieldOf (leField b 0 4) 17 2)).tag) = false) :
    tileAccst t s =
      let set := accOf x (fieldOf (leField b 0 4) 17 2)
      matDone (noteWrites (accstStored (setTile s t x) t set b) r d.seq ((List.range (fieldOf (leField b 12 4) 0 6)).map (fun i =>
        (blockKey t (tagBytes set.tag) b (i, 0), fieldOf (leField b 12 4) 8 6 * tagBytes set.tag)))) t (tileCmds d)
          (fieldOf (leField b 0 4) 17 2) false := by
  have hgo : (bitAt (leField b 0 4) 21 && blockPoisoned (setTile s t x) t b (tagBytes (accOf x (fieldOf (leField b 0 4) 17 2)).tag)) = false := by
    rcases hok with e | e
    · rw [e, Bool.false_and]
    · have e' : blockPoisoned (setTile s t x) t b (tagBytes (accOf x (fieldOf (leField b 0 4) 17 2)).tag) = false := e
      rw [e', Bool.and_false]
  refine (hd.runs ho _).trans ?_
  simp only [tileOf_setTile_same]
  rw [if_neg (Nat.not_le.2 hq), if_pos h0, hc, ← cmdTargets_accst (setTile s t x) t x ho]
  exact if_neg (by rw [hgo]; exact Bool.false_ne_true)

/-- A VEC with room in its queue runs its program and enters the queue with its posts. -/
theorem tileVec_runs (hd : Dispatches s t r d x b) (ho : tileOp b = 0x20) (hq : x.qvec.length < 8) {v : VResult}
    (hv : runVec (setTile s t x) t (tileMask d) (pfld s d.part Reg.scuSlots 0 13) x.vstat x.accs b = .ok v) :
    tileVec t s =
      let post := fun slot a => (Post.mk (tileDie t) d.part r d.seq (some t) slot a (v.fl &&& 0x1E5 != 0))
      let ps := (if bitAt v.ctrl 0 then [post v.slots.1 v.a0] else []) ++ (if bitAt v.ctrl 1 then [post v.slots.2 v.a1] else [])
      let s1 := noteWrites { v.s with posts := v.s.posts ++ ps } r d.seq v.wrote
      advance (setTile s1 t { tileOf s1 t with
        vstat := v.vstat, qvec := (tileOf s1 t).qvec ++ [⟨x.cmds, v.sets, ps.length⟩], cmds := x.cmds + 1 }) t (tileCmds d) := by
  have hv' : runVec (setTile s t x) t (tileMask d) (pfld (setTile s t x) d.part Reg.scuSlots 0 13) x.vstat x.accs b = .ok v := hv
  refine (hd.runs ho _).trans ?_
  simp only [tileOf_setTile_same]
  rw [if_neg (Nat.not_le.2 hq), hv']

end

/-! ### DMA -/

/-- The next command of no tile of the group may begin. -/
def DmaQuiet (s : State) (t : Nat) : Prop := ∀ u ∈ groupTiles t, dmaNext (tileOf s u) = none

theorem dmaPump_quiet {s : State} {t : Nat} (h : DmaQuiet s t) (n : Nat) : dmaPump t n s = s := by
  cases n with
  | zero => rfl
  | succ n =>
    have hnone : (groupTiles t).findSome? (fun u => (dmaNext (tileOf s u)).map (fun e => (u, e))) = none := by
      rw [List.findSome?_eq_none_iff]
      intro u hu
      rw [h u hu, Option.map_none]
    rw [dmaPump, hnone]

theorem tileOf_congr {s u : State} (h : u.tiles = s.tiles) (j : Nat) : tileOf u j = tileOf s j := by simp only [tileOf, h]

theorem DmaQuiet.of_tiles {s u : State} {t : Nat} (h : DmaQuiet s t) (hu : u.tiles = s.tiles) : DmaQuiet u t :=
  fun j hj => by rw [tileOf_congr hu]; exact h j hj

/-- A tile whose every DMA command has begun begins none. -/
theorem dmaNext_of_begun {x : Tile} (h : ∀ e ∈ x.qdma, e.begun = true) : dmaNext x = none := by
  unfold dmaNext
  split
  · rfl
  · split
    · next e he => rw [if_pos (h e (List.mem_of_find?_eq_some he))]
    · rfl

theorem dmaNext_stopped {x : Tile} (h : x.stopped = true) : dmaNext x = none := if_pos h

theorem mem_groupTiles_self (t : Nat) : t ∈ groupTiles t :=
  List.mem_map.2 ⟨t % 8, List.mem_range.2 (Nat.mod_lt _ (by decide)), by omega⟩

/-- A tile replaced by one that begins no DMA command keeps its group quiet. -/
theorem DmaQuiet.setTile {s : State} {t : Nat} (h : DmaQuiet s t) {i : Nat} {y : Tile} (hy : dmaNext (tileOf s i) = none → dmaNext y = none) :
    DmaQuiet (setTile s i y) t := by
  intro u hu
  by_cases hi : u = i
  · subst hi
    rw [tileOf_setTile_same]
    exact hy (h u hu)
  · rw [tileOf_setTile_other _ _ _ _ hi]
    exact h u hu

theorem DmaQuiet.stopTiles {s : State} {t : Nat} (h : DmaQuiet s t) (r : Nat) (seq : BitVec 32) : DmaQuiet (stopTiles s r seq) t := by
  unfold Machine.stopTiles
  generalize tilesOn s r seq = l
  induction l generalizing s with
  | nil => exact h
  | cons i is ih => exact ih (h.setTile (fun _ => dmaNext_stopped rfl))

/-- The failure of a tile's command lets no DMA command begin. -/
theorem DmaQuiet.tileFailAt {s : State} {t : Nat} (h : DmaQuiet s t) (i pos : Nat) (st : BitVec 16) (detail : Nat) (er : Option MemErr) :
    DmaQuiet (tileFailAt s i pos st detail er) t := by
  unfold Machine.tileFailAt
  dsimp only
  split
  · exact h
  · split
    · exact h
    · split
      · exact h
      · refine DmaQuiet.stopTiles ?_ _ _
        have hmark : ∀ ev, DmaQuiet (Machine.setTile (errEmit s ev).1 i { tileOf (errEmit s ev).1 i with failed := some (st.toNat, detail) }) t :=
          fun ev => (h.of_tiles (errEmit_tiles s ev)).setTile (fun e => e)
        split
        · exact (hmark _).of_tiles rfl
        · exact hmark _

/-- The tiles are kept by a command's parts. -/
def KeepsTiles (f : State → DmaMove → Except MemErr (State × Nat)) : Prop := ∀ s m u k, f s m = .ok (u, k) → u.tiles = s.tiles

theorem tiles_putBytes_foldl (bs : List Byte) (l : List Nat) (s : State) : (l.foldl (fun s k => putBytes s k bs) s).tiles = s.tiles :=
  foldl_keeps State.tiles (by intros; rfl) l s

theorem OnlyBytes.tiles {s u : State} (h : OnlyBytes s u) : u.tiles = s.tiles := by
  unfold OnlyBytes at h
  rw [h]

theorem moveIn_tiles {s u : State} {t p a len k : Nat} {keys : List Nat} {src : VatFrom} (h : moveIn s t p a len keys src = .ok (u, k)) :
    u.tiles = s.tiles := by
  unfold moveIn at h
  split at h
  · cases h
    rfl
  · split at h
    · cases h
    · cases h
      exact tiles_putBytes_foldl _ _ _

theorem atomicAdd_tiles {s u : State} {p t esz a v : Nat} (h : atomicAdd p t esz a v s = .ok u) : u.tiles = s.tiles := by
  unfold atomicAdd at h
  split at h
  · cases h
  split at h
  · cases h
  obtain ⟨-, h⟩ | ⟨-, h⟩ := ite_eq_iff.1 h
  · cases h
  obtain ⟨-, h⟩ | ⟨-, h⟩ := ite_eq_iff.1 h
  · cases h
  obtain ⟨-, h⟩ | ⟨-, h⟩ := ite_eq_iff.1 h
  · cases h
  obtain ⟨-, h⟩ | ⟨-, h⟩ := ite_eq_iff.1 h
  · cases h
  cases h
  rfl

theorem writeVa_tiles {s u : State} {p a : Nat} {bs : List Byte} {src : Option Nat} (h : writeVa s p a bs src = .ok u) : u.tiles = s.tiles :=
  (writeVia_spec _ _ _ _ _ _ h).1.tiles

theorem moveOut_tiles {s u : State} {t p mode a k : Nat} {bs : List Byte} {src : VatFrom} (h : moveOut s t p mode a bs src = .ok (u, k)) :
    u.tiles = s.tiles := by
  unfold moveOut at h
  split at h
  · obtain ⟨-, h⟩ | ⟨-, h⟩ := ite_eq_iff.1 h
    · cases h
    · cases h
      rfl
  · split at h
    · cases h
    · next hw =>
      cases h
      obtain ⟨-, hw⟩ | ⟨-, hw⟩ := ite_eq_iff.1 hw
      · exact writeVa_tiles hw
      · exact atomicAdd_tiles hw

/-- The state in which a command's parts end. -/
def movedState : Except (State × MemErr) (State × Nat) → State
  | .ok (s, _) => s
  | .error (s, _) => s

theorem runMoves_tiles {f : State → DmaMove → Except MemErr (State × Nat)} (hf : KeepsTiles f) (l : List DmaMove) (s : State) (n : Nat) :
    (movedState (runMoves f l (s, n))).tiles = s.tiles := by
  induction l generalizing s n with
  | nil => rfl
  | cons m ms ih =>
    rw [runMoves]
    split
    · rfl
    · next u k hm => exact (ih u (n + k)).trans (hf s m u k hm)

/-- The end of a command's parts lets no DMA command begin, where the tile's commands have all begun. -/
theorem DmaQuiet.movesEnd {x : Except (State × MemErr) (State × Nat)} {t : Nat} (h : DmaQuiet (movedState x) t)
    (hb : ∀ e ∈ (tileOf (movedState x) t).qdma, e.begun = true) (e : DmaEntry) : DmaQuiet (movesEnd t e x) t := by
  cases x with
  | error p => exact h.tileFailAt _ _ _ _ _
  | ok p =>
    refine h.setTile fun _ => dmaNext_of_begun fun y hy => ?_
    obtain ⟨z, hz, rfl⟩ := List.mem_map.1 hy
    have hzb := hb z hz
    split
    · exact hzb
    · exact hzb

theorem find?_map_replace {l : List Desc} {d y : Desc} (h : l.find? (fun e => e.seq == y.seq) = some d) :
    (l.map (fun x => if x.seq == y.seq then y else x)).find? (fun e => e.seq == y.seq) = some y := by
  induction l with
  | nil => cases h
  | cons e es ih =>
    by_cases he : (e.seq == y.seq) = true
    · rw [List.map_cons, if_pos he, List.find?_cons_of_pos (by simp)]
    · rw [List.find?_cons_of_neg (p := fun e : Desc => e.seq == y.seq) he] at h
      rw [List.map_cons, if_neg he, List.find?_cons_of_neg (p := fun e : Desc => e.seq == y.seq) he, ih h]

theorem findDesc_setDesc {s : State} {r : Nat} {d y : Desc} (h : findDesc s r y.seq = some d) : findDesc (setDesc s r y) r y.seq = some y := by
  simp only [findDesc, setDesc, ringOf_setRing_same]
  exact find?_map_replace h

/-- Noting what a descriptor writes keeps its partition. -/
theorem findDesc_noteWrites {s : State} {r : Nat} {d : Desc} (h : findDesc s r d.seq = some d) (ws : List (Nat × Nat)) :
    ∃ e, findDesc (noteWrites s r d.seq ws) r d.seq = some e ∧ e.part = d.part := by
  unfold noteWrites
  rw [h]
  dsimp only
  split
  · next l hl => exact ⟨_, findDesc_setDesc (y := { d with work := .tile (l ++ ws) }) h, rfl⟩
  · exact ⟨d, h, rfl⟩

theorem tiles_noteWrites (s : State) (r : Nat) (seq : BitVec 32) (ws : List (Nat × Nat)) : (noteWrites s r seq ws).tiles = s.tiles := by
  unfold noteWrites
  split
  · split <;> rfl
  · rfl

theorem findSome?_alone {α β : Type} {f : α → Option β} {l : List α} {a : α} (ha : a ∈ l) (h : ∀ b ∈ l, b ≠ a → f b = none) : l.findSome? f = f a := by
  induction l with
  | nil => cases ha
  | cons b bs ih =>
    rw [List.findSome?_cons]
    by_cases hb : b = a
    · subst hb
      cases hf : f b with
      | some v => rfl
      | none =>
        refine List.findSome?_eq_none_iff.2 fun c hc => ?_
        by_cases hcb : c = b
        · rw [hcb, hf]
        · exact h c (List.mem_cons_of_mem b hc) hcb
    · rw [h b List.mem_cons_self hb]
      exact ih ((List.mem_cons.1 ha).resolve_left (Ne.symm hb)) (fun c hc => h c (List.mem_cons_of_mem b hc))

/-- Where one tile of the group alone may begin a command, the queues run it and stop. -/
theorem dmaRun_alone {s : State} {t : Nat} {e : DmaEntry} (he : dmaNext (tileOf s t) = some e)
    (hother : ∀ u ∈ groupTiles t, u ≠ t → dmaNext (tileOf s u) = none) (hq : DmaQuiet (dmaBegin s t e) t) : dmaRun s t = dmaBegin s t e := by
  have hfind : (groupTiles t).findSome? (fun u => (dmaNext (tileOf s u)).map (fun e => (u, e))) = some (t, e) := by
    rw [findSome?_alone (mem_groupTiles_self t) (fun u hu hne => by rw [hother u hu hne, Option.map_none]), he, Option.map_some]
  unfold dmaRun
  rw [dmaPump, hfind]
  exact dmaPump_quiet hq 127

/-- The tile with its command begun. -/
def dmaBegun (s : State) (t : Nat) (e : DmaEntry) : State :=
  setTile s t ((tileOf s t).mapDma (fun y => if y.no = e.no then { y with begun := true, parts := 0 } else y))

section
variable {s : State} {t r : Nat} {seq : BitVec 32} {d : Desc} {e : DmaEntry}

theorem dmaBegin_in (hm : e.mcast = none) (ho : fieldOf (leField e.cmd 0 4) 0 8 = 0x30) (hr : (tileOf s t).running = some (r, seq))
    (hd : findDesc s r seq = some d) :
    dmaBegin s t e =
      let c := DmaCmd.ofBytes e.cmd
      let at_ := fun (m : DmaMove) => c.memAddr e.base m.row + m.off
      movesEnd t e (runMoves (fun s m => moveIn s t d.part (at_ m) m.len [spKey t (c.spAddr false m)] (.tile t e.no (spKey t (c.spAddr false m))))
        (c.moves false e.base (List.range c.rows)) (c.zeroFill t (dmaBegun s t e), 0)) := by
  have ho' : (fieldOf (leField e.cmd 0 4) 0 8 == 0x31) = false := by rw [ho]; rfl
  simp only [dmaBegin, hm, ho', hr, hd, Option.bind_some, Option.isSome_none, b2n, Bool.false_eq_true, if_false, dmaBegun]

theorem dmaBegin_out (hm : e.mcast = none) (ho : fieldOf (leField e.cmd 0 4) 0 8 = 0x31) (hr : (tileOf s t).running = some (r, seq))
    (hd : findDesc s r seq = some d) :
    dmaBegin s t e =
      let c := DmaCmd.ofBytes e.cmd
      let at_ := fun (m : DmaMove) => c.memAddr e.base m.row + m.off
      movesEnd t e (runMoves (fun s m => if poisoned s (spKey t (c.spAddr true m)) m.len then .error (.bad (at_ m) (spKey t (c.spAddr true m)))
          else moveOut s t d.part c.mode (at_ m) (getBytes s (spKey t (c.spAddr true m)) m.len) (.tile t e.no 0))
        (c.moves true e.base (List.range c.rows)) (dmaBegun s t e, 0)) := by
  have ho' : (fieldOf (leField e.cmd 0 4) 0 8 == 0x31) = true := by rw [ho]; rfl
  simp only [dmaBegin, hm, ho', hr, hd, Option.bind_some, Option.isSome_none, b2n, Bool.false_eq_true, if_false, if_true, dmaBegun]

end

/-! ### A DMA command that enters its queue -/

/-- The entry of a DMA command in the queue. -/
def dmaEntry (x : Tile) (b : List Byte) : DmaEntry :=
  let c := DmaCmd.ofBytes b
  ⟨x.cmds, x.pos, b, x.bases.getD c.slot 0, if c.mcast then some x.mcasts else none, false, 0⟩

/-- The tile with a DMA command in its queue. -/
def Tile.queueDma (x : Tile) (b : List Byte) : Tile :=
  { x with
    qdma := x.qdma ++ [dmaEntry x b], cmds := x.cmds + 1, mcasts := if (DmaCmd.ofBytes b).mcast then x.mcasts + 1 else x.mcasts }

/-- The state with a DMA command in the queue and dispatch gone on. -/
def dmaQueued (s : State) (t r : Nat) (d : Desc) (x : Tile) (b : List Byte) : State :=
  setTile (noteWrites (setTile s t x) r d.seq (cmdRanges (setTile s t x) d.part t x b)) t (x.queueDma b).onward

section
variable {s : State} {t r : Nat} {d : Desc} {x : Tile} {b : List Byte} (hd : Dispatches s t r d x b)
include hd

theorem dmaQueue_dispatches (hm : x.more d) : dmaQueue (setTile s t x) t r d b =
    dmaRun (if (DmaCmd.ofBytes b).mcast then mcastOrphans (dmaQueued s t r d x b) t else dmaQueued s t r d x b) t := by
  have hadv : ∀ u, advance (setTile u t (x.queueDma b)) t (tileCmds d) = setTile u t (x.queueDma b).onward := fun u =>
    advance_setTile (ne_init_of_running (x := x.queueDma b) hd.running) hm u t
  simp only [dmaQueue, tileOf_setTile_same]
  exact congrArg (fun u => dmaRun (if (DmaCmd.ofBytes b).mcast then mcastOrphans u t else u) t) (hadv _)

theorem tileDmaIn_queues (ho : tileOp b = 0x30) (hq : x.qdma.length < 16) (hok : (DmaCmd.ofBytes b).ok false b = true)
    (hb : (DmaCmd.ofBytes b).boundsOk false (tileMask d) = true) (hm : x.more d) :
    tileDmaIn t s = dmaRun (if (DmaCmd.ofBytes b).mcast then mcastOrphans (dmaQueued s t r d x b) t else dmaQueued s t r d x b) t := by
  refine (hd.runs ho _).trans ?_
  simp only [tileOf_setTile_same, hok, hb, Bool.not_true, Bool.false_eq_true, if_false]
  rw [if_neg (Nat.not_le.2 hq)]
  exact dmaQueue_dispatches hd hm

theorem tileDmaOut_queues (ho : tileOp b = 0x31) (hq : x.qdma.length < 16) (hok : (DmaCmd.ofBytes b).ok true b = true)
    (hcf : d.cf = false ∨ (DmaCmd.ofBytes b).mode = 0) (hb : (DmaCmd.ofBytes b).boundsOk true (tileMask d) = true) (hm : x.more d) :
    tileDmaOut t s = dmaRun (if (DmaCmd.ofBytes b).mcast then mcastOrphans (dmaQueued s t r d x b) t else dmaQueued s t r d x b) t := by
  have hcf' : (d.cf && (DmaCmd.ofBytes b).mode != 0) = false := by rcases hcf with e | e <;> simp [e]
  refine (hd.runs ho _).trans ?_
  simp only [tileOf_setTile_same, hok, hb, hcf', Bool.not_true, Bool.false_eq_true, if_false]
  rw [if_neg (Nat.not_le.2 hq)]
  exact dmaQueue_dispatches hd hm

omit hd in
theorem tileOf_dmaQueued_other {u : Nat} (h : u ≠ t) : tileOf (dmaQueued s t r d x b) u = tileOf s u := by
  rw [dmaQueued, tileOf_setTile_other _ _ _ _ h, tileOf_congr (tiles_noteWrites _ _ _ _), tileOf_setTile_other _ _ _ _ h]

omit hd in
theorem tileOf_dmaQueued : tileOf (dmaQueued s t r d x b) t = (x.queueDma b).onward := tileOf_setTile_same _ _ _

theorem running_dmaQueued : (tileOf (dmaQueued s t r d x b) t).running = some (r, d.seq) := by
  rw [tileOf_dmaQueued]
  exact hd.running

theorem findDesc_dmaQueued : ∃ e, findDesc (dmaQueued s t r d x b) r d.seq = some e ∧ e.part = d.part := by
  obtain ⟨-, -, hf, -⟩ := hd
  exact findDesc_noteWrites (s := setTile s t x) hf _

theorem Dispatches.not_stopped : x.stopped = false := by
  rw [hd.tile]
  exact hd.2.2.2.2.1

/-- A tile whose queue was empty may begin the command that entered it. -/
theorem dmaNext_dmaQueued (hq : x.qdma = []) : dmaNext (tileOf (dmaQueued s t r d x b) t) = some (dmaEntry x b) := by
  have hstop : (x.queueDma b).onward.stopped = false := hd.not_stopped
  have hqueue : (x.queueDma b).onward.qdma = [dmaEntry x b] := by
    show x.qdma ++ [dmaEntry x b] = _
    rw [hq, List.nil_append]
  have hfind : [dmaEntry x b].find? (fun e => !(e.begun && e.parts == 0)) = some (dmaEntry x b) := rfl
  rw [tileOf_dmaQueued, dmaNext, hstop, hqueue, hfind]
  rfl

omit hd in
/-- The tile's one command has begun. -/
theorem begun_dmaBegun (hq : x.qdma = []) :
    ∀ e ∈ (tileOf (dmaBegun (dmaQueued s t r d x b) t (dmaEntry x b)) t).qdma, e.begun = true := by
  intro e he
  rw [dmaBegun, tileOf_setTile_same, tileOf_dmaQueued] at he
  have hqueue : (x.queueDma b).onward.qdma = [dmaEntry x b] := by
    show x.qdma ++ [dmaEntry x b] = _
    rw [hq, List.nil_append]
  obtain ⟨y, hy, rfl⟩ := List.mem_map.1 he
  rw [hqueue, List.mem_singleton] at hy
  subst hy
  rw [if_pos rfl]

/-- With its group quiet before, the group is quiet once the tile's one command has begun. -/
theorem quiet_dmaBegun (hq : x.qdma = []) (hother : ∀ u ∈ groupTiles t, u ≠ t → dmaNext (tileOf s u) = none) :
    DmaQuiet (dmaBegun (dmaQueued s t r d x b) t (dmaEntry x b)) t := by
  intro u hu
  by_cases hut : u = t
  · subst hut
    exact dmaNext_of_begun (begun_dmaBegun hq)
  · rw [dmaBegun, tileOf_setTile_other _ _ _ _ hut, tileOf_dmaQueued_other hut]
    exact hother u hu hut

/-- A command whose parts keep the tiles runs alone: the queues begin it and stop. -/
theorem dmaRun_dmaQueued (hq : x.qdma = []) (hother : ∀ u ∈ groupTiles t, u ≠ t → dmaNext (tileOf s u) = none)
    {f : State → DmaMove → Except MemErr (State × Nat)} (hf : KeepsTiles f) {l : List DmaMove} {v : State}
    (hv : v.tiles = (dmaBegun (dmaQueued s t r d x b) t (dmaEntry x b)).tiles)
    (hbegin : dmaBegin (dmaQueued s t r d x b) t (dmaEntry x b) = movesEnd t (dmaEntry x b) (runMoves f l (v, 0))) :
    dmaRun (dmaQueued s t r d x b) t = movesEnd t (dmaEntry x b) (runMoves f l (v, 0)) := by
  have htiles := (runMoves_tiles hf l v 0).trans hv
  refine (dmaRun_alone (dmaNext_dmaQueued hd hq) (fun u hu hne => ?_) ?_).trans hbegin
  · rw [tileOf_dmaQueued_other hne]
    exact hother u hu hne
  · rw [hbegin]
    refine ((quiet_dmaBegun hd hq hother).of_tiles htiles).movesEnd ?_ _
    rw [tileOf_congr htiles]
    exact begun_dmaBegun hq

end

theorem zeroFill_tiles (c : DmaCmd) (t : Nat) (s : State) : (c.zeroFill t s).tiles = s.tiles := by
  unfold DmaCmd.zeroFill
  split
  · exact foldl_keeps State.tiles (by intros; rfl) _ _
  · rfl

theorem keepsTiles_out (t p mode : Nat) (at_ key : DmaMove → Nat) (src : VatFrom) : KeepsTiles (fun s m =>
    if poisoned s (key m) m.len then .error (.bad (at_ m) (key m)) else moveOut s t p mode (at_ m) (getBytes s (key m) m.len) src) := by
  intro s m u k h
  obtain ⟨-, h⟩ | ⟨-, h⟩ := ite_eq_iff.1 h
  · cases h
  · exact moveOut_tiles h

section
variable {s : State} {t r : Nat} {d : Desc} {x : Tile} {b : List Byte} (hd : Dispatches s t r d x b)
include hd

theorem tileDmaIn_first (ho : tileOp b = 0x30) (hok : (DmaCmd.ofBytes b).ok false b = true)
    (hb : (DmaCmd.ofBytes b).boundsOk false (tileMask d) = true) (hm : x.more d) (hc : (DmaCmd.ofBytes b).mcast = false) (hq : x.qdma = [])
    (hother : ∀ u ∈ groupTiles t, u ≠ t → dmaNext (tileOf s u) = none) :
    tileDmaIn t s =
      let c := DmaCmd.ofBytes b
      let e := dmaEntry x b
      let at_ := fun (m : DmaMove) => c.memAddr e.base m.row + m.off
      movesEnd t e (runMoves (fun s m => moveIn s t d.part (at_ m) m.len [spKey t (c.spAddr false m)] (.tile t e.no (spKey t (c.spAddr false m))))
        (c.moves false e.base (List.range c.rows)) (c.zeroFill t (dmaBegun (dmaQueued s t r d x b) t e), 0)) := by
  have hlen : x.qdma.length < 16 := by rw [hq]; decide
  have halone : (dmaEntry x b).mcast = none := by simp only [dmaEntry, hc, Bool.false_eq_true, if_false]
  obtain ⟨d', hd', hpart⟩ := findDesc_dmaQueued hd
  have hbegin := dmaBegin_in (e := dmaEntry x b) halone ho (running_dmaQueued hd) hd'
  rw [hpart] at hbegin
  rw [tileDmaIn_queues hd ho hlen hok hb hm, hc, if_neg Bool.false_ne_true]
  exact dmaRun_dmaQueued hd hq hother (fun _ _ _ _ h => moveIn_tiles h) (zeroFill_tiles _ _ _) hbegin

theorem tileDmaOut_first (ho : tileOp b = 0x31) (hok : (DmaCmd.ofBytes b).ok true b = true)
    (hcf : d.cf = false ∨ (DmaCmd.ofBytes b).mode = 0) (hb : (DmaCmd.ofBytes b).boundsOk true (tileMask d) = true) (hm : x.more d)
    (hc : (DmaCmd.ofBytes b).mcast = false) (hq : x.qdma = []) (hother : ∀ u ∈ groupTiles t, u ≠ t → dmaNext (tileOf s u) = none) :
    tileDmaOut t s =
      let c := DmaCmd.ofBytes b
      let e := dmaEntry x b
      let at_ := fun (m : DmaMove) => c.memAddr e.base m.row + m.off
      movesEnd t e (runMoves (fun s m => if poisoned s (spKey t (c.spAddr true m)) m.len then .error (.bad (at_ m) (spKey t (c.spAddr true m)))
          else moveOut s t d.part c.mode (at_ m) (getBytes s (spKey t (c.spAddr true m)) m.len) (.tile t e.no 0))
        (c.moves true e.base (List.range c.rows)) (dmaBegun (dmaQueued s t r d x b) t e, 0)) := by
  have hlen : x.qdma.length < 16 := by rw [hq]; decide
  have halone : (dmaEntry x b).mcast = none := by simp only [dmaEntry, hc, Bool.false_eq_true, if_false]
  obtain ⟨d', hd', hpart⟩ := findDesc_dmaQueued hd
  have hbegin := dmaBegin_out (e := dmaEntry x b) halone ho (running_dmaQueued hd) hd'
  rw [hpart] at hbegin
  rw [tileDmaOut_queues hd ho hlen hok hcf hb hm, hc, if_neg Bool.false_ne_true]
  exact dmaRun_dmaQueued hd hq hother (keepsTiles_out _ _ _ _ _ _) rfl hbegin

end

theorem mcast_of_ok_out {c : DmaCmd} {b : List Byte} (h : c.ok true b = true) : c.mcast = false := by
  unfold DmaCmd.ok at h
  simp only [Bool.and_eq_true] at h
  obtain ⟨⟨⟨-, hm⟩, -⟩, -⟩ := h
  simpa using hm

theorem column_lt_of_mem_blockCells {m n : Nat} {c : Nat × Nat} (h : c ∈ blockCells m n) : c.2 < n := ((mem_blockCells m n c.1 c.2).1 h).2

/-- What an ACCST leaves in its cells and outside them. -/
theorem accstStored_spec {s : State} {t : Nat} {set : AccSet} {b : List Byte} {d : Desc} {lo : Nat} (hc : accCheck d b set.tag lo = none) :
    (∀ i j, i < fieldOf (leField b 12 4) 0 6 → j < fieldOf (leField b 12 4) 8 6 →
      leNat (getBytes (accstStored s t set b) (blockKey t (tagBytes set.tag) b (i, j)) (tagBytes set.tag)) =
        accstCell set b (i, j) (leNat (getBytes s (blockKey t (tagBytes set.tag) b (i, j)) (tagBytes set.tag))) % 2 ^ (8 * tagBytes set.tag)) ∧
    ∀ key, (∀ i, i < fieldOf (leField b 12 4) 0 6 → key < blockKey t (tagBytes set.tag) b (i, 0) ∨
      blockKey t (tagBytes set.tag) b (i, 0) + fieldOf (leField b 12 4) 8 6 * tagBytes set.tag ≤ key) →
      byteAt (accstStored s t set b) key = byteAt s key := by
  obtain ⟨-, hpitch, -⟩ := accCheck_none hc
  refine ⟨fun i j hi hj => ?_, fun key hkey => byteAt_putCells _ (fun c hc => ?_) s⟩
  · rw [accstStored, getBytes_putCells _ (nodup_blockCells _ _) (fun a ha c hc hne =>
      blockKey_apart t hpitch (column_lt_of_mem_blockCells ha) (column_lt_of_mem_blockCells hc) hne) ((mem_blockCells _ _ i j).2 ⟨hi, hj⟩),
      leNat_leBytes]
  · obtain ⟨i, j⟩ := c
    obtain ⟨hi, hj⟩ := (mem_blockCells _ _ i j).1 hc
    have hcell : (j + 1) * tagBytes set.tag ≤ fieldOf (leField b 12 4) 8 6 * tagBytes set.tag := Nat.mul_le_mul_right _ hj
    rw [Nat.succ_mul] at hcell
    rw [blockKey_eq t _ b i j]
    rcases hkey i hi with h | h
    · exact .inl (by omega)
    · exact .inr (by omega)

/-- Settles O38: ACCST replaces its cells, which lie apart; a VEC and a DMA command run when they dispatch, and with the group's queues quiet one
round of them is all. -/
theorem tileStoreVectorAndDma : Obligations.TileStoreVectorAndDma := by
  unfold Obligations.TileStoreVectorAndDma
  intro s t r d x b hd s0 h w1 w3
  have hon : ∀ {u v : State}, u = v → onUnit (isTile t) u = .next v := fun e => (onUnit_next hd.on _).trans (congrArg _ e)
  refine ⟨fun ho hq h0 hc => ?_, fun v ho hq hv => hon (tileVec_runs hd ho hq hv), ?_⟩
  · intro set esz addr hok
    have hzero : ∀ i, addr i 0 = blockKey t esz b (i, 0) := fun i => rfl
    obtain ⟨hcells, hrest⟩ := accstStored_spec (s := s0) (t := t) hc
    exact ⟨accstStored s0 t set b, onlyBytes_putCells _ _, hon (tileAccst_valid hd ho hq h0 hc hok), hcells, hrest⟩
  · intro c base e queued begun first at_
    refine ⟨fun ho hq hok hb hm => ⟨fun hc => ?_, fun hc hf => ?_⟩, fun ho hq hok hcf hb hm hf => ?_⟩
    · have hrun := tileDmaIn_queues hd ho hq hok hb hm
      rw [if_pos hc] at hrun
      exact hon hrun
    · exact hon (tileDmaIn_first hd ho hok hb hm hc hf.1 hf.2)
    · exact hon (tileDmaOut_first hd ho hok hcf hb hm (mcast_of_ok_out hok) hf.1 hf.2)

end Sys2Proof.Machine
end

section
/-! SUPPORT. The ends of tile commands, descriptors and groups (03 R72, R83, R86, R88, R91, R92). -/

namespace Sys2Proof.Machine

/-! ### The heads of a tile's queues -/

section
variable {x : Tile}

theorem complete_mat {c : MatCmd} {rest : List MatCmd} (hq : x.qmat = c :: rest)
    (h : c.writes = false ∨ ∀ v, v ∈ x.qvec → v.no < c.no → v.sets.contains c.set = false) : x.complete .mat = some { x with qmat := rest } := by
  have hfree : (c.writes && x.qvec.any (fun v => decide (v.no < c.no) && v.sets.contains c.set)) = false := by
    rcases h with h | h
    · rw [h, Bool.false_and]
    · rw [Bool.and_eq_false_iff, List.any_eq_false]
      refine .inr fun v hv => ?_
      by_cases hno : v.no < c.no
      · rw [h v hv hno, Bool.and_false]
        exact Bool.false_ne_true
      · rw [decide_eq_false hno, Bool.false_and]
        exact Bool.false_ne_true
  simp only [Tile.complete, hq, hfree, Bool.false_eq_true, if_false]

theorem complete_mat_held {c : MatCmd} {rest : List MatCmd} (hq : x.qmat = c :: rest) (hw : c.writes = true) {v : VecCmd} (hv : v ∈ x.qvec)
    (hno : v.no < c.no) (hset : v.sets.contains c.set = true) : x.complete .mat = none := by
  have hheld : (c.writes && x.qvec.any (fun v => decide (v.no < c.no) && v.sets.contains c.set)) = true := by
    rw [hw, Bool.true_and, List.any_eq_true]
    exact ⟨v, hv, by rw [decide_eq_true hno, hset]; rfl⟩
  simp only [Tile.complete, hq, hheld, if_true]

theorem complete_vec {v : VecCmd} {rest : List VecCmd} (hq : x.qvec = v :: rest) (hp : v.posts = 0)
    (h : ∀ c, c ∈ x.qmat → c.writes = true → c.no < v.no → v.sets.contains c.set = false) : x.complete .vec = some { x with qvec := rest } := by
  have hfree : (v.posts != 0 || x.qmat.any (fun c => c.writes && decide (c.no < v.no) && v.sets.contains c.set)) = false := by
    rw [hp, bne_self_eq_false, Bool.false_or, List.any_eq_false]
    intro c hc hall
    simp only [Bool.and_eq_true, decide_eq_true_eq] at hall
    obtain ⟨⟨hw, hno⟩, hset⟩ := hall
    rw [h c hc hw hno] at hset
    cases hset
  simp only [Tile.complete, hq, hfree, Bool.false_eq_true, if_false]

theorem complete_vec_held {v : VecCmd} {rest : List VecCmd} (hq : x.qvec = v :: rest) {c : MatCmd} (hc : c ∈ x.qmat) (hw : c.writes = true)
    (hno : c.no < v.no) (hset : v.sets.contains c.set = true) : x.complete .vec = none := by
  have hheld : (v.posts != 0 || x.qmat.any (fun c => c.writes && decide (c.no < v.no) && v.sets.contains c.set)) = true := by
    rw [Bool.or_eq_true, List.any_eq_true]
    exact .inr ⟨c, hc, by rw [hw, decide_eq_true hno, hset]; rfl⟩
  simp only [Tile.complete, hq, hheld, if_true]

theorem complete_dma {e : DmaEntry} {rest : List DmaEntry} (hq : x.qdma = e :: rest) (hb : e.begun = true) (hp : e.parts = 0) :
    x.complete .dma = some { x with qdma := rest } := by
  simp only [Tile.complete, hq, hb, hp, beq_self_eq_true, Bool.and_self, if_true]

theorem complete_dma_held {e : DmaEntry} {rest : List DmaEntry} (hq : x.qdma = e :: rest) (h : e.begun = false ∨ e.parts ≠ 0) :
    x.complete .dma = none := by
  have hheld : (e.begun && e.parts == 0) = false := by
    rcases h with h | h
    · rw [h, Bool.false_and]
    · rw [beq_eq_false_iff_ne.2 h, Bool.and_false]
  simp only [Tile.complete, hq, hheld, Bool.false_eq_true, if_false]

end

section
variable {s : State} {t r : Nat} {seq : BitVec 32} {q : QueueId}

theorem tileQueueComplete_some (hr : (tileOf s t).running = some (r, seq)) {y : Tile} (h : (tileOf s t).complete q = some y) :
    tileQueueComplete t q s = tileFinish (setTile s t y) r seq := by
  simp only [tileQueueComplete, hr, h]

theorem tileQueueComplete_none (h : (tileOf s t).complete q = none) : tileQueueComplete t q s = s := by
  simp only [tileQueueComplete, h]
  cases (tileOf s t).running <;> rfl

end

/-! ### A failed or aborted descriptor -/

section
variable {s : State} {r : Nat} {seq : BitVec 32} {d : Desc} {wrote : List (Nat × Nat)} (hd : runningDesc s r seq 1 = some d)
  (hw : d.work = .tile wrote) (hb : (tilesOn s r seq).any (fun t => vatBusy s t) = false)
include hd hw hb

theorem tileQuiesce_failed {st detail : Nat} (hf : ((tilesOn s r seq).filterMap (fun t => (tileOf s t).failed)).head? = some (st, detail)) :
    tileQuiesce r seq s = settleAll (completeOne (tileScramble s r d wrote) r d (BitVec.ofNat 16 st) detail false) := by
  simp only [tileQuiesce, hd, hb, hw, hf, Bool.false_eq_true, if_false]

theorem tileQuiesce_aborted (hf : ((tilesOn s r seq).filterMap (fun t => (tileOf s t).failed)).head? = none) (hs : d.struck = none)
    (ha : d.abort = true) : tileQuiesce r seq s = settleAll (completeOne (tileScramble s r d wrote) r d St.aborted 0 false) := by
  simp only [tileQuiesce, hd, hb, hw, hf, hs, ha, Bool.false_eq_true, if_false]

end

/-! ### A zeroed tile group -/

/-- The first `n` tiles of a group zeroed. -/
def tilesZeroed (s : State) (g n : Nat) : State :=
  (List.range n).foldl (fun s j =>
    let t := 8 * g + j
    setTile (zeroRange s (spKey t 0) (spKey (t + 1) 0)) t { tileOf s t with accs := List.replicate 4 AccSet.init }) s

theorem tilesZeroed_succ (s : State) (g n : Nat) : tilesZeroed s g (n + 1) =
    setTile (zeroRange (tilesZeroed s g n) (spKey (8 * g + n) 0) (spKey (8 * g + n + 1) 0)) (8 * g + n)
      { tileOf (tilesZeroed s g n) (8 * g + n) with accs := List.replicate 4 AccSet.init } := by
  simp only [tilesZeroed, List.range_succ, List.foldl_append, List.foldl_cons, List.foldl_nil]

theorem spKey_mono {t u : Nat} (h : t ≤ u) : spKey t 0 ≤ spKey u 0 := by
  unfold spKey
  omega

/-- Zeroing tiles touches memory and the tiles alone. -/
def OnlyZeroed (s u : State) : Prop := u = { s with mem := u.mem, poison := u.poison, tiles := u.tiles }

theorem OnlyZeroed.step {s u : State} (h : OnlyZeroed s u) (lo hi t : Nat) (x : Tile) : OnlyZeroed s (setTile (zeroRange u lo hi) t x) := by
  unfold OnlyZeroed at h
  rw [h]
  rfl

theorem OnlyZeroed.setGroup {s u : State} (h : OnlyZeroed s u) (g : Nat) (x : Group) :
    Machine.setGroup u g x = { s with
      mem := (Machine.setGroup u g x).mem, poison := (Machine.setGroup u g x).poison, tiles := (Machine.setGroup u g x).tiles,
      groups := (Machine.setGroup u g x).groups } := by
  unfold OnlyZeroed at h
  rw [h]
  rfl

theorem onlyZeroed_tilesZeroed (s : State) (g n : Nat) : OnlyZeroed s (tilesZeroed s g n) := by
  induction n with
  | zero => rfl
  | succ n ih =>
    rw [tilesZeroed_succ]
    exact ih.step _ _ _ _

theorem byteAt_setTile (s : State) (t key : Nat) (x : Tile) : byteAt (setTile s t x) key = byteAt s key := rfl

theorem tileOf_zeroRange (s : State) (lo hi j : Nat) : tileOf (zeroRange s lo hi) j = tileOf s j := rfl

theorem byteAt_tilesZeroed (s : State) (g n key : Nat) :
    byteAt (tilesZeroed s g n) key = if spKey (8 * g) 0 ≤ key ∧ key < spKey (8 * g + n) 0 then 0#8 else byteAt s key := by
  induction n with
  | zero =>
    rw [Nat.add_zero, if_neg (by omega)]
    rfl
  | succ n ih =>
    have h1 : spKey (8 * g) 0 ≤ spKey (8 * g + n) 0 := spKey_mono (by omega)
    have h2 : spKey (8 * g + n) 0 ≤ spKey (8 * g + n + 1) 0 := spKey_mono (by omega)
    rw [tilesZeroed_succ, byteAt_setTile, byteAt_zeroRange, ih]
    by_cases hn : spKey (8 * g + n) 0 ≤ key ∧ key < spKey (8 * g + n + 1) 0
    · rw [if_pos hn, if_pos (by rw [← Nat.add_assoc]; omega)]
    · rw [if_neg hn]
      refine if_congr ?_ rfl rfl
      rw [← Nat.add_assoc]
      omega

theorem tileOf_tilesZeroed (s : State) (g n j : Nat) : tileOf (tilesZeroed s g n) j =
    if 8 * g ≤ j ∧ j < 8 * g + n then { tileOf s j with accs := List.replicate 4 AccSet.init } else tileOf s j := by
  induction n with
  | zero =>
    rw [if_neg (by omega)]
    rfl
  | succ n ih =>
    rw [tilesZeroed_succ]
    by_cases hj : j = 8 * g + n
    · subst hj
      rw [tileOf_setTile_same, ih, if_neg (by omega), if_pos (by omega)]
    · rw [tileOf_setTile_other _ _ _ _ hj, tileOf_zeroRange, ih]
      refine if_congr ?_ rfl rfl
      omega

theorem groupOf_tilesZeroed (s : State) (g n k : Nat) : groupOf (tilesZeroed s g n) k = groupOf s k := by
  have h := onlyZeroed_tilesZeroed s g n
  unfold OnlyZeroed at h
  rw [h]
  rfl

theorem groupOf_setGroup_other (s : State) (g k : Nat) (x : Group) (h : k ≠ g) : groupOf (setGroup s g x) k = groupOf s k := by
  simp only [groupOf, setGroup, sget_sset_other _ _ _ _ _ h]

theorem tileOf_setGroup (s : State) (g j : Nat) (x : Group) : tileOf (setGroup s g x) j = tileOf s j := rfl

theorem byteAt_setGroup (s : State) (g key : Nat) (x : Group) : byteAt (setGroup s g x) key = byteAt s key := rfl

theorem tileGroupZeroed_done {s : State} {g : Nat} (hz : (groupOf s g).zeroing = true) (hc : s.commit = none) :
    tileGroupZeroed g s = setGroup (tilesZeroed s g 8) g { groupOf s g with zeroing := false } := by
  have hgo : tileGroupZeroed g s = setGroup (tilesZeroed s g 8) g { groupOf (tilesZeroed s g 8) g with zeroing := false } := by
    simp only [tileGroupZeroed, tilesZeroed, hz, hc, Bool.not_false, Bool.and_self, if_true]
  rw [hgo, groupOf_tilesZeroed]

/-- Settles O39: the head of a queue completes or is held by its hazard, a quiet descriptor takes its first status, and the zeroing walks the tiles. -/
theorem tileQueuesQuiesceAndZeroing : Obligations.TileQueuesQuiesceAndZeroing := by
  unfold Obligations.TileQueuesQuiesceAndZeroing
  refine ⟨fun s t r seq ht hr => ?_, fun s r seq d wrote hlt hd hw hb => ?_, fun s g hg hz hc => ?_⟩
  · intro x
    have hon : ∀ {u v : State}, u = v → onUnit (isTile t) u = .next v := fun e => (onUnit_next ht _).trans (congrArg _ e)
    refine ⟨fun c rest hq => ⟨fun h => ?_, fun v hw hv hno hset => ?_⟩, fun v rest hq => ⟨fun hp h => ?_, fun c hc hw hno hset => ?_⟩,
      fun e rest hq => ⟨fun hb hp => ?_, fun h => ?_⟩⟩
    · exact hon (tileQueueComplete_some hr (complete_mat hq h))
    · exact hon (tileQueueComplete_none (complete_mat_held hq hw hv hno hset))
    · exact hon (tileQueueComplete_some hr (complete_vec hq hp h))
    · exact hon (tileQueueComplete_none (complete_vec_held hq hc hw hno hset))
    · exact hon (tileQueueComplete_some hr (complete_dma hq hb hp))
    · exact hon (tileQueueComplete_none (complete_dma_held hq h))
  · intro failed
    have hon : ∀ {u v : State}, u = v → onUnit (decide (r < 4096)) u = .next v := fun e =>
      (onUnit_next (decide_eq_true hlt) _).trans (congrArg _ e)
    exact ⟨fun st detail hf => hon (tileQuiesce_failed hd hw hb hf), fun hf hs ha => hon (tileQuiesce_aborted hd hw hb hf hs ha)⟩
  · refine ⟨setGroup (tilesZeroed s g 8) g { groupOf s g with zeroing := false },
      (onUnit_next (decide_eq_true hg) _).trans (congrArg _ (tileGroupZeroed_done hz hc)), (onlyZeroed_tilesZeroed s g 8).setGroup g _,
      groupOf_setGroup_same _ _ _, fun k hk => ?_, fun j => ?_, fun key => ?_⟩
    · rw [groupOf_setGroup_other _ _ _ _ hk, groupOf_tilesZeroed]
    · rw [tileOf_setGroup, tileOf_tilesZeroed]
      refine if_congr ?_ rfl rfl
      omega
    · rw [byteAt_setGroup, byteAt_tilesZeroed]

end Sys2Proof.Machine
end

section
/-! SUPPORT. Scale units, the optimiser and sparse iteration: each command takes the branch of its case (05 R143 to R165, 06 R180 to R207). -/

namespace Sys2Proof.Machine

/-! ### Scale units -/

theorem scuPost_accepts {s : State} {k : Nat} {q : Post} (hq : s.posts.find? (fun q => q.die == k) = some q) (hf : fenced s 4 k = false) :
    scuPost k s = postAccepted { s with
      posts := s.posts.erase q
      scuOpen := sset (fun _ => OpenRec.mk 0 false false) s.scuOpen (openKey k q.part q.slot)
        ((openOf s k q.part q.slot).join q.amax q.ovf) } q := by
  have hf' : fenced { s with posts := s.posts.erase q } 4 k = false := hf
  simp only [scuPost, hq, hf, Bool.false_eq_true, if_false]
  rfl

section
variable {s : State} {r op : Nat} {seq : BitVec 32} {d : Desc} (hd : startable s r seq 5 op = some d)
  (hf : (partDies s d.part).any (fun k => fenced s 4 k) = false)
include hd hf

/-- An SCU descriptor over slots that exist runs where its work succeeds. -/
theorem scuStart_runs (hn : scuFirst d + scuCount d ≤ (scuSample s d.part).nslots) {k : Desc → ScuWork → Except Fail State} {u : State}
    (hk : k d (scuSample s d.part) = .ok u) : scuStart r seq op s k = startWork u r d (.scu (scuSample s d.part)) := by
  have hin : (decide (op ≠ 1) && decide ((scuSample s d.part).nslots < scuFirst d + scuCount d)) = false := by
    rw [decide_eq_false (Nat.not_lt.2 hn), Bool.and_false]
  simp only [scuStart, hd, hf, hin, hk, Bool.false_eq_true, if_false]

end

section
variable {s : State} {r : Nat} {seq : BitVec 32} {d : Desc} (hf : (partDies s d.part).any (fun k => fenced s 4 k) = false)
include hf

theorem scuReset_runs (hd : startable s r seq 5 0 = some d) (hn : scuFirst d + scuCount d ≤ (scuSample s d.part).nslots) {cfgs : List SlotCfg}
    (hc : slotCfgs s d.part (scuSample s d.part).cfg (scuSample s d.part).nslots (List.range (scuSample s d.part).nslots) = .ok cfgs) {u : State}
    (hu : let p := d.part
      let w := scuSample s p
      let range := scuRange d
      let s1 := range.foldl (fun s i => match cfgs[i]? with
        | some c => setSlotScu s p i (if c.fmt = 0 then { ScuSlot.init with q := one32, d := one32 }
            else { ScuSlot.init with q := c.initQ, d := ratio32 1 0 (parts32 c.initQ).1 (parts32 c.initQ).2 })
        | none => s) s
      let s2 := clearOpen (setDp s1 p cfgs range) p (scuFirst d) (scuCount d)
      writeAll s2 p (tableWrites s2 p w.table w.nslots 0 range ++ tableWrites s2 p w.table w.nslots 1 range) = .ok u) :
    scuReset r seq s = startWork (setReg u (pkey d.part Reg.scuStep) (scuStepOf d)) r d (.scu (scuSample s d.part)) := by
  refine scuStart_runs hd hf hn ?_
  simp only [hc]
  exact (congrArg (fun e : Except MemErr State => match e with
    | .error e => (.error (memFail St.dmaAddress e) : Except Fail State)
    | .ok s3 => .ok (setReg s3 (pkey d.part Reg.scuStep) (scuStepOf d))) hu)

theorem scuSave_runs (hd : startable s r seq 5 2 = some d) (hn : scuFirst d + scuCount d ≤ (scuSample s d.part).nslots) {u : State}
    (hu : writeVa s d.part (scuAddr d) (layoutBytes 32 [(0, 8, pfld s d.part Reg.scuStep 0 64), (8, 2, scuFirst d), (10, 2, scuCount d)] ++
      (scuRange d).flatMap (fun i => imageRec (slotOfScu s d.part i))) = .ok u) :
    scuSave r seq s = startWork u r d (.scu (scuSample s d.part)) := by
  refine scuStart_runs hd hf hn ?_
  simp only [hu]

theorem scuClose_otherStep (hd : startable s r seq 5 1 = some d) (hstep : scuStepOf d ≠ pfld s d.part Reg.scuStep 0 64) :
    scuClose r seq s = endDesc s r d St.scuStep 0 := by
  simp only [scuClose, hd, hf, Bool.false_eq_true, if_false]
  exact if_pos hstep

theorem scuLoad_runs (hd : startable s r seq 5 3 = some d) (hn : scuFirst d + scuCount d ≤ (scuSample s d.part).nslots) {b : List Byte}
    (hb : readVa s d.part (scuAddr d) (32 + 96 * scuCount d) = .ok b) (h8 : leField b 8 2 = scuFirst d) (h10 : leField b 10 2 = scuCount d)
    {recs : List (Nat × Option ScuSlot)}
    (hr : recs = (List.range (scuCount d)).map (fun i => (i + scuFirst d, slotOfImage ((b.drop (32 + 96 * i)).take 96))))
    (hall : recs.all (fun x => x.2.isSome) = true) {u : State}
    (hu : let p := d.part
      let w := scuSample s p
      let range := scuRange d
      let s2 := clearOpen (recs.foldl (fun s x => match x.2 with | some y => setSlotScu s p x.1 y | none => s) s) p (scuFirst d) (scuCount d)
      writeAll s2 p (tableWrites s2 p w.table w.nslots 0 range ++ tableWrites s2 p w.table w.nslots 1 range) = .ok u) :
    scuLoad r seq s = startWork (setReg u (pkey d.part Reg.scuStep) (leField b 0 8)) r d (.scu (scuSample s d.part)) := by
  refine scuStart_runs hd hf hn ?_
  have hany : recs.any (fun x => x.2.isNone) = false := by
    rw [List.any_eq_false]
    intro x hx
    have hsome := List.all_eq_true.1 hall x hx
    rw [Option.isNone_eq_false_iff.2 hsome]
    exact Bool.false_ne_true
  subst hr
  simp only [hb]
  rw [if_neg (by simp only [h8, h10, ne_eq, not_true_eq_false, or_self, not_false_iff]), if_neg (by rw [hany]; exact Bool.false_ne_true)]
  exact (congrArg (fun e : Except MemErr State => match e with
    | .error e => (.error (memFail St.dmaAddress e) : Except Fail State)
    | .ok s3 => .ok (setReg s3 (pkey d.part Reg.scuStep) (leField b 0 8))) hu)

/-- The open records that a CLOSE takes. -/
def closeTakes (s : State) (p i : Nat) : OpenRec := if i < (scuSample s p).nslots then gatherOpen s p i else ⟨0, false, false⟩

/-- The taken records as a map. -/
def closeTaken (s : State) (p : Nat) : Sparse OpenRec :=
  (List.range (scuSample s p).nslots).foldl (fun m i => sset (fun _ => OpenRec.mk 0 false false) m i (closeTakes s p i)) []

variable (hd : startable s r seq 5 1 = some d) (hstep : scuStepOf d = pfld s d.part Reg.scuStep 0 64) {cfgs : List (List Byte)}
  (hc : slotEntries s d.part (scuSample s d.part).cfg (scuSample s d.part).nslots (List.range (scuSample s d.part).nslots) = .ok cfgs)
include hd hstep hc

theorem scuClose_single {u : State} (h0 : d.fld 29 1 = 0)
    (hu : closeWith s d.part (scuStepOf d) { scuSample s d.part with cfgs := cfgs } (closeTakes s d.part) = .ok u) :
    scuClose r seq s = startWork (clearOpen u d.part 0 4096) r d (.scu { scuSample s d.part with cfgs := cfgs }) := by
  simp only [scuClose, hd, hf, hc, Bool.false_eq_true, if_false]
  rw [if_neg (not_not.2 hstep), if_pos h0]
  exact congrArg (fun e : Except Fail State => match e with
    | .error e => endFail s r d e 0
    | .ok s1 => startWork (clearOpen s1 d.part 0 4096) r d (.scu { scuSample s d.part with cfgs := cfgs })) hu

theorem scuClose_group (h0 : d.fld 29 1 ≠ 0) : scuClose r seq s =
    let ops := closeOps r d (scuSample s d.part).nslots (closeTakes s d.part)
    let s1 := startWork (clearOpen s d.part 0 4096) r d
      (.scu { scuSample s d.part with cfgs := cfgs, taken := closeTaken s d.part, opsLeft := ops.length })
    { s1 with mordantWait := s1.mordantWait ++ ops } := by
  simp only [scuClose, hd, hf, hc, Bool.false_eq_true, if_false]
  rw [if_neg (not_not.2 hstep), if_neg h0]
  rfl

end

theorem sget_foldl_range {α : Type} [DecidableEq α] (d : Nat → α) (f : Nat → α) (n i : Nat) (m : Sparse α) :
    sget d ((List.range n).foldl (fun m i => sset d m i (f i)) m) i = if i < n then f i else sget d m i := by
  induction n with
  | zero => rfl
  | succ n ih =>
    rw [List.range_succ, List.foldl_append, List.foldl_cons, List.foldl_nil, sget_sset, ih]
    by_cases hi : i = n
    · subst hi
      rw [if_pos rfl, if_pos (Nat.lt_succ_self i)]
    · rw [if_neg hi]
      refine if_congr ?_ rfl rfl
      omega

theorem sget_closeTaken (s : State) (p i : Nat) (hi : i < (scuSample s p).nslots) :
    sget (fun _ => OpenRec.mk 0 false false) (closeTaken s p) i = gatherOpen s p i := by
  rw [closeTaken, sget_foldl_range, if_pos hi, closeTakes, if_pos hi]

section
variable {s : State} {r : Nat} {seq : BitVec 32} {d : Desc} {w : ScuWork} (hd : runningDesc s r seq 5 = some d) (hw : d.work = .scu w)
include hd hw

theorem scuDone_waits (h : 0 < w.opsLeft) : scuDone r seq s = s := by
  simp only [scuDone, hd, hw]
  exact if_pos h

theorem scuDone_completes (h : w.opsLeft = 0) (h1 : d.op ≠ 1 ∨ d.fld 29 1 ≠ 1) :
    scuDone r seq s = settleAll (completeOne s r d St.ok 0 false) := by
  simp only [scuDone, hd, hw]
  rw [if_neg (by omega), if_neg]
  rcases h1 with h1 | h1
  · exact fun e => h1 e.1
  · exact fun e => h1 e.2

theorem scuDone_closes {u : State} (h : w.opsLeft = 0) (h1 : d.op = 1) (h29 : d.fld 29 1 = 1)
    (hu : closeWith s d.part (scuStepOf d) w (groupRec w) = .ok u) : scuDone r seq s = settleAll (completeOne u r d St.ok 0 false) := by
  simp only [scuDone, hd, hw, hu]
  rw [if_neg (by omega), if_pos ⟨h1, h29⟩]

end

/-- Settles O40: a post is joined to its open record; a valid descriptor's work succeeds and it runs, and ends once its operations have answered. -/
theorem scaleUnitCommands : Obligations.ScaleUnitCommands := by
  unfold Obligations.ScaleUnitCommands
  refine ⟨fun s k q hk hq hf => ?_, fun s r seq d hr hf => ?_, fun s r seq d w hr hd hw => ?_⟩
  · intro o
    exact (onUnit_next (decide_eq_true hk) _).trans (congrArg (fun u => Host.Outcome.next (fxePoll u)) (scuPost_accepts hq hf))
  · intro p w range
    have hon : ∀ {u v : State}, u = v → onUnit (decide (r < 4096)) u = .next v := fun e =>
      (onUnit_next (decide_eq_true hr) _).trans (congrArg _ e)
    refine ⟨fun cfgs u hd hn hc hu => hon (scuReset_runs hf hd hn hc hu), fun u hd hn hu => hon (scuSave_runs hf hd hn hu),
      fun b u hd hn hb h8 h10 hall hu => hon (scuLoad_runs hf hd hn hb h8 h10 rfl hall hu),
      fun hd hstep => hon (congrArg collGo (scuClose_otherStep hf hd hstep)), fun cfgs hd hstep hc => ?_⟩
    intro w1 opened
    refine ⟨fun u h0 hu => hon (congrArg collGo (scuClose_single hf hd hstep hc h0 hu)), fun h0 => ?_⟩
    exact ⟨closeTaken s p, fun i hi => sget_closeTaken s p i hi, hon (congrArg collGo (scuClose_group hf hd hstep hc h0))⟩
  · have hon : ∀ {u v : State}, u = v → onUnit (decide (r < 4096)) u = .next v := fun e =>
      (onUnit_next (decide_eq_true hr) _).trans (congrArg _ e)
    exact ⟨fun h => hon (scuDone_waits hd hw h), fun h h1 => hon (scuDone_completes hd hw h h1), fun u h h1 h29 hu =>
      hon (scuDone_closes hd hw h h1 h29 hu)⟩

/-! ### The optimiser -/

section
variable {s : State} {r : Nat} {seq : BitVec 32} {d : Desc}

theorem optStart_runs {op : Nat} (hd : startable s r seq 2 op = some d) (hm : d.fld 20 21 &&& groupMask s d.part = d.fld 20 21)
    (hf : groupsFenced s (d.fld 20 21) = false) (hi : groupsIdle s (d.fld 20 21) = true)
    (hfirst : firstReady s r seq (fun e => descGroups e &&& d.fld 20 21 != 0) = true) (k : Desc → State) : optStart r seq op s k = k d := by
  simp only [optStart, hd, hm, hf, hi, hfirst, bne_self_eq_false, Bool.and_self, Bool.not_true, Bool.false_eq_true, if_false]

theorem optFinish_ok (r : Nat) (d : Desc) (s : State) (x : OptRun) : optFinish r d s (.ok x) =
    startWork { x.s with posts := x.s.posts ++ x.posts.map (fun q => Post.mk (optDie d) d.part r d.seq none q.1 q.2.1 q.2.2) } r d
      (.opt ⟨x.posts.length, St.ok, storeRanges s d.part x.wrote⟩) := by
  simp only [optFinish, List.length_map]

variable (hm : d.fld 20 21 &&& groupMask s d.part = d.fld 20 21) (hf : groupsFenced s (d.fld 20 21) = false)
  (hi : groupsIdle s (d.fld 20 21) = true) (hfirst : firstReady s r seq (fun e => descGroups e &&& d.fld 20 21 != 0) = true)
include hm hf hi hfirst

theorem optUpdate_runs (hd : startable s r seq 2 0 = some d)
    (hstep : (closedSteps s d.part).reverse.find? (fun x => x.1 == d.fld 44 8) = some (d.fld 44 8, false)) {b : List Byte}
    (hb : readVa s d.part (d.fld 52 6) 64 (some (optDie d)) = .ok b) {pr : OptParams} (hp : OptParams.ofBytes b = some pr) :
    optUpdate r seq s =
      optFinish r d s (optEntries d (fun s _ e => updateTensor s d (d.fld 44 8) pr e) (List.range (d.fld 42 2)) ⟨s, [], []⟩) := by
  refine (optStart_runs hd hm hf hi hfirst _).trans ?_
  simp only [hstep, hb, hp]

theorem optUpdate_skips (hd : startable s r seq 2 0 = some d)
    (hstep : (closedSteps s d.part).reverse.find? (fun x => x.1 == d.fld 44 8) = some (d.fld 44 8, true)) :
    optUpdate r seq s = startWork s r d (.opt ⟨0, St.skipped, []⟩) := by
  refine (optStart_runs hd hm hf hi hfirst _).trans ?_
  simp only [hstep]

theorem optUpdate_open (hd : startable s r seq 2 0 = some d)
    (hstep : (closedSteps s d.part).reverse.find? (fun x => x.1 == d.fld 44 8) = none) :
    optUpdate r seq s = endDesc s r d St.scuStep 0 := by
  refine (optStart_runs hd hm hf hi hfirst _).trans ?_
  simp only [hstep]

end

/-- Settles O41: over groups that are its own, idle and unfenced a descriptor runs its entries, and ends once no post of its is left. -/
theorem optimiserCommands : Obligations.OptimiserCommands := by
  unfold Obligations.OptimiserCommands
  refine ⟨fun s r seq d hr hm hf hi hfirst => ?_, fun s r seq d w hr hd hw => ?_⟩
  · intro n outcome step
    have hon : ∀ {u v : State}, u = v → onUnit (decide (r < 4096)) u = .next v := fun e =>
      (onUnit_next (decide_eq_true hr) _).trans (congrArg _ e)
    have hout : ∀ x, optFinish r d s x = outcome x := by
      intro x
      cases x with
      | error p => rfl
      | ok x => exact optFinish_ok r d s x
    refine ⟨fun b pr hd hstep hb hp => hon ((optUpdate_runs hm hf hi hfirst hd hstep hb hp).trans (hout _)),
      fun hd hstep => hon (optUpdate_skips hm hf hi hfirst hd hstep), fun hd hstep => hon (optUpdate_open hm hf hi hfirst hd hstep),
      fun pack hd => ?_⟩
    have hrun : ∀ v, optMove pack r seq s = v → exec (if pack then .pack r seq else .unpack r seq) s = .next v := by
      intro v e
      cases pack
      · exact hon e
      · exact hon e
    exact hrun _ ((optStart_runs hd hm hf hi hfirst _).trans (hout _))
  · have hon : ∀ {u v : State}, u = v → onUnit (decide (r < 4096)) u = .next v := fun e =>
      (onUnit_next (decide_eq_true hr) _).trans (congrArg _ e)
    have hdone : optDone r seq s = if w.posts = 0 then endDesc s r d w.final 0 else s := by simp only [optDone, hd, hw]
    exact ⟨fun h => hon (hdone.trans (if_pos h)), fun h => hon (hdone.trans (if_neg h))⟩

/-! ### Sparse iteration -/

theorem regs_scramble (l : List (Nat × Nat)) (s : State) : (scramble s l).regs = s.regs := foldl_keeps State.regs (by intros; rfl) l s

theorem rings_scramble (l : List (Nat × Nat)) (s : State) : (scramble s l).rings = s.rings := foldl_keeps State.rings (by intros; rfl) l s

theorem onlyBytes_tryWrite (s : State) (p a : Nat) (bs : List Byte) : OnlyBytes s (tryWrite s p a bs) := by
  unfold tryWrite
  split
  · next u hu => exact (writeVia_spec _ _ _ _ _ _ hu).1
  · exact OnlyBytes.refl s

theorem OnlyBytes.regs {s u : State} (h : OnlyBytes s u) : u.regs = s.regs := by
  unfold OnlyBytes at h
  rw [h]

theorem OnlyBytes.rings {s u : State} (h : OnlyBytes s u) : u.rings = s.rings := by
  unfold OnlyBytes at h
  rw [h]

theorem findDesc_congr {s u : State} (h : u.rings = s.rings) (r : Nat) (seq : BitVec 32) : findDesc u r seq = findDesc s r seq := by
  simp only [findDesc, ringOf, h]

theorem pfld_congr {s u : State} (h : u.regs = s.regs) (p off lo len : Nat) : pfld u p off lo len = pfld s p off lo len := by
  simp only [pfld, rfld, reg, h]

/-- A descriptor that starts is in flight with its work. -/
theorem findDesc_startWork {s : State} {r : Nat} {d : Desc} (h : findDesc s r d.seq = some d) (w : Work) :
    findDesc (startWork s r d w) r d.seq = some { d with phase := .running, work := w, cf := pfld s d.part Reg.detCtrl 0 1 == 1 } :=
  findDesc_setDesc (y := { d with phase := .running, work := w, cf := pfld s d.part Reg.detCtrl 0 1 == 1 }) h

/-- What a solve that starts on the tile groups `g` holds. -/
def solveWork (inp : SieIn) (g : Nat) : SieWork :=
  ⟨inp, 0, [], 0, [], 0, 0, none, 0, 0, 0, [], false, false, 0, 0, none, 0, 0, g, List.replicate 128 0#8⟩

/-- The state in which a solve has started: its own part of WORK open, its arrival counter 0. -/
def solveStarted (s : State) (r : Nat) (d : Desc) (inp : SieIn) (g : Nat) : State :=
  startWork (tryWrite (scramble s (storeRanges s d.part (sieOwnWork inp true))) d.part (inp.cb 112 8 + Config.sieCounter) (leBytes 4 0)) r d
    (.sie (solveWork inp g))

theorem findDesc_solveStarted {s : State} {r : Nat} {d : Desc} (h : findDesc s r d.seq = some d) (inp : SieIn) (g : Nat) :
    findDesc (solveStarted s r d inp g) r d.seq =
      some { d with phase := .running, work := .sie (solveWork inp g), cf := pfld s d.part Reg.detCtrl 0 1 == 1 } := by
  have hkeep := onlyBytes_tryWrite (scramble s (storeRanges s d.part (sieOwnWork inp true))) d.part (inp.cb 112 8 + Config.sieCounter) (leBytes 4 0)
  rw [solveStarted, findDesc_startWork ((findDesc_congr (hkeep.rings.trans (rings_scramble _ _)) _ _).trans h),
    pfld_congr (hkeep.regs.trans (regs_scramble _ _))]

theorem sieSolve_starts {s : State} {r : Nat} {seq : BitVec 32} {d : Desc} {inp : SieIn} (hd : startable s r seq 3 0 = some d)
    (hbusy : sieBusy s (solveNeeds s d).1 = false) (hidle : groupsIdle s (solveNeeds s d).2 = true)
    (hbar : sieBarred s d.part (solveNeeds s d).1 = false)
    (hfirst : firstReady s r seq (solveAfter s d.part (solveNeeds s d).1 (solveNeeds s d).2) = true)
    (hin : sieGather s d.part (d.fld 20 6) = .ok inp) :
    sieSolve r seq s =
      let w := solveWork inp (solveNeeds s d).2
      let s1 := solveStarted s r d inp (solveNeeds s d).2
      let d1 : Desc := { d with phase := .running, work := .sie w, cf := pfld s d.part Reg.detCtrl 0 1 == 1 }
      if inp.multi then sieEnter s1 r d1 w checkFmts [sieCheck s1 d.part inp, sieCheck s1 d.part inp, 0] else sieFactorStage s1 r d1 w := by
  obtain ⟨hfind, -⟩ := startable_spec hd
  obtain rfl := findDesc_seq hfind
  have hstarted := findDesc_solveStarted hfind inp (solveNeeds s d).2
  unfold solveStarted solveWork at hstarted
  simp only [sieSolve, hd, hbusy, hidle, hbar, hfirst, hin, hstarted, Bool.not_true, Bool.or_self, Bool.false_eq_true, if_false]
  rfl

section
variable {s : State} {r : Nat} {seq : BitVec 32} {d : Desc} {w : SieWork} (hd : runningSolve s r seq = some (d, w))
include hd

theorem sieArrival_reads (ha : d.abort = false) (hw : w.wait = 1) {c a : List Nat}
    (hc : sieNats s d.part (w.inp.cb 112 8 + Config.sieCounter) 1 4 = .ok c) (hm : sieMirrorRead s d.part w.inp w.code = .ok a) :
    sieArrival r seq s = if haloArrived w (c.getD 0 0) then sieWake (sieRun s r d { w with answers := w.answers ++ [a] }) else s := by
  simp only [sieArrival, hd, ha, hc, hm, Bool.false_eq_true, if_false]
  exact if_neg (not_not.2 hw)

theorem sieReduction_answers (ha : d.abort = false) (hw : w.wait = 0) {a : List Nat} (h : sieAnswer w = some a) :
    sieReduction r seq s = sieWake (sieResult s r d w a) := by
  simp only [sieReduction, hd, ha, h, Bool.false_eq_true, if_false]
  exact if_neg (not_not.2 hw)

theorem sieExpiry_waits (h : w.wait = 1 ∨ (w.wait = 0 ∧ w.inp.multi = true ∧ w.result = none)) :
    sieExpiry r seq s = sieWake (sieFail s r d w St.remoteDead 0) := by
  simp only [sieExpiry, hd]
  refine if_pos ?_
  rcases h with h | ⟨h0, hm, hr⟩
  · simp only [h, decide_true, Bool.true_or]
  · simp only [h0, hm, hr, decide_true, Option.isNone_none, Bool.and_self, Bool.or_true]

end

section
variable {s : State} {k r : Nat} {d : Desc} {w : SieWork} (hd : (siesHeld s).find? (fun x => x.2.2.dies.contains k) = some (r, d, w))
  (hc : sieClaimed s d.part k = true) (ha : w.asked = false)
include hd hc ha

theorem sieSwitch_claimed : sieSwitch k s = if w.wait = 2 then countSwitch (setDesc s r { d with work := .sie { w with out := true } }) w
    else setDesc s r { d with work := .sie { w with asked := true } } := by
  simp only [sieSwitch, hd, hc, ha, Bool.not_true, Bool.or_self, Bool.false_eq_true, if_false]

end

/-- Settles O42: a valid solve starts with its record and its work in place, and every later command takes the branch of its wait. -/
theorem solveCommands : Obligations.SolveCommands := by
  unfold Obligations.SolveCommands
  refine ⟨fun s r seq d inp hr hd => ?_, fun s r seq d w hr hd ha => ?_, fun s k r d w hk hd hc ha => ?_, fun s => rfl⟩
  · intro need hbusy hidle hbar hfirst hin w s0 s1 d1
    have hon : ∀ {u v : State}, u = v → onUnit (decide (r < 4096)) (collGo u) = .next (collGo v) := fun e =>
      (onUnit_next (decide_eq_true hr) _).trans (congrArg (fun u => Host.Outcome.next (collGo u)) e)
    have hrun := sieSolve_starts hd hbusy hidle hbar hfirst hin
    exact ⟨fun hm => hon (hrun.trans (if_neg (by rw [hm]; exact Bool.false_ne_true))), fun hm => hon (hrun.trans (if_pos hm))⟩
  · have hon : ∀ {u v : State}, u = v → onUnit (decide (r < 4096)) u = .next v := fun e =>
      (onUnit_next (decide_eq_true hr) _).trans (congrArg _ e)
    refine ⟨fun a c hw hnat hm => ?_, fun a hw h => hon (congrArg collGo (sieReduction_answers hd ha hw h)), fun h => hon (sieExpiry_waits hd h)⟩
    have hrun := sieArrival_reads hd ha hw hnat hm
    exact ⟨fun h => hon (congrArg collGo (hrun.trans (if_pos h))),
      fun h => hon (congrArg collGo (hrun.trans (if_neg (by rw [h]; exact Bool.false_ne_true))))⟩
  · have hon : ∀ {u v : State}, u = v → onUnit (decide (k < 8)) u = .next v := fun e => (onUnit_next (decide_eq_true hk) _).trans (congrArg _ e)
    have hrun := sieSwitch_claimed hd hc ha
    exact ⟨fun h => hon (hrun.trans (if_pos h)), fun h => hon (hrun.trans (if_neg h))⟩

end Sys2Proof.Machine
end

section
/-! SUPPORT. The field exchange, the copy engines, the Lake and HBM: each command takes the branch of its case (07 R210 to R225, 09 R286 to
R301, 10 R330, 13 R440, R441). -/

namespace Sys2Proof.Machine

/-! ### Field exchange -/

section
variable {s : State} {r op : Nat} {seq : BitVec 32} {d : Desc} {c : List Byte} {w : FxeWork} (hd : startable s r seq 4 0 = some d)
  (hc : fxeRead s d.part (d.fld 28 6) 128 = .ok c) (hop : leField c 0 1 = op) (hbusy : fxeBusy s (maskDies (leField c 36 1)) = false)
  (hfirst : firstReady s r seq (fun e => fxeMask s e &&& leField c 36 1 != 0) = true) (hw : fxeGather s d.part (d.fld 20 8) c = .ok w)
include hd hc hop hbusy hfirst hw

theorem fxeStart_plain (h0 : w.cb 96 8 = 0) : fxeStart op r seq s = startWork s r d (.fxe w) := by
  simp only [fxeStart, hd, hc, hbusy, hfirst, hw, Bool.not_true, Bool.or_self, Bool.false_eq_true, if_false]
  rw [if_neg (fun e => e.1 hop), if_pos h0]

theorem fxeStart_clears {u : State} (h0 : w.cb 96 8 ≠ 0) (hu : writeVa s d.part (w.cb 96 8 + 8 * w.parity) (leBytes 8 0) = .ok u) :
    fxeStart op r seq s = startWork u r d (.fxe w) := by
  simp only [fxeStart, hd, hc, hbusy, hfirst, hw, hu, Bool.not_true, Bool.or_self, Bool.false_eq_true, if_false]
  rw [if_neg (fun e => e.1 hop), if_neg h0]

end

section
variable {s : State} {r k : Nat} {seq : BitVec 32} {d : Desc} {w : FxeWork} {x : FxeDie} (hd : runningDesc s r seq 4 = some d)
  (hw : d.work = .fxe w) (hx : w.dies.find? (fun x => x.die == k && decide (x.next < x.stop)) = some x) (hh : w.halted = false)
include hd hw hx hh

theorem fxeRowDone_ok {u : State} {y : FxeDie} (h : fxeRow s d.part w x = .ok (u, y)) : fxeRowDone r seq k s =
    fxeSettle u r d { w with dies := w.dies.map (fun z => if z.die = k then y else z) } (if y.next < y.stop then [] else [y]) := by
  have hf : fxeOf d = some w := by simp only [fxeOf, hw]
  simp only [fxeRowDone, hd, hf, hx, hh, h, Bool.false_eq_true, if_false]

theorem fxeRowDone_faults {f : FxeFault} (h : fxeRow s d.part w x = .error f) :
    fxeRowDone r seq k s = fxeSettle s r d { w with fault := some f, unit := k } w.busyDies := by
  have hf : fxeOf d = some w := by simp only [fxeOf, hw]
  simp only [fxeRowDone, hd, hf, hx, hh, h, Bool.false_eq_true, if_false]

end

/-- Settles O43: a valid descriptor starts at once or after its completion word is cleared, and a row settles it by its outcome. -/
theorem fieldExchangeCommands : Obligations.FieldExchangeCommands := by
  unfold Obligations.FieldExchangeCommands
  refine ⟨fun s r seq d c w scatter hr hd hc hop hbusy hfirst hw => ?_, fun s r k seq d w x hr hk hd hw hx hh => ?_⟩
  · have hrun : ∀ v, fxeStart (if scatter then 1 else 0) r seq s = v → exec (if scatter then .scatter r seq else .gather r seq) s = .next v := by
      intro v e
      cases scatter
      · exact (onUnit_next (decide_eq_true hr) _).trans (congrArg _ e)
      · exact (onUnit_next (decide_eq_true hr) _).trans (congrArg _ e)
    exact ⟨fun h0 => hrun _ (fxeStart_plain hd hc hop hbusy hfirst hw h0), fun u h0 hu => hrun _ (fxeStart_clears hd hc hop hbusy hfirst hw h0 hu)⟩
  · have hon : ∀ {u v : State}, u = v → onUnit (decide (r < 4096) && decide (k < 8)) u = .next v := fun e =>
      (onUnit_next (by rw [decide_eq_true hr, decide_eq_true hk]; rfl) _).trans (congrArg _ e)
    exact ⟨fun u y h => hon (fxeRowDone_ok hd hw hx hh h), fun f h => hon (fxeRowDone_faults hd hw hx hh h)⟩

/-! ### Copy engines -/

theorem copyStart_placed {s : State} {d : Desc} {e : Nat} (he : copyPlace s d.part = some e) (r total : Nat) (key : Word) :
    copyStart s r d total key = startWork s r d (.copy ⟨e, total, 0, [], none, key⟩) := by
  simp only [copyStart, he]

theorem dmaBurst_turn {s : State} {e r : Nat} {d : Desc} {w : CopyWork} (ha : alive s = true)
    (hturn : (turnOrder (sget (fun _ => 7) s.copyTurn e)).findSome? (fun p => engineReady s e p) = some (r, d)) (hw : d.work = .copy w)
    (check : PathCheck) :
    dmaBurst e check s =
      let s1 := { s with copyTurn := sset (fun _ => 7) s.copyTurn e d.part }
      if d.abort then copySettle s1 r d w else copyBurst s1 r d w check := by
  simp only [dmaBurst, ha, hturn, hw, Bool.not_true, Bool.false_eq_true, if_false]

/-- Settles O44: each descriptor starts on the engine of its placement, and a burst goes to the descriptor whose turn it is. -/
theorem copyEngineCommands : Obligations.CopyEngineCommands := by
  unfold Obligations.CopyEngineCommands
  refine ⟨fun s r e seq d hr he => ?_, fun s e r d w check hlt ha hturn hw => ?_⟩
  · have hon : ∀ {u v : State}, u = v → onUnit (decide (r < 4096)) u = .next v := fun e =>
      (onUnit_next (decide_eq_true hr) _).trans (congrArg _ e)
    refine ⟨fun hd => hon ?_, fun hd => hon ?_, fun hd => hon ?_⟩
    · simp only [copyCopy, hd, copyStart_placed he]
    · simp only [copyFill, hd, copyStart_placed he]
    · simp only [sepiaStart, hd, copyStart_placed he]
  · intro s1
    exact (onUnit_next (decide_eq_true hlt) _).trans (congrArg (fun u => Host.Outcome.next (collGo u)) (dmaBurst_turn ha hturn hw check))

/-! ### Lake and HBM -/

theorem lakePerform_first {s : State} {die : Nat} {x : LakeReq} (hx : lakeFirst s (sget (fun _ => []) s.lakeQ die) = some x) :
    lakePerform die s =
      let q := sget (fun _ => []) s.lakeQ die
      let y := dstOf s (dstKey x.pkt)
      performReq (setDst { s with lakeQ := sset (fun _ => []) s.lakeQ die (q.erase x) } (dstKey x.pkt) { y with queued := y.queued.drop 1 }) x := by
  simp only [lakePerform, hx]

/-- What a patrol read does besides moving on. -/
def patrolFound (s : State) (stack pc : Nat) : Ecc → State
  | .good => s
  | .corrected =>
    let st := Reg.hmcStackStatus + 8 * stack
    report (setRfld s (okey st) 48 16 (satNat 16 (ofld s st 48 16 + 1))) 0x02 1 8 (unitField 8 stack) none 0
      (eccDetail stack pc (32 * sget (fun _ => 0) s.patrolAt (stack * 32 + pc)))
  | .uncorrectable =>
    let byte := 32 * sget (fun _ => 0) s.patrolAt (stack * 32 + pc)
    let sec := hbmKey stack pc byte / 32
    report { s with bad := if s.bad.contains sec then s.bad else s.bad ++ [sec] } 0x02 2 8 (unitField 8 stack) none 0 (eccDetail stack pc byte)

section
variable {s : State} {stack pc : Nat} (ho : ofld s Reg.hmcScrub 0 16 ≠ 0) (hr : stackReady s stack = true) (ha : alive s = true)
include ho hr ha

theorem patrolRead_ready (ecc : Ecc) : patrolRead stack pc ecc s = patrolNext (patrolFound s stack pc ecc) (stack * 32 + pc) := by
  have hgo : (decide (ofld s Reg.hmcScrub 0 16 = 0) || !stackReady s stack || !alive s) = false := by
    rw [decide_eq_false ho, hr, ha]
    rfl
  refine (if_neg (by rw [hgo]; exact Bool.false_ne_true)).trans ?_
  cases ecc
  · rfl
  · rfl
  · rfl

end

theorem repair_report (s : State) (kind cls ut u : Nat) (p : Option Nat) (a : Nat) (d : List Byte) :
    (report s kind cls ut u p a d).repair = s.repair := by
  have h := (reporting_report s kind cls ut u p a d).1
  unfold OnlyReports at h
  rw [h]

theorem repair_healthRefresh (s : State) : (healthRefresh s).repair = s.repair := by
  unfold healthRefresh
  dsimp only
  split
  · rfl
  · exact repair_report _ _ _ _ _ _ _ _

theorem repair_storeWord (s : State) (view off v : Nat) : (storeWord s view off v).repair = s.repair := by
  unfold storeWord
  split
  · rfl
  · split
    · rfl
    · dsimp only
      split <;> rfl

theorem repair_setResult (s : State) (off bit g lo n v : Nat) : (setResult s off bit g lo n v).repair = s.repair := rfl

theorem repair_rowFailed (s : State) (b : Bool) : ({ s with rowFailed := b } : State).repair = s.repair := rfl

theorem actionWrite_eq {s s1 : State} {view off : Nat} {v : Word} (h : actionWrite s view off v = some s1) : s1 = storeWord s view off v.toNat := by
  unfold actionWrite at h
  split at h
  · cases h
  · split at h
    · cases h
    · exact (Option.some.inj h).symm

section
variable {s s1 : State} {view : Nat} {v : Word} (ha : alive s = true)
include ha

/-- A command to repair a row that reaches its register is granted, fails for want of a replacement, or is refused (09 R298, R300). -/
theorem hmcRepair_reaches (hgo : bitAt v.toNat 52 = true) (hw : actionWrite s view Reg.hmcRepairCtrl v = some s1) :
    hmcRepair view v s =
      let w := v.toNat
      let res := repairResult s (fieldOf w 0 4) (fieldOf w 8 5) (fieldOf w 16 6) (fieldOf w 24 18)
      if res = 1 then
        { setResult s1 Reg.hmcRepairCtrl 52 1 56 3 1 with repair := some ⟨fieldOf w 0 4, fieldOf w 8 5, fieldOf w 16 6, fieldOf w 24 18, bitAt w 48⟩ }
      else
        let s2 := setResult s1 Reg.hmcRepairCtrl 52 0 56 3 res
        if res = 3 then healthRefresh { s2 with rowFailed := true } else s2 := by
  simp only [hmcRepair, hgo, ha, hw, Bool.not_true, Bool.or_self, Bool.false_eq_true, if_false]

theorem hmcRepair_unspared (hgo : bitAt v.toNat 52 = true) (hw : actionWrite s view Reg.hmcRepairCtrl v = some s1)
    (hres : repairResult s (fieldOf v.toNat 0 4) (fieldOf v.toNat 8 5) (fieldOf v.toNat 16 6) (fieldOf v.toNat 24 18) = 3) :
    hmcRepair view v s = healthRefresh { setResult s1 Reg.hmcRepairCtrl 52 0 56 3 3 with rowFailed := true } := by
  have hrun := hmcRepair_reaches ha hgo hw
  simp only [hres, show ¬ (3 : Nat) = 1 by decide, if_false, if_true] at hrun
  exact hrun

theorem testStart_reaches {ops : Nat → Bool} (hgo : bitAt v.toNat 16 = true) (hops : ops (fieldOf v.toNat 8 4) = true)
    (hw : actionWrite s view Reg.hmc1500Ctrl v = some s1) :
    testStart ops view v s =
      let op := fieldOf v.toNat 8 4
      let res := testResult s (fieldOf v.toNat 0 4) op
      if res = 1 then { setResult s1 Reg.hmc1500Ctrl 16 1 20 3 1 with testPort := some (fieldOf v.toNat 0 4, op) }
      else setResult s1 Reg.hmc1500Ctrl 16 0 20 3 res := by
  simp only [testStart, hgo, hops, ha, hw, Bool.not_true, Bool.or_self, Bool.false_eq_true, if_false]

end

/-- A row repair that starts takes reserved time. -/
theorem rowRepair_starts {s t : State} {view : Nat} {v : Word} (ht : hmcRepair view v s = t) (h0 : s.repair = none) {w : RepairWork}
    (hw : t.repair = some w) : rowRepair view v s =
      takesReserved t ((dpaOf t (hbmKey w.stack w.pc ((w.row * 32 + w.bank) * 1024))).bind (fun x => regionPart t x.1)) (w.stack / 2) 2 := by
  simp only [rowRepair, ht, h0, hw]

theorem rowRepair_refused {s t : State} {view : Nat} {v : Word} (ht : hmcRepair view v s = t) (hr : t.repair = s.repair) : rowRepair view v s = t := by
  simp only [rowRepair, ht, hr]
  cases s.repair <;> rfl

theorem hmcRepairDone_repaired {s : State} {w : RepairWork} (hw : s.repair = some w) (repaired : Bool) :
    hmcRepairDone repaired s =
      let s0 := { s with repair := none }
      let g := bankGroup w.stack w.pc w.bank
      let st := Reg.hmcStackStatus + 8 * w.stack
      if repaired then
        let s1 := { setRfld s0 (okey st) 16 16 (ofld s0 st 16 16 + 1) with
          repairUsed := sset (fun _ => 0) s0.repairUsed g (sget (fun _ => 0) s0.repairUsed g + 1)
          hardRepairs := if w.hard then s0.hardRepairs ++ [(w.stack, w.pc, w.bank, w.row)] else s0.hardRepairs
          freeCount := s0.freeCount + 1 }
        healthRefresh (spareRecord (setResult s1 Reg.hmcRepairCtrl 52 0 56 3 0) 5 w.row w.row
          (fieldOf (Config.freeValue s0.freeCount).toNat 0 16) (rowsLeft s1 g) 8 (unitField 8 w.stack) none)
      else healthRefresh { setResult s0 Reg.hmcRepairCtrl 52 0 56 3 3 with rowFailed := true } := by
  simp only [hmcRepairDone, hw]

/-- The test port's state when an operation is done, with a word as its data. -/
def testDone (s : State) (v : Nat) : State :=
  setReg (setResult { s with testPort := none } Reg.hmc1500Ctrl 16 0 20 3 0) (okey Reg.hmc1500Data) v

theorem eccLog_testDone (s : State) (v : Nat) : (testDone s v).eccLog = s.eccLog := by
  unfold testDone setResult
  rw [setReg_eccLog, setRfld_eccLog, setRfld_eccLog]

theorem testPortDone_of_op {s : State} {k op : Nat} (h : s.testPort = some (k, op)) (reading : Word) :
    testPortDone reading s =
      if op = 1 then setRfld (testDone s (reading.toNat % 256)) (okey (Reg.hmcStackStatus + 8 * k)) 8 8 (reading.toNat % 256)
      else if op = 2 then { testDone s ((eccLogOf s k).1 % 2 ^ 32 + (eccLogOf s k).2 % 2 ^ 32 * 2 ^ 32) with
        eccLog := sset (fun _ => (0, 0)) s.eccLog k (0, 0) }
      else if op = 3 then testDone s (repairData s k)
      else if op = 4 then zeroStack (testDone s reading.toNat) k else testDone s reading.toNat := by
  by_cases h1 : op = 1
  · subst h1
    simp only [testPortDone, h, testDone, if_true]
  by_cases h2 : op = 2
  · subst h2
    rw [if_neg (by decide), if_pos rfl]
    simp only [testPortDone, h]
    exact congrArg (fun l => { testDone s ((eccLogOf s k).1 % 2 ^ 32 + (eccLogOf s k).2 % 2 ^ 32 * 2 ^ 32) with
      eccLog := sset (fun _ => (0, 0)) l k (0, 0) }) (eccLog_testDone s _)
  by_cases h3 : op = 3
  · subst h3
    rw [if_neg (by decide), if_neg (by decide), if_pos rfl]
    simp only [testPortDone, h, testDone]
  by_cases h4 : op = 4
  · subst h4
    rw [if_neg (by decide), if_neg (by decide), if_neg (by decide), if_pos rfl]
    simp only [testPortDone, h, testDone]
  rw [if_neg h1, if_neg h2, if_neg h3, if_neg h4]
  simp only [testPortDone, h, testDone]

/-- Settles O46: each command takes the branch of its case; a repair that is refused leaves the repair under way as it is. -/
theorem lakeAndHbmCommands : Obligations.LakeAndHbmCommands := by
  unfold Obligations.LakeAndHbmCommands
  refine ⟨fun s die x hdie => ?_, fun s stack pc hs hp ho hr ha => ?_, fun s s1 view v ha => ?_, fun s w hw => ?_, fun s k op reading h => ?_⟩
  · intro q hx y
    exact (onUnit_next (decide_eq_true hdie) _).trans (congrArg (fun u => Host.Outcome.next (collGo u)) (lakePerform_first hx))
  · intro k byte sec st
    have hon : ∀ ecc, exec (.patrolRead stack pc ecc) s = .next (patrolNext (patrolFound s stack pc ecc) k) := fun ecc =>
      (onUnit_next (by rw [decide_eq_true hs, decide_eq_true hp]; rfl) _).trans (congrArg _ (patrolRead_ready ho hr ha ecc))
    exact ⟨hon .good, hon .corrected, hon .uncorrectable⟩
  · intro w
    refine ⟨fun hgo hw => ?_, fun hgo hw => ?_⟩
    · intro res u
      have hrun := hmcRepair_reaches ha hgo hw
      have hkeep : s1.repair = s.repair := by rw [actionWrite_eq hw, repair_storeWord]
      refine ⟨fun h1 h0 => ?_, fun h3 => ?_, fun h1 h3 => ?_⟩
      · have hu : u.repair = some ⟨fieldOf w 0 4, fieldOf w 8 5, fieldOf w 16 6, fieldOf w 24 18, bitAt w 48⟩ := rfl
        have h := rowRepair_starts (hrun.trans (if_pos h1)) h0 hu
        exact congrArg Host.Outcome.next h
      · exact congrArg Host.Outcome.next (rowRepair_refused (hmcRepair_unspared ha hgo hw h3) (by
          rw [repair_healthRefresh, repair_rowFailed, repair_setResult]
          exact hkeep))
      · exact congrArg Host.Outcome.next (rowRepair_refused ((hrun.trans (if_neg h1)).trans (if_neg h3)) ((repair_setResult _ _ _ _ _ _ _).trans hkeep))
    · intro op res u
      have hrun : ∀ ops : Nat → Bool, ops op = true → testStart ops view v s = u := fun ops hops => testStart_reaches ha hgo hops hw
      refine ⟨fun h => congrArg Host.Outcome.next (hrun _ ?_), fun h => congrArg Host.Outcome.next (hrun _ (beq_iff_eq.2 h)),
        fun h => congrArg Host.Outcome.next (hrun _ (beq_iff_eq.2 h)), fun h => congrArg Host.Outcome.next (hrun _ (beq_iff_eq.2 h)),
        fun h => congrArg Host.Outcome.next (hrun _ (beq_iff_eq.2 h))⟩
      rcases h with h | h
      · rw [h]
        rfl
      · rw [decide_eq_true h, Bool.or_true]
  · exact ⟨congrArg Host.Outcome.next ((hmcRepairDone_repaired hw true).trans (if_pos rfl)),
      congrArg Host.Outcome.next ((hmcRepairDone_repaired hw false).trans (if_neg Bool.false_ne_true))⟩
  · exact congrArg Host.Outcome.next (testPortDone_of_op h reading)

end Sys2Proof.Machine
end

section
/-! SUPPORT. Clocks, power domains, heat, boot, resets and the supply: each command takes the branch of its case (02 R34 to R54, 15 R507 to
R513, 16 R516 to R531). -/

namespace Sys2Proof.Machine

/-! ### Clock islands and power domains -/

theorem slewDone_slews {s : State} {domain k : Nat} (hk : pllDie domain = some k) (h : slewingMhz s k = true) :
    slewDone domain s = setPll s k (goalMhz s k) := by
  simp only [slewDone, hk, h, if_true]

theorem ramps_storeWord (s : State) (view off v : Nat) : (storeWord s view off v).ramps = s.ramps := by
  unfold storeWord
  split
  · rfl
  · split
    · rfl
    · dsimp only
      split <;> rfl

theorem rampSteps_storeWord (s : State) (view off v : Nat) : (storeWord s view off v).rampSteps = s.rampSteps := by
  unfold storeWord
  split
  · rfl
  · split
    · rfl
    · dsimp only
      split <;> rfl

theorem alive_storeWord (s : State) (view off v : Nat) : alive (storeWord s view off v) = alive s := by
  unfold storeWord
  split
  · rfl
  · split
    · rfl
    · dsimp only
      split <;> rfl

theorem alive_setRfld (s : State) (k lo len v : Nat) : alive (setRfld s k lo len v) = alive s := rfl

theorem ramps_setRfld (s : State) (k lo len v : Nat) : (setRfld s k lo len v).ramps = s.ramps := rfl

theorem rampSteps_setRfld (s : State) (k lo len v : Nat) : (setRfld s k lo len v).rampSteps = s.rampSteps := rfl

theorem ramps_setResult (s : State) (off bit g lo n v : Nat) : (setResult s off bit g lo n v).ramps = s.ramps := rfl

theorem rampSteps_setResult (s : State) (off bit g lo n v : Nat) : (setResult s off bit g lo n v).rampSteps = s.rampSteps := rfl

section
variable {s : State} (hgo : ofld s Reg.pwrDomainCtrl 12 1 = 1) (ha : alive s = true)
include hgo ha

theorem requestTurn_refused (h : domainResult s (ofld s Reg.pwrDomainCtrl 0 5) (ofld s Reg.pwrDomainCtrl 8 1 == 1) ≠ 1) :
    requestTurn s = setResult s Reg.pwrDomainCtrl 12 0 16 3
      (domainResult s (ofld s Reg.pwrDomainCtrl 0 5) (ofld s Reg.pwrDomainCtrl 8 1 == 1)) := by
  unfold requestTurn
  rw [if_neg (by simp [hgo, ha])]
  exact if_pos (bne_iff_ne.2 h)

theorem requestTurn_accepted (h : domainResult s (ofld s Reg.pwrDomainCtrl 0 5) (ofld s Reg.pwrDomainCtrl 8 1 == 1) = 1) :
    requestTurn s = if s.ramps.isEmpty && s.rampSteps.isEmpty then
      rampStart (setResult s Reg.pwrDomainCtrl 12 1 16 3 1) [(ofld s Reg.pwrDomainCtrl 0 5, ofld s Reg.pwrDomainCtrl 8 1 == 1)]
      else setResult s Reg.pwrDomainCtrl 12 1 16 3 1 := by
  unfold requestTurn
  rw [if_neg (by simp [hgo, ha])]
  exact if_neg (by simp [h])

end

theorem domainRequest_judged {s s1 : State} {view : Nat} {v : Word} (hv : bitAt v.toNat 12 = true) (ha : alive s = true)
    (hw : actionWrite s view Reg.pwrDomainCtrl v = some s1) :
    domainRequest view v s = requestTurn (setRfld s1 (okey Reg.pwrDomainCtrl) 12 1 1) := by
  simp only [domainRequest, hv, ha, hw, Bool.not_true, Bool.or_self, Bool.false_eq_true, if_false]

theorem rampDone_found {s : State} {d : Nat} {up : Bool} (h : s.ramps.find? (fun x => x.1 == d) = some (d, up)) :
    rampDone d s =
      let s1 := setRfld { s with ramps := s.ramps.filter (fun x => x.1 != d) } (okey Reg.pwrDomainStatus) (32 + d) 1 0
      let s2 := if up then domainUp s1 d else domainDown s1 d
      let s3 := if ofld s2 Reg.pwrDomainCtrl 12 1 = 1 ∧ ofld s2 Reg.pwrDomainCtrl 0 5 = d then setResult s2 Reg.pwrDomainCtrl 12 0 16 3 0 else s2
      if d = 0 then wipeBanks { s3 with boot := .verifying } else goOn s3 := by
  simp only [rampDone, h]

theorem any_ramp {l : List (Nat × Bool)} {d : Nat} (h : ∃ up, (d, up) ∈ l) : l.any (fun x => x.1 == d) = true := by
  obtain ⟨up, hmem⟩ := h
  exact List.any_eq_true.2 ⟨_, hmem, beq_self_eq_true d⟩

theorem regulatorFault_passes {s : State} {d : Nat} (h : domainOn s d = true ∨ ∃ up, (d, up) ∈ s.ramps) : ¬ ((!domainOn s d && !s.ramps.any (fun x => x.1 == d)) = true) := by
  rcases h with h | h
  · simp [h]
  · simp [any_ramp h]

/-- Settles O47: targets are stored, a slew ends at its goal, and requests, ramps and regulator faults take their branches. -/
theorem clockAndPowerDomainCommands : Obligations.ClockAndPowerDomainCommands := by
  unfold Obligations.ClockAndPowerDomainCommands
  refine ⟨fun s view k v ha => ⟨fun hk => ?_, fun hk => ?_⟩, fun s domain k hd => ⟨fun hk h => ?_, fun ha h => ?_, fun h => ?_⟩,
    fun s s1 view v hv ha hw => ?_, fun s d up hd h => ?_, fun s d hd hb => ⟨fun h0 => ?_, fun h0 h => ?_⟩⟩
  · exact (onUnit_next (decide_eq_true hk) _).trans (congrArg _ (if_pos ha))
  · exact (onUnit_next (decide_eq_true hk) _).trans (congrArg _ (if_pos ha))
  · exact (onUnit_next (decide_eq_true hd) _).trans (congrArg _ (slewDone_slews hk h))
  · exact (onUnit_next (decide_eq_true hd) _).trans (congrArg _ (if_pos (by rw [ha, h]; rfl)))
  · exact (onUnit_next (decide_eq_true hd) _).trans (congrArg _ (if_neg (by rw [h, Bool.and_false]; exact Bool.false_ne_true)))
  · intro s2 d up
    have hgo : ofld s2 Reg.pwrDomainCtrl 12 1 = 1 := rfld_setRfld_same s1 _ 12 1 1 (by omega)
    have hs2 : alive s2 = true := by rw [alive_setRfld, actionWrite_eq hw, alive_storeWord, ha]
    have hramps : s2.ramps = s.ramps := by rw [ramps_setRfld, actionWrite_eq hw, ramps_storeWord]
    have hsteps : s2.rampSteps = s.rampSteps := by rw [rampSteps_setRfld, actionWrite_eq hw, rampSteps_storeWord]
    have hexec : ∀ {u : State}, requestTurn s2 = u → exec (.pwrDomainRequest view v) s = .next u := fun e =>
      congrArg Host.Outcome.next ((domainRequest_judged hv ha hw).trans e)
    refine ⟨fun hr h1 h2 => hexec ?_, fun hr h => hexec ?_, fun hr => hexec (requestTurn_refused hgo hs2 hr)⟩
    · rw [requestTurn_accepted hgo hs2 hr, hramps, hsteps, h1, h2]
      rfl
    · rw [requestTurn_accepted hgo hs2 hr, hramps, hsteps, if_neg (by
        rcases h with h | h
        · simp [h]
        · simp [h])]
  · intro s1 s2 s3
    refine ⟨fun h0 => ?_, fun h0 => ?_⟩
    · exact (onUnit_next (decide_eq_true hd) _).trans (congrArg _ ((rampDone_found h).trans (if_neg h0)))
    · exact (onUnit_next (decide_eq_true hd) _).trans (congrArg _ ((rampDone_found h).trans (if_pos h0)))
  · refine (onUnit_next (decide_eq_true hd) _).trans (congrArg _ ?_)
    rw [regulatorFault, boot_beq_off hb, if_neg Bool.false_ne_true, if_pos h0]
  · intro stops f s0
    refine (onUnit_next (decide_eq_true hd) _).trans (congrArg _ ?_)
    rw [regulatorFault, boot_beq_off hb, if_neg Bool.false_ne_true, if_neg h0, if_neg (regulatorFault_passes h)]

/-! ### Heat and power limits -/

theorem heatCap_takeReading (s : State) (die temp k : Nat) : heatCap (takeReading s die temp) k = heatCap s k := rfl

/-- A stack of the die reads 95 °C or more, as the commands test it. -/
theorem hotStack_iff (s : State) (die : Nat) :
    (decide (die < 8) && (decide (95 ≤ stackTemp s (2 * die)) || decide (95 ≤ stackTemp s (2 * die + 1)))) = true ↔
      die < 8 ∧ (95 ≤ stackTemp s (2 * die) ∨ 95 ≤ stackTemp s (2 * die + 1)) := by
  simp

theorem thermalDown_falls {s : State} {die temp : Nat} (ha : alive s = true) (hd : die < 10)
    (h : 100 ≤ temp ∨ die < 8 ∧ (95 ≤ stackTemp s (2 * die) ∨ 95 ≤ stackTemp s (2 * die + 1))) :
    thermalDown die temp s = capFall (takeReading s die temp) die := by
  rw [thermalDown, if_neg (by simp [ha])]
  exact if_pos (by simpa [hd] using h)

theorem thermalUp_rises {s : State} {die temp : Nat} (ha : alive s = true) (hd : die < 10) (ht : temp ≤ 97)
    (h : ¬ (die < 8 ∧ (95 ≤ stackTemp s (2 * die) ∨ 95 ≤ stackTemp s (2 * die + 1)))) :
    thermalUp die temp s = setHeatCap (takeReading s die temp) die (min (nominalMhz die) (heatCap (takeReading s die temp) die + 100)) := by
  have hcold := Bool.eq_false_iff.2 (fun e => h ((hotStack_iff s die).1 e))
  rw [thermalUp, if_neg (by simp [ha])]
  exact if_pos (by rw [decide_eq_true hd, decide_eq_true ht, hcold]; rfl)

theorem thermalDuty_joins {s : State} {die temp : Nat} (ha : alive s = true) (hd : die < 8) (ht : 105 ≤ temp) (hcap : heatCap s die = floorMhz die)
    (h : (takeReading s die temp).dutyDie.contains die = false) :
    thermalDuty die temp s = { takeReading s die temp with dutyDie := (takeReading s die temp).dutyDie ++ [die] } := by
  rw [thermalDuty, if_neg (by simp [ha])]
  refine if_pos ?_
  rw [heatCap_takeReading, hcap, h, decide_eq_true hd, decide_eq_true ht, beq_self_eq_true]
  rfl

theorem refresh2_setRfld (s : State) (k lo len v : Nat) : (setRfld s k lo len v).refresh2 = s.refresh2 := rfl

/-- The refresh list that a reading leaves. -/
def refreshAfter (l : List Nat) (k temp : Nat) : List Nat := if 85 ≤ temp then (if l.contains k then l else l ++ [k]) else l.filter (· != k)

theorem refreshAfter_cool {l : List Nat} {k temp : Nat} (h : temp < 85) : refreshAfter l k temp = l.filter (· != k) :=
  if_neg (Nat.not_le.2 h)

theorem refreshAfter_warm {l : List Nat} {k temp : Nat} (h : 85 ≤ temp) (hk : l.contains k = false) : refreshAfter l k temp = l ++ [k] :=
  (if_pos h).trans (if_neg (by rw [hk]; exact Bool.false_ne_true))

theorem refreshAfter_again {l : List Nat} {k temp : Nat} (h : 85 ≤ temp) (hk : l.contains k = true) : refreshAfter l k temp = l :=
  (if_pos h).trans (if_pos hk)

theorem hbmTempRead_eq {s : State} {k temp : Nat} (ha : alive s = true) (hon : domainOn s (14 + k / 2) = true) :
    hbmTempRead k temp s =
      let s1 := setRfld s (okey (Reg.hmcStackStatus + 8 * k)) 8 8 (satNat 8 temp)
      let s2 := { s1 with refresh2 := refreshAfter s.refresh2 k temp }
      if 95 ≤ temp then capFall s2 (k / 2) else s2 := by
  rw [hbmTempRead, if_neg (by simp [ha, hon])]
  rfl

theorem with_refresh2 (s : State) {l : List Nat} (h : l = s.refresh2) : ({ s with refresh2 := l } : State) = s := by
  rw [h]

section
variable {s : State} (ha : alive s = true)
include ha

theorem powerCheck_falls {watts : Nat} (hot : Bool) (hw : ofld s Reg.pwrLimit 0 12 < watts) (hdue : pcapDue s 10000 = true) :
    powerCheck watts hot s =
      { setRfld s (okey Reg.pwrSagStatus) 48 16 (satNat 16 watts) with
        dutyAll := hot || (s.dutyAll && decide (ofld s Reg.pwrLimit 0 12 ≤ watts)), pcap := max 1200 (s.pcap - 100), pcapAt := some s.tick } := by
  rw [powerCheck, if_neg (by simp [ha])]
  exact if_pos (by simp [hw, hdue])

theorem powerCheck_rises {watts : Nat} (hot : Bool) (hw : watts * 100 < ofld s Reg.pwrLimit 0 12 * 97) (hcap : s.pcap < 3300)
    (hdue : pcapDue s 100000 = true) :
    powerCheck watts hot s =
      { setRfld s (okey Reg.pwrSagStatus) 48 16 (satNat 16 watts) with
        dutyAll := hot || (s.dutyAll && decide (ofld s Reg.pwrLimit 0 12 ≤ watts)), pcap := min 3300 (s.pcap + 100), pcapAt := some s.tick } := by
  rw [powerCheck, if_neg (by simp [ha])]
  exact (if_neg (by rw [decide_eq_false (by omega), Bool.false_and]; exact Bool.false_ne_true)).trans (if_pos (by simp [hw, hcap, hdue]))

theorem powerCheck_holds {watts : Nat} (hot : Bool) (hle : watts ≤ ofld s Reg.pwrLimit 0 12)
    (hge : ofld s Reg.pwrLimit 0 12 * 97 ≤ watts * 100) :
    powerCheck watts hot s =
      { setRfld s (okey Reg.pwrSagStatus) 48 16 (satNat 16 watts) with
        dutyAll := hot || (s.dutyAll && decide (ofld s Reg.pwrLimit 0 12 ≤ watts)) } := by
  rw [powerCheck, if_neg (by simp [ha])]
  exact (if_neg (by rw [decide_eq_false (by omega), Bool.false_and]; exact Bool.false_ne_true)).trans
    (if_neg (by rw [decide_eq_false (p := watts * 100 < _) (by omega), Bool.false_and]; exact Bool.false_ne_true))

end

/-- Settles O48: each reading selects its branch; a stack at 95 °C already refreshes at the double rate. -/
theorem thermalAndPowerLimitCommands : Obligations.ThermalAndPowerLimitCommands := by
  unfold Obligations.ThermalAndPowerLimitCommands
  refine ⟨fun s die temp hd ha => ?_, fun s k temp hk ha hdom => ?_, fun s watts hot ha => ?_, fun s stack temp hb ht => ?_⟩
  · intro s1 hotStack
    have hon : ∀ {u v : State}, u = v → onUnit (decide (die < 12)) u = .next v := fun e =>
      (onUnit_next (decide_eq_true hd) _).trans (congrArg _ e)
    exact ⟨fun h10 h => hon (thermalDown_falls ha h10 h), fun h10 ht h => hon (thermalUp_rises ha h10 ht h),
      fun h8 ht hcap h => hon (thermalDuty_joins ha h8 ht hcap h)⟩
  · intro s1
    have hon : ∀ {v : State}, hbmTempRead k temp s = v → exec (.hbmTempRead k temp) s = .next v := fun e =>
      (onUnit_next (decide_eq_true hk) _).trans (congrArg _ e)
    refine ⟨fun h => hon ?_, fun hge hlt hnew => hon ?_, fun hge hold => hon ?_⟩
    · rw [hbmTempRead_eq ha hdom, refreshAfter_cool h]
      exact if_neg (by omega)
    · rw [hbmTempRead_eq ha hdom, refreshAfter_warm hge hnew]
      exact if_neg (by omega)
    · rw [hbmTempRead_eq ha hdom, refreshAfter_again (by omega) hold]
      exact (if_pos hge).trans (congrArg (capFall · (k / 2)) (with_refresh2 s1 (refresh2_setRfld s _ _ _ _).symm))
  · intro pl1 s1
    exact ⟨fun hw hdue => congrArg Host.Outcome.next (powerCheck_falls ha hot hw hdue),
      fun hw hcap hdue => congrArg Host.Outcome.next (powerCheck_rises ha hot hw hcap hdue),
      fun hle hge => congrArg Host.Outcome.next (powerCheck_holds ha hot hle hge)⟩
  · refine congrArg Host.Outcome.next ?_
    rw [thermalTrip, if_neg]
    rw [boot_beq_off hb, Bool.false_or, decide_eq_true_iff]
    exact Nat.not_lt.2 ht

/-! ### Configuration blocks -/

theorem patchCheck (bs : List Byte) : patchBytes bs 8 (leBytes 4 0) = bs.take 8 ++ leBytes 4 0 ++ bs.drop 12 := rfl

theorem cfgBlockOk_iff (b : CfgBlock) : cfgBlockOk b = true ↔ leField b.bytes 4 4 + 32 = b.bytes.length ∧
    leField b.bytes 8 4 = crc32c (b.bytes.take 8 ++ leBytes 4 0 ++ b.bytes.drop 12) := by
  rw [cfgBlockOk, patchCheck, Bool.and_eq_true, beq_iff_eq, beq_iff_eq]

theorem goodBlock_none {s : State} (h : ∀ b, b ∈ s.cfgBlocks → cfgBlockOk b = false) (id : Nat) : goodBlock s id = none :=
  List.find?_eq_none.2 (fun b hb => by rw [h b hb, Bool.and_false]; exact Bool.false_ne_true)

/-- The check of one block (the step of `checkBlocks`). -/
def blockCheck (s : State) (i : Nat) : State :=
  let id := i + 1
  if (goodBlock s id).isSome then (if id = 3 then s else resetBlock s id)
  else
    let k := okey Reg.cfgStatus
    let s1 := logNote (setRfld (setRfld s k 0 1 1) k (8 + id) 1 1) (leBytes 2 id)
    if id = 1 then { s1 with spareBind := [] } else s1

theorem checkBlocks_eq (s : State) : checkBlocks s = (List.range 5).foldl blockCheck s := rfl

/-- CFG_STATUS shows a bit. -/
def CfgShows (s : State) (n : Nat) : Prop := (reg s (okey Reg.cfgStatus)).testBit n = true

theorem regs_logNote (s : State) (detail : List Byte) : (logNote s detail).regs = s.regs := rfl

theorem cfgBlocks_logNote (s : State) (detail : List Byte) : (logNote s detail).cfgBlocks = s.cfgBlocks := rfl

theorem reg_congr {s u : State} (h : u.regs = s.regs) (k : Nat) : reg u k = reg s k := by
  rw [reg, reg, h]

section
variable {s : State} {i : Nat} (h : goodBlock s (i + 1) = none)
include h

theorem blockCheck_bad : blockCheck s i =
    let s1 := logNote (setRfld (setRfld s (okey Reg.cfgStatus) 0 1 1) (okey Reg.cfgStatus) (8 + (i + 1)) 1 1) (leBytes 2 (i + 1))
    if i + 1 = 1 then { s1 with spareBind := [] } else s1 :=
  if_neg (by rw [h]; exact Bool.false_ne_true)

theorem blockCheck_bad_regs :
    (blockCheck s i).regs = (setRfld (setRfld s (okey Reg.cfgStatus) 0 1 1) (okey Reg.cfgStatus) (8 + (i + 1)) 1 1).regs := by
  rw [blockCheck_bad h]
  dsimp only
  split
  · exact regs_logNote _ (leBytes 2 (i + 1))
  · exact regs_logNote _ (leBytes 2 (i + 1))

theorem blockCheck_bad_blocks : (blockCheck s i).cfgBlocks = s.cfgBlocks := by
  rw [blockCheck_bad h]
  dsimp only
  split
  · exact cfgBlocks_logNote _ (leBytes 2 (i + 1))
  · exact cfgBlocks_logNote _ (leBytes 2 (i + 1))

end

theorem testBit_setRfld (s : State) (k lo len v : Nat) {n : Nat} (hn : n < 64) :
    (reg (setRfld s k lo len v) k).testBit n = if lo ≤ n ∧ n < lo + len then v.testBit (n - lo) else (reg s k).testBit n := by
  rw [setRfld, reg_setReg_same, Nat.testBit_mod_two_pow, decide_eq_true hn, Bool.true_and, testBit_setFieldOf]

theorem testBit_setRfld_one (s : State) (k m : Nat) {n : Nat} (hn : n < 64) :
    (reg (setRfld s k m 1 1) k).testBit n = true ↔ n = m ∨ (reg s k).testBit n = true := by
  rw [testBit_setRfld _ _ _ _ _ hn]
  by_cases h : n = m
  · subst h
    rw [if_pos ⟨Nat.le_refl n, Nat.lt_succ_self n⟩, Nat.sub_self]
    simp
  · rw [if_neg (by omega)]
    simp [h]

theorem cfgShows_blockCheck {s : State} {i : Nat} (h : goodBlock s (i + 1) = none) {n : Nat} (hn : n < 64) :
    CfgShows (blockCheck s i) n ↔ n = 8 + (i + 1) ∨ n = 0 ∨ CfgShows s n := by
  rw [CfgShows, reg_congr (blockCheck_bad_regs h), testBit_setRfld_one _ _ _ hn, testBit_setRfld_one _ _ _ hn]
  rfl

/-- With every block bad the checks set bit 0 and the bit of each block checked, and clear none. -/
theorem cfgShows_foldl (l : List Nat) : ∀ (s : State), (∀ b, b ∈ s.cfgBlocks → cfgBlockOk b = false) → ∀ n, n < 64 →
    (CfgShows s n ∨ (∃ i ∈ l, n = 8 + (i + 1) ∨ n = 0)) → CfgShows (l.foldl blockCheck s) n := by
  induction l with
  | nil =>
    intro s _ n _ h
    rcases h with h | ⟨i, hi, -⟩
    · exact h
    · exact absurd hi List.not_mem_nil
  | cons j l ih =>
    intro s hbad n hn h
    have hnone := goodBlock_none hbad (j + 1)
    refine ih (blockCheck s j) (by rw [blockCheck_bad_blocks hnone]; exact hbad) n hn ?_
    rcases h with h | ⟨i, hi, hin⟩
    · exact .inl ((cfgShows_blockCheck hnone hn).2 (.inr (.inr h)))
    · rcases List.mem_cons.1 hi with rfl | hi
      · refine .inl ((cfgShows_blockCheck hnone hn).2 ?_)
        rcases hin with hin | hin
        · exact .inl hin
        · exact .inr (.inl hin)
      · exact .inr ⟨i, hi, hin⟩

theorem bitAt_eq_testBit (w n : Nat) : bitAt w n = w.testBit n := by
  rw [bitAt, Nat.testBit_eq_decide_div_mod_eq, Nat.shiftRight_eq_div_pow]
  rfl

/-! ### Boot and resets -/

section
variable {s : State} (hb : s.boot = .verifying) (hr : s.ramps = []) (hw : s.warm = 0) (hf : s.fatal = none)
include hb hr hw hf

theorem verifyDone_recovers (hc : bootChoice s = none) :
    verifyDone s = { setRfld (setRfld s (okey Reg.secStatus) 2 1 (b2n s.dirActive)) (okey Reg.secStatus) 3 1 0 with boot := .recovery } := by
  rw [verifyDone, if_neg (by simp [hb, hr, hw, hf])]
  simp only [hc]

theorem verifyDone_runs {b : Bool} {img : Image} (hc : bootChoice s = some (b, img)) :
    verifyDone s =
      let k := okey Reg.secStatus
      let s0 := setRfld (setRfld s k 2 1 (b2n s.dirActive)) k 3 1 0
      let s1 := setRfld s0 k 3 1 (b2n (s.dirTrial && b == s.dirNext))
      let keys := ofld s Reg.secStatus 0 2 == 1 || ofld s Reg.secStatus 0 2 == 2
      let s2 := setRfld { s1 with running := some img, smcStart := s.tick, dirTrial := false, boot := .powering, keys := keys }
        (okey Reg.glbId) 32 32 (imageVersion img)
      let s3 := (List.range 8).foldl (fun s p => setRfld s (pkey p Reg.detInfo) 0 16 (imageRed img)) s2
      let s4 := if s3.tripSeen then { logNote s3 [] with tripSeen := false } else s3
      nextStep (upOrder.map (fun l => l.map (fun d => (d, true)))) (checkBlocks s4) := by
  rw [verifyDone, if_neg (by simp [hb, hr, hw, hf])]
  simp only [hc]

end

section
variable {s : State} {d : Nat} (hd : s.initing.contains d = true) (ha : alive s = true)
include hd ha

theorem memoryInitDone_eq : memoryInitDone d s =
    let s1 := initDomain { s with initing := s.initing.filter (· != d) } d
    if s1.boot == .memInit && s1.initing.isEmpty then { s1 with boot := .done } else s1 := by
  rw [memoryInitDone, if_neg (by rw [hd, ha]; exact Bool.false_ne_true)]

theorem memoryInitEnd_waits
    (h : ((initDomain { s with initing := s.initing.filter (· != d) } d).boot == .memInit &&
      (initDomain { s with initing := s.initing.filter (· != d) } d).initing.isEmpty) = false)
    (hb : (s.boot == .memInit && (initDomain { s with initing := s.initing.filter (· != d) } d).boot == .done) = false) :
    memoryInitEnd d s = initDomain { s with initing := s.initing.filter (· != d) } d := by
  have he : memoryInitDone d s = initDomain { s with initing := s.initing.filter (· != d) } d :=
    (memoryInitDone_eq hd ha).trans (if_neg (by rw [h]; exact Bool.false_ne_true))
  rw [memoryInitEnd, he]
  exact if_neg (by rw [hb]; exact Bool.false_ne_true)

theorem memoryInitEnd_boots (hb : s.boot = .memInit) (h1 : (initDomain { s with initing := s.initing.filter (· != d) } d).boot = .memInit)
    (h2 : (initDomain { s with initing := s.initing.filter (· != d) } d).initing = []) :
    memoryInitEnd d s = bootCommit { initDomain { s with initing := s.initing.filter (· != d) } d with boot := .done } := by
  have he : memoryInitDone d s = { initDomain { s with initing := s.initing.filter (· != d) } d with boot := .done } :=
    (memoryInitDone_eq hd ha).trans (if_pos (by rw [h1, h2]; rfl))
  rw [memoryInitEnd, he]
  exact if_pos (by rw [hb]; rfl)

end

/-- Settles O49: each event takes its branch; bad blocks leave their bits in CFG_STATUS by induction over the blocks checked. -/
theorem bootAndResetCommands : Obligations.BootAndResetCommands := by
  unfold Obligations.BootAndResetCommands
  refine ⟨fun s mv h => ?_, fun s h => ?_, fun s => rfl, fun s hb hp hv ht => ?_, fun s hb hr hw hf => ?_,
    fun b _ => cfgBlockOk_iff b, fun s h id h1 h5 => ?_, fun s d hlt hd ha => ?_, fun s v h0 hkey ha => ?_, fun s hi hl => ?_, fun s ha => ?_⟩
  · exact congrArg Host.Outcome.next (if_neg (by rw [h]; exact Bool.false_ne_true))
  · exact congrArg Host.Outcome.next (if_neg (by rw [h]; exact Bool.false_ne_true))
  · exact congrArg Host.Outcome.next (if_neg (by rw [hb, hp, hv, ht]; exact Bool.false_ne_true))
  · exact ⟨fun hc => congrArg Host.Outcome.next (verifyDone_recovers hb hr hw hf hc),
      fun b img hc => congrArg Host.Outcome.next (verifyDone_runs hb hr hw hf hc)⟩
  · intro w
    have hshows : ∀ n, n < 64 → (∃ i ∈ List.range 5, n = 8 + (i + 1) ∨ n = 0) → bitAt w n = true := fun n hn hi => by
      rw [bitAt_eq_testBit]
      exact cfgShows_foldl (List.range 5) s h n hn (.inr hi)
    have hid : id - 1 ∈ List.range 5 := List.mem_range.2 (by omega)
    exact ⟨hshows 0 (by omega) ⟨id - 1, hid, .inr rfl⟩, hshows (8 + id) (by omega) ⟨id - 1, hid, .inl (by omega)⟩⟩
  · intro s1
    have hon : ∀ {u v : State}, u = v → onUnit (decide (d < 30)) u = .next v := fun e =>
      (onUnit_next (decide_eq_true hlt) _).trans (congrArg _ e)
    refine ⟨fun hb hb1 => hon (memoryInitEnd_waits hd ha ?_ ?_), fun hb hb1 he => hon (memoryInitEnd_boots hd ha hb hb1 he),
      fun hb1 he => hon (memoryInitEnd_waits hd ha ?_ ?_)⟩
    · rw [beq_eq_false_iff_ne.2 hb1, Bool.false_and]
    · rw [beq_eq_false_iff_ne.2 hb, Bool.false_and]
    · rw [Bool.and_eq_false_iff]
      exact .inr (List.isEmpty_eq_false_iff.2 he)
    · have hnot : (s1.boot == .done) = false := by rw [hb1]; rfl
      exact (congrArg _ hnot).trans (Bool.and_false _)
  · refine congrArg Host.Outcome.next (if_pos ?_)
    rw [h0, hkey, ha]
    rfl
  · refine congrArg Host.Outcome.next (if_pos ?_)
    rw [hi, hl]
    rfl
  · exact congrArg Host.Outcome.next (if_pos ha)

/-! ### The supply -/

theorem stageRaise_eq {s : State} (h : s.vin = true) (mv1 mv2 : Nat) (droop : Bool) :
    stageRaise mv1 mv2 droop s =
      let s1 := takeSample (takeSample { s with droop := s.droop || droop } mv1) mv2
      let want := max (min (sampleStage mv1) (sampleStage mv2)) (b2n droop)
      if stage s < want then enterStage s1 want else s1 := by
  rw [stageRaise, if_neg (by rw [h]; exact Bool.false_ne_true)]

/-- Settles O50: the samples and the stage decide which branch each supply event takes. -/
theorem supplyStageCommands : Obligations.SupplyStageCommands := by
  unfold Obligations.SupplyStageCommands
  refine ⟨fun s mv1 mv2 droop h => ?_, fun s mv h hmv hst => ?_, fun s h => ?_, fun s mv h h0 h4 hmv => ?_, fun s mv h h4 hmv hf => ?_⟩
  · intro s1 want
    exact ⟨fun hlt => congrArg Host.Outcome.next ((stageRaise_eq h mv1 mv2 droop).trans (if_pos hlt)),
      fun hle => congrArg Host.Outcome.next ((stageRaise_eq h mv1 mv2 droop).trans (if_neg (Nat.not_lt.2 hle)))⟩
  · refine congrArg Host.Outcome.next (if_neg ?_)
    rw [h, decide_eq_false (Nat.not_le.2 hmv), decide_eq_false (Nat.not_le.2 hst)]
    exact Bool.false_ne_true
  · exact congrArg Host.Outcome.next (if_neg (by rw [h]; exact Bool.false_ne_true))
  · refine congrArg Host.Outcome.next (if_neg ?_)
    rw [h, decide_eq_false h0, decide_eq_false (Nat.not_le.2 h4), decide_eq_false (Nat.not_lt.2 hmv)]
    exact Bool.false_ne_true
  · refine congrArg Host.Outcome.next (if_pos ?_)
    rw [decide_eq_true h4, h, decide_eq_true hmv, hf]
    rfl

end Sys2Proof.Machine
end

section
/-! SUPPORT. Fabric ports: administration, bring-up, discovery, flits and spare lanes, one equation per case (11 R344 to R357). -/

namespace Sys2Proof.Machine

theorem portOf_setPort_same (s : State) (p : Nat) (v : Port) : portOf (setPort s p v) p = v := sget_sset_same _ _ _ _

theorem portState_setPort (s : State) (q p : Nat) (v : Port) : portState (setPort s q v) p = portState s p := rfl

/-! ### Administration and bring-up -/

section
variable {s : State} {p : Nat}

theorem portWrite_down (h : portAdmin s p = false) (view : Nat) (v : Word) :
    portWrite view p v s = storeWord s view (Reg.fabPortCfg + 8 * p) v.toNat := by
  simp only [portWrite, h, Bool.false_eq_true, if_false]

theorem portWrite_up (h : portAdmin s p = true) (view : Nat) (v : Word) :
    portWrite view p v s = storeWord s view (Reg.fabPortCfg + 8 * p) (setFieldOf v.toNat 0 7 (ofld s (Reg.fabPortCfg + 8 * p) 0 7)) := by
  simp only [portWrite, h, if_true]

theorem portAdminUp_trains {v : Word} (ha : alive s = true) (hv : bitAt v.toNat 8 = true) (h : portAdmin s p = false) :
    portAdminUp 8 p v s = startTrain (storeWord s 8 (Reg.fabPortCfg + 8 * p) v.toNat) p := by
  rw [portAdminUp, if_neg (by simp [ha, hv]), portWrite_down h]
  exact if_neg (by rw [h]; exact Bool.false_ne_true)

theorem portAdminDown_drains {v : Word} (ha : alive s = true) (hv : bitAt v.toNat 8 = false) (h : portAdmin s p = true) :
    portAdminDown 8 p v s =
      drainPort (storeWord s 8 (Reg.fabPortCfg + 8 * p) (setFieldOf v.toNat 0 7 (ofld s (Reg.fabPortCfg + 8 * p) 0 7))) p := by
  rw [portAdminDown, if_neg (by simp [ha, hv]), portWrite_up h]
  exact if_pos h

theorem portTrained_runs (h : portState s p = 1) (hl : usableLanes (portOf s p) ≠ 0) :
    portTrained p s =
      setPortState (setRfld s (okey (Reg.fabPortStatus + 8 * p)) 4 4 (usableLanes (portOf s p))) p (if isJarip s p then 2 else 7) :=
  (if_neg (not_not_intro h)).trans (if_neg hl)

theorem startTrain_may (h : mayTrain s p = true) :
    startTrain s p = setPortState (setPort s p { portOf s p with cfg := ofld s (Reg.fabPortCfg + 8 * p) 0 7 }) p 1 := if_pos h

theorem portDrainDone_drops (h : portState s p = 6) (hsp : (portOf s p).sparing = none) (hse : (portOf s p).sent = [])
    (hh : (portOf s p).held = []) : portDrainDone p s = linkDrop s p := by
  refine if_pos ?_
  rw [h, hsp, hse, hh]
  rfl

theorem portDrainDone_waits (h : (portOf s p).sparing ≠ none ∨ (portOf s p).sent ≠ [] ∨ (portOf s p).held ≠ []) : portDrainDone p s = s := by
  refine if_neg ?_
  rw [Bool.and_eq_true, Bool.and_eq_true, Bool.and_eq_true, Option.isNone_iff_eq_none, List.isEmpty_iff, List.isEmpty_iff]
  rintro ⟨⟨⟨-, hsp⟩, hse⟩, hh⟩
  exact h.elim (· hsp) (fun h => h.elim (· hse) (· hh))

end

/-! ### Discovery -/

/-- The partner's NODE and GLOBAL_ID from a record are kept in the port's status. -/
def noteNeighbour (s : State) (p : Nat) (r : List Byte) : State :=
  setRfld (setRfld s (okey (Reg.fabPortStatus + 8 * p)) 16 12 (fieldOf (leField r 10 2) 0 12)) (okey (Reg.fabPortStatus + 8 * p)) 32 18
    (fieldOf (leField r 4 4) 0 18)

/-- A record names another partner than the port's status does. -/
def otherNeighbour (s : State) (p : Nat) (r : List Byte) : Bool :=
  rfld s (okey (Reg.fabPortStatus + 8 * p)) 16 12 != fieldOf (leField r 10 2) 0 12 ||
    rfld s (okey (Reg.fabPortStatus + 8 * p)) 32 18 != fieldOf (leField r 4 4) 0 18

theorem otherNeighbour_iff (s : State) (p : Nat) (r : List Byte) : otherNeighbour s p r = true ↔
    rfld s (okey (Reg.fabPortStatus + 8 * p)) 16 12 ≠ fieldOf (leField r 10 2) 0 12 ∨
      rfld s (okey (Reg.fabPortStatus + 8 * p)) 32 18 ≠ fieldOf (leField r 4 4) 0 18 := by
  rw [otherNeighbour, Bool.or_eq_true, bne_iff_ne, bne_iff_ne]

/-- Every check of a record includes that it can be read. -/
theorem recordHeard_of_ok {s : State} {p : Nat} {r : List Byte} (h : recordOk s p r = true) : recordHeard r = true := by
  simp only [recordOk, Bool.and_eq_true] at h
  obtain ⟨⟨⟨⟨⟨⟨⟨⟨hlen, hver⟩, hcrc⟩, -⟩, -⟩, -⟩, -⟩, -⟩, -⟩ := h
  simp only [recordHeard, hlen, hver, hcrc, Bool.and_self]

section
variable {s : State} {p : Nat} {r : List Byte} (hst : portState s p = 3 ∨ portState s p = 5)
include hst

theorem discovery_eq : discovery p r s =
    let s1 := if recordHeard r then noteNeighbour s p r else s
    if recordOk s p r then setPortState (grantCredits (setPort s1 p { portOf s1 p with nbrCaps := leField r 15 1 }) p) p 4
    else if portState s p = 5 && (recordHeard r && otherNeighbour s p r) then portEvent s1 p 5 5
    else setPortState s1 p 5 :=
  if_pos (by simpa using hst)

theorem discovery_ok (h : recordOk s p r = true) : discovery p r s =
    setPortState (grantCredits (setPort (noteNeighbour s p r) p { portOf (noteNeighbour s p r) p with nbrCaps := leField r 15 1 }) p) p 4 := by
  simp only [discovery_eq hst, recordHeard_of_ok h, h, if_true]

theorem discovery_unheard (h : recordOk s p r = false) (hh : recordHeard r = false) : discovery p r s = setPortState s p 5 := by
  simp only [discovery_eq hst, h, hh, Bool.false_and, Bool.and_false, Bool.false_eq_true, if_false]

theorem discovery_same (h : recordOk s p r = false) (hh : recordHeard r = true) (hs : portState s p = 3 ∨ ¬ otherNeighbour s p r = true) :
    discovery p r s = setPortState (noteNeighbour s p r) p 5 := by
  have hno : (decide (portState s p = 5) && (true && otherNeighbour s p r)) = false := by
    rcases hs with hs | hs
    · rw [hs]
      rfl
    · rw [Bool.eq_false_iff.2 hs, Bool.and_false, Bool.and_false]
  simp only [discovery_eq hst, h, hh, hno, Bool.false_eq_true, if_true, if_false]

theorem discovery_changed (h : recordOk s p r = false) (hh : recordHeard r = true) (hs : portState s p = 5) (ho : otherNeighbour s p r = true) :
    discovery p r s = portEvent (noteNeighbour s p r) p 5 5 := by
  simp only [discovery_eq hst, h, hh, ho, hs, decide_true, Bool.and_self, Bool.false_eq_true, if_true, if_false]

end

/-! ### Flits -/

section
variable {s : State} {p : Nat} {f : List Byte} (hp : flitPort s p = true)
include hp

section
variable (hg : flitGood f = true)
include hg

theorem flitArrives_next
    (h0 : fieldOf (leField f 0 4) 24 4 = 0)
    (h1 : fieldOf (leField f 0 4) 0 12 = ((flitAck { portOf s p with fails := 0 } (fieldOf (leField f 0 4) 12 12)).rxLast + 1) % 4096) :
    flitArrives p f s =
      let x := flitAck { portOf s p with fails := 0 } (fieldOf (leField f 0 4) 12 12)
      let got := unpackPackets 9 (x.rxBytes ++ (f.drop 4).take 248)
      collGo (replayDown (got.1.foldl (fun s k => arrive p k s) (setPort s p { x with rxLast := fieldOf (leField f 0 4) 0 12, rxBytes := got.2 }))) := by
  simp only [flitArrives, flitData, hp, hg, Bool.not_true, Bool.false_eq_true, if_false]
  rw [if_pos (by rw [h1, decide_eq_true h0, decide_eq_true rfl]; rfl)]

theorem flitArrives_other
    (h : fieldOf (leField f 0 4) 24 4 ≠ 0 ∨
      fieldOf (leField f 0 4) 0 12 ≠ ((flitAck { portOf s p with fails := 0 } (fieldOf (leField f 0 4) 12 12)).rxLast + 1) % 4096) :
    flitArrives p f s = collGo (replayDown (setPort s p (flitAck { portOf s p with fails := 0 } (fieldOf (leField f 0 4) 12 12)))) := by
  simp only [flitArrives, flitData, hp, hg, Bool.not_true, Bool.false_eq_true, if_false]
  rw [if_neg (by
    rw [Bool.and_eq_true, decide_eq_true_iff, decide_eq_true_iff]
    exact not_and_or.2 h)]
  rfl

theorem flitReplay_again (h : fieldOf (leField f 0 4) 24 4 = 2) :
    flitReplay p f s =
      let x := flitAck { portOf s p with fails := 0 } (fieldOf (leField f 0 4) 12 12)
      x.sent.foldl (fun s g => emit s (.flit p g)) (setPort s p x) := by
  simp only [flitReplay, hp, hg, h, Bool.not_true, Bool.false_eq_true, ne_eq, not_true_eq_false, if_false]

theorem flitCredit_grants (h : fieldOf (leField f 0 4) 24 4 = 3) :
    flitCredit p f s = pumpPort (grantCredits (setPort s p (flitAck { portOf s p with fails := 0 } (fieldOf (leField f 0 4) 12 12))) p) p := by
  simp only [flitCredit, hp, hg, h, Bool.not_true, Bool.false_eq_true, ne_eq, not_true_eq_false, if_false]

end

section
variable (hg : flitGood f = false)
include hg

theorem flitArrives_bad : flitArrives p f s = collGo (replayDown (flitBad s p)) := by
  simp only [flitArrives, flitData, hp, hg, Bool.not_true, Bool.not_false, Bool.false_eq_true, if_false, if_true, List.foldl_nil]

theorem flitReplay_bad : flitReplay p f s = flitBad s p := by
  simp only [flitReplay, hp, hg, Bool.not_true, Bool.not_false, Bool.false_eq_true, if_false, if_true]

theorem flitCredit_bad : flitCredit p f s = flitBad s p := by
  simp only [flitCredit, hp, hg, Bool.not_true, Bool.not_false, Bool.false_eq_true, if_false, if_true]

end

/-- A port that exchanges flits has FEC lock. -/
theorem portState_of_flitPort : 2 ≤ portState s p := by
  rw [flitPort, Bool.and_eq_true, Bool.and_eq_true, decide_eq_true_iff] at hp
  exact hp.1.2

end

theorem flitBad_few {s : State} {p : Nat} (h : (portOf s p).fails < 15) : flitBad s p =
    setPort (emit s (.flit p (flitBytes (portOf s p).txSeq (portOf s p).rxLast 2 []))) p { portOf s p with fails := (portOf s p).fails + 1 } :=
  if_neg (Nat.not_le.2 h)

theorem flitBad_sixteenth {s : State} {p : Nat} (h : (portOf s p).fails = 15) (hst : 2 ≤ portState s p) :
    flitBad s p = startTrain (linkDrop s p) p :=
  (if_pos (by rw [h])).trans (if_pos hst)

/-! ### Spare lanes -/

section
variable {s : State} {p : Nat} (lane : Nat)

/-- The port's state with a lane worn. -/
def wornPort (s : State) (p lane : Nat) : State := setPort s p ((portOf s p).wear lane)

theorem laneWear_eq (h1 : 1 ≤ portRole s p) (h4 : portRole s p ≤ 4) :
    laneWear p lane s =
      let steer := setPort (wornPort s p lane) p { (portOf s p).wear lane with sparing := some lane }
      if (freeSpare (wornPort s p lane) p).isSome && decide (stage s < 2) && portState s p == 4 then drainPort steer p
      else if (freeSpare (wornPort s p lane) p).isSome && (portOf s p).sparing.isNone && portState s p == 6 && portAdmin s p then steer
      else portWidth (wornPort s p lane) p := by
  rw [laneWear, if_neg (by simp; omega)]
  dsimp only
  rw [portOf_setPort_same]
  rfl

theorem portWidth_wornPort : portWidth (wornPort s p lane) p =
    let x := (portOf s p).wear lane
    let k := okey (Reg.fabPortStatus + 8 * p)
    let s2 := setRfld (wornPort s p lane) k 8 1 (b2n (!x.spares.isEmpty))
    if portState s p = 0 then s2 else if usableLanes x = 0 then linkDrop s2 p else setRfld s2 k 4 4 (usableLanes x) := by
  rw [portWidth, wornPort, portOf_setPort_same, portState_setPort]

variable (h1 : 1 ≤ portRole s p) (h4 : portRole s p ≤ 4)
include h1 h4

theorem laneWear_drains (hf : freeSpare (wornPort s p lane) p ≠ none) (hst : portState s p = 4) (hs : stage s < 2) :
    laneWear p lane s = drainPort (setPort (wornPort s p lane) p { (portOf s p).wear lane with sparing := some lane }) p := by
  rw [laneWear_eq lane h1 h4]
  refine if_pos ?_
  rw [Option.isSome_iff_ne_none.2 hf, decide_eq_true hs, hst]
  rfl

theorem laneWear_joins (hf : freeSpare (wornPort s p lane) p ≠ none) (hst : portState s p = 6) (hsp : (portOf s p).sparing = none)
    (ha : portAdmin s p = true) :
    laneWear p lane s = setPort (wornPort s p lane) p { (portOf s p).wear lane with sparing := some lane } := by
  rw [laneWear_eq lane h1 h4]
  refine (if_neg ?_).trans (if_pos ?_)
  · rw [hst, Bool.and_eq_true]
    exact fun h => absurd h.2 (by decide)
  · rw [Option.isSome_iff_ne_none.2 hf, hsp, hst, ha]
    rfl

theorem laneWear_narrows (h : freeSpare (wornPort s p lane) p = none ∨
      (¬ (portState s p = 4 ∧ stage s < 2) ∧ ¬ (portState s p = 6 ∧ (portOf s p).sparing = none ∧ portAdmin s p = true))) :
    laneWear p lane s = portWidth (wornPort s p lane) p := by
  rw [laneWear_eq lane h1 h4]
  refine (if_neg ?_).trans (if_neg ?_)
  · simp only [Bool.and_eq_true, decide_eq_true_iff, beq_iff_eq]
    rintro ⟨⟨hf, hs⟩, hst⟩
    exact h.elim (Option.isSome_iff_ne_none.1 hf) (fun h => h.1 ⟨hst, hs⟩)
  · simp only [Bool.and_eq_true, Option.isNone_iff_eq_none, beq_iff_eq]
    rintro ⟨⟨⟨hf, hsp⟩, hst⟩, ha⟩
    exact h.elim (Option.isSome_iff_ne_none.1 hf) (fun h => h.2 ⟨hst, hsp, ha⟩)

end

theorem laneSpareDone_trained {s : State} {p lane i : Nat} (hst : portState s p = 6) (hsp : (portOf s p).sparing = some lane)
    (hf : freeSpare s p = some i) :
    laneSpareDone p s =
      let t := setPort s p { portOf s p with sparing := none, spares := (portOf s p).spares ++ [(lane, i)] }
      setPortState (report (bumpEpoch (portWidth t p)) 0x09 0 10 (unitField 10 p) none 0
        (leBytes 1 3 ++ leBytes 2 (8 * p + lane) ++ leBytes 2 (8 * (p % 8) + lane) ++ leBytes 2 (64 + i) ++ leBytes 1 (lanesLeft t (p / 8)))) p 2 := by
  simp only [laneSpareDone, hsp, hf, hst, ne_eq, not_true_eq_false, if_false]

/-- Settles O52: each port command takes the branch of the port's state. -/
theorem fabricPortCommands : Obligations.FabricPortCommands := by
  unfold Obligations.FabricPortCommands
  have hon : ∀ {p : Nat}, p < 16 → ∀ {u v : State}, u = v → onUnit (isPort p) u = .next v := fun hp _ _ e =>
    (onUnit_next (decide_eq_true hp) _).trans (congrArg _ e)
  refine ⟨fun s p v hp ha => ⟨fun hv h => hon hp (portAdminUp_trains ha hv h),
      fun hv h => hon hp (congrArg replayDown (portAdminDown_drains ha hv h))⟩, fun s p hp => ?_, fun s p r hp hst => ?_,
    fun s p f hp hfp => ?_, fun s p lane hp hl h1 h4 => ?_⟩
  · refine ⟨fun h hu => hon hp (congrArg healthRefresh (portTrained_runs h hu)), fun h => hon hp (if_pos h),
      fun h hm => hon hp ((if_pos h).trans (startTrain_may hm)), fun h => hon hp (if_pos h), fun h => hon hp (if_pos h),
      fun h => hon hp (congrArg (fun t => drained (replayDown t)) (if_pos h)), fun h => hon hp (if_pos h),
      fun h hsp hse hh => hon hp (congrArg (fun t => drained (replayDown t)) (portDrainDone_drops h hsp hse hh)),
      fun h => hon hp (congrArg (fun t => drained (replayDown t)) (portDrainDone_waits h))⟩
  · intro k node gid s1 changed
    exact ⟨fun h => hon hp (discovery_ok hst h), fun h hh => hon hp (discovery_unheard hst h hh),
      fun h hh hs => hon hp (discovery_same hst h hh (hs.imp_right (mt (otherNeighbour_iff s p r).1))),
      fun h hh hs hc => hon hp (discovery_changed hst h hh hs ((otherNeighbour_iff s p r).2 hc))⟩
  · intro h x got
    refine ⟨fun hg => ⟨fun h0 hn => hon hp (flitArrives_next hfp hg h0 hn), fun ho => hon hp (flitArrives_other hfp hg ho),
        fun h2 => hon hp (congrArg replayDown (flitReplay_again hfp hg h2)),
        fun h3 => hon hp (congrArg replayDown (flitCredit_grants hfp hg h3))⟩, fun hg hlt => ?_, fun hg h15 => hon hp ?_⟩
    · intro t
      have ht : flitBad s p = t := flitBad_few hlt
      exact ⟨hon hp ((flitArrives_bad hfp hg).trans (congrArg (fun t => collGo (replayDown t)) ht)),
        hon hp (congrArg replayDown ((flitReplay_bad hfp hg).trans ht)), hon hp (congrArg replayDown ((flitCredit_bad hfp hg).trans ht))⟩
    · exact (flitArrives_bad hfp hg).trans (congrArg (fun t => collGo (replayDown t)) (flitBad_sixteenth h15 (portState_of_flitPort hfp)))
  · intro k x s1 s2 steer mover partner
    have hon2 : ∀ {u v : State}, u = v → onUnit (isPort p && decide (lane < 8)) (healthRefresh (replayDown u)) = .next (healthRefresh (replayDown v)) :=
      fun e => (onUnit_next (by rw [isPort, decide_eq_true hp, decide_eq_true hl]; rfl) _).trans (congrArg (fun t => Host.Outcome.next (healthRefresh (replayDown t))) e)
    refine ⟨fun hf hm => hon2 (laneWear_drains lane h1 h4 hf hm.1 hm.2), fun hf hm => hon2 (laneWear_joins lane h1 h4 hf hm.1 hm.2.1 hm.2.2),
      fun h => hon2 ((laneWear_narrows lane h1 h4 h).trans (portWidth_wornPort lane)), fun i hst hsp hf => ?_⟩
    exact hon hp (congrArg healthRefresh (laneSpareDone_trained hst hsp hf))

end Sys2Proof.Machine
end

section
/-! SUPPORT. Vat requests at their source and at their destination, replies, timers and FENCE: one equation per case (11 R359 to R382). -/

namespace Sys2Proof.Machine

/-! ### Issue -/

theorem srcPairs_setDesc (s : State) (r : Nat) (d : Desc) : (setDesc s r d).srcPairs = s.srcPairs := rfl

theorem tick_setDesc (s : State) (r : Nat) (d : Desc) : (setDesc s r d).tick = s.tick := rfl

theorem srcPairs_dmaParts (s : State) (src : VatFrom) (f : Nat → Nat) : (dmaParts s src f).srcPairs = s.srcPairs :=
  foldl_keeps (·.srcPairs) (by intros; rfl) _ s

theorem tick_dmaParts (s : State) (src : VatFrom) (f : Nat → Nat) : (dmaParts s src f).tick = s.tick :=
  foldl_keeps (·.tick) (by intros; rfl) _ s

theorem morePart_keeps (s : State) (src : VatFrom) : (morePart s src).srcPairs = s.srcPairs ∧ (morePart s src).tick = s.tick := by
  cases src with
  | engine r seq =>
    unfold morePart
    dsimp only
    split
    · split
      · exact ⟨srcPairs_setDesc _ _ _, tick_setDesc _ _ _⟩
      · exact ⟨srcPairs_setDesc _ _ _, tick_setDesc _ _ _⟩
      · exact ⟨srcPairs_setDesc _ _ _, tick_setDesc _ _ _⟩
      · exact ⟨rfl, rfl⟩
    · exact ⟨rfl, rfl⟩
  | tile t n key => exact ⟨srcPairs_dmaParts s _ _, tick_dmaParts s _ _⟩
  | mcast t n keys => exact ⟨srcPairs_dmaParts s _ _, tick_dmaParts s _ _⟩
  | ldbase t => exact ⟨rfl, rfl⟩
  | dma r seq off len => exact ⟨rfl, rfl⟩
  | sie r seq => exact ⟨rfl, rfl⟩
  | hart h va at_ => exact ⟨rfl, rfl⟩
  | edge => exact ⟨rfl, rfl⟩

/-- The state once a queued request, or the first part of it, has been taken from the queue. -/
def takenFrom (s : State) (q0 q : VatReq) : Option VatReq → State
  | none => { s with vatQueue := s.vatQueue.erase q0 }
  | some r => morePart { s with vatQueue := s.vatQueue.map (fun y => if y = q0 then r else y) } q.src

theorem takenFrom_keeps (s : State) (q0 q : VatReq) (rest : Option VatReq) :
    (takenFrom s q0 q rest).srcPairs = s.srcPairs ∧ (takenFrom s q0 q rest).tick = s.tick := by
  cases rest with
  | none => exact ⟨rfl, rfl⟩
  | some r => exact morePart_keeps _ _

theorem srcOf_congr {s u : State} (h : u.srcPairs = s.srcPairs) (k : Nat) : srcOf u k = srcOf s k := by
  rw [srcOf, h, srcOf]

theorem syncDue_congr {s u : State} (h : u.tick = s.tick) (x : SrcPair) : syncDue u x = syncDue s x := by
  rw [syncDue, h, syncDue]

/-- The state after a request's packet, with the RESYNC that its pair owes, has been sent. -/
def sentAs (s : State) (x : SrcPair) (pkt : Packet) : State × Option Nat :=
  sendPacket (if x.resync.isSome then (sendPacket s (syncOf pkt)).1 else s) pkt

theorem issuePkt_due {s : State} {key : Nat} {x : SrcPair} (hx : srcOf s key = x) (hdue : syncDue s x = true) (src : VatFrom) (part len : Nat)
    (k : Packet) : issuePkt s key src part len k =
      let pkt := { k with seq := BitVec.ofNat 16 x.next }
      let sent := sentAs s x pkt
      setSrc sent.1 key { srcOf sent.1 key with
        next := (x.next + 1) % 65536, resync := none, reqs := x.reqs ++ [⟨x.next, src, part, len, pkt, 0, sent.2, s.tick, x.resync.isSome⟩] } := by
  subst hx
  rw [issuePkt]
  exact if_neg (by rw [hdue]; exact Bool.false_ne_true)

/-- The two parts of a request have its partition, F-die, node and operation. -/
theorem splitReq_keeps (q0 : VatReq) :
    (splitReq q0).1.part = q0.part ∧ (splitReq q0).1.fdie = q0.fdie ∧ (splitReq q0).1.node = q0.node := by
  unfold splitReq
  split
  · exact ⟨rfl, rfl, rfl⟩
  · exact ⟨rfl, rfl, rfl⟩

/-- A bound request that may be issued finds its pair's RESYNC due. -/
theorem syncDue_of_nextVat {s : State} {f n : Nat} {q0 : VatReq} (h : nextVat s f = some q0) (hb : boundJob s q0.part = some n) :
    syncDue s (srcOf s (srcKey q0.part f q0.node)) = true := by
  have hmay := List.find?_some h
  simp only [Bool.and_eq_true, vatMay, hb, Option.isNone_some, Bool.false_or] at hmay
  exact hmay.2.2

section
variable {s : State} {f : Nat} {q0 : VatReq} (ha : alive s = true) (hst : stage s < 4)
include ha hst

theorem vatIssue_off (hopen : domainOpen s (4 + f) = false) (hq : s.vatQueue.find? (fun y => y.fdie == f) = some q0) :
    vatIssue f s = vatEnd { s with vatQueue := s.vatQueue.erase q0 }
      ⟨0, q0.src, q0.part, q0.len, vatPacket s f 0 q0, 0, none, s.tick, false⟩ .off := by
  rw [vatIssue, if_neg (by simp [ha, hst])]
  simp only [hopen, hq, Bool.not_false, if_true]

variable (hopen : domainOpen s (4 + f) = true) (hn : nextVat s f = some q0)
include hopen hn

theorem vatIssue_unbound (hb : boundJob s (splitReq q0).1.part = none) :
    vatIssue f s = vatEnd { s with vatQueue := s.vatQueue.erase q0 }
      ⟨0, (splitReq q0).1.src, (splitReq q0).1.part, (splitReq q0).1.len, vatPacket s f 0 (splitReq q0).1, 0, none, s.tick, false⟩ .addr := by
  rw [vatIssue, if_neg (by simp [ha, hst]), if_neg (by simp [hopen])]
  simp only [hn, hb]

theorem vatIssue_bound {n : Nat} (hb : boundJob s (splitReq q0).1.part = some n) :
    vatIssue f s = issuePkt (takenFrom s q0 (splitReq q0).1 (splitReq q0).2) (srcKey (splitReq q0).1.part f (splitReq q0).1.node)
      (splitReq q0).1.src (splitReq q0).1.part (splitReq q0).1.len (vatPacket s f n (splitReq q0).1) := by
  rw [vatIssue, if_neg (by simp [ha, hst]), if_neg (by simp [hopen])]
  rcases hs : splitReq q0 with ⟨q, rest⟩
  rw [hs] at hb
  simp only [hn, hs, hb]
  cases rest with
  | none => rfl
  | some r => rfl

theorem vatIssue_sends {n : Nat} (hb : boundJob s (splitReq q0).1.part = some n) :
    vatIssue f s =
      let q := (splitReq q0).1
      let k := srcKey q.part f q.node
      let x := srcOf s k
      let pkt := { vatPacket s f n q with seq := BitVec.ofNat 16 x.next }
      let sent := sentAs (takenFrom s q0 q (splitReq q0).2) x pkt
      setSrc sent.1 k { srcOf sent.1 k with
        next := (x.next + 1) % 65536, resync := none, reqs := x.reqs ++ [⟨x.next, q.src, q.part, q.len, pkt, 0, sent.2, s.tick, x.resync.isSome⟩] } := by
  obtain ⟨hsrc, htick⟩ := takenFrom_keeps s q0 (splitReq q0).1 (splitReq q0).2
  obtain ⟨hpart, -, hnode⟩ := splitReq_keeps q0
  have hdue : syncDue s (srcOf s (srcKey (splitReq q0).1.part f (splitReq q0).1.node)) = true := by
    rw [hpart, hnode]
    exact syncDue_of_nextVat hn (by rw [← hpart]; exact hb)
  rw [vatIssue_bound ha hst hopen hn hb, issuePkt_due (srcOf_congr hsrc _) (by rw [syncDue_congr htick, hdue]), htick]

end

theorem toNat_ofNat_fieldOf (w lo n : Nat) : (BitVec.ofNat n (fieldOf w lo n)).toNat = fieldOf w lo n := by
  rw [BitVec.toNat_ofNat, fieldOf, Nat.mod_mod]

theorem packetForward_moves {s : State} {k : Packet} {t : Nat} (ha : alive s = true) (hst : stage s < 4) (hage : k.age.toNat + t ≤ 250)
    (hhops : k.hops.toNat < 40) (hdest : k.dest.toNat ≠ nodeId s) :
    packetForward k t s = (sendPacket s { k with age := BitVec.ofNat 16 (k.age.toNat + t), hops := BitVec.ofNat 8 (k.hops.toNat + 1) }).1 := by
  refine if_neg ?_
  rw [ha, decide_eq_false (Nat.not_le.2 hst), decide_eq_false (by omega), decide_eq_false (by omega), decide_eq_false hdest]
  exact Bool.false_ne_true

/-! ### Arriving requests -/

section
variable {s : State} {k : Packet} (act : Packet → State → State) (ha : alive s = true) (hst : stage s < 4) (htap : s.tapHeld = false)
  (hdest : k.dest.toNat = nodeId s)
include ha hst htap hdest

theorem requestArrives_reaches : requestArrives act k s =
    let x := dstOf s (dstKey k)
    let a := acceptReq act s k
    let d := seqDiff k.seq.toNat x.expected
    if d = 0 then (if a.2 then acceptHeld act (dstKey k) x.held.length a.1 else a.1)
    else if 32768 ≤ d then replyAck s k
    else if x.held.any (fun y => y.seq == k.seq) then s
    else if x.held.length < Config.reorderSpace then setDst s (dstKey k) { x with held := x.held ++ [k] }
    else reply s k 5 x.expected [] := by
  rw [requestArrives]
  exact if_neg (by
    rw [ha, htap, decide_eq_false (Nat.not_le.2 hst), decide_eq_false (not_not_intro hdest)]
    exact Bool.false_ne_true)

theorem requestArrives_accepted (hd : seqDiff k.seq.toNat (dstOf s (dstKey k)).expected = 0) (hok : (acceptReq act s k).2 = true) :
    requestArrives act k s = acceptHeld act (dstKey k) (dstOf s (dstKey k)).held.length (acceptReq act s k).1 := by
  rw [requestArrives_reaches act ha hst htap hdest]
  exact (if_pos hd).trans (if_pos hok)

theorem requestArrives_kept (hd : seqDiff k.seq.toNat (dstOf s (dstKey k)).expected = 0) (hok : (acceptReq act s k).2 = false) :
    requestArrives act k s = (acceptReq act s k).1 := by
  rw [requestArrives_reaches act ha hst htap hdest]
  exact (if_pos hd).trans (if_neg (by rw [hok]; exact Bool.false_ne_true))

theorem requestArrives_behind (hd : 32768 ≤ seqDiff k.seq.toNat (dstOf s (dstKey k)).expected) : requestArrives act k s = replyAck s k := by
  rw [requestArrives_reaches act ha hst htap hdest]
  exact (if_neg (by omega)).trans (if_pos hd)

section
variable (h0 : 0 < seqDiff k.seq.toNat (dstOf s (dstKey k)).expected) (h1 : seqDiff k.seq.toNat (dstOf s (dstKey k)).expected < 32768)
  (hnew : (dstOf s (dstKey k)).held.any (fun y => y.seq == k.seq) = false)
include h0 h1 hnew

theorem requestArrives_held (hroom : (dstOf s (dstKey k)).held.length < Config.reorderSpace) :
    requestArrives act k s = setDst s (dstKey k) { dstOf s (dstKey k) with held := (dstOf s (dstKey k)).held ++ [k] } := by
  rw [requestArrives_reaches act ha hst htap hdest]
  exact (if_neg (by omega)).trans ((if_neg (by omega)).trans ((if_neg (by rw [hnew]; exact Bool.false_ne_true)).trans (if_pos hroom)))

theorem requestArrives_nacked (hroom : Config.reorderSpace ≤ (dstOf s (dstKey k)).held.length) :
    requestArrives act k s = reply s k 5 (dstOf s (dstKey k)).expected [] := by
  rw [requestArrives_reaches act ha hst htap hdest]
  exact (if_neg (by omega)).trans ((if_neg (by omega)).trans ((if_neg (by rw [hnew]; exact Bool.false_ne_true)).trans
    (if_neg (Nat.not_lt.2 hroom))))

end
end

/-! ### Answers at the source -/

section
variable {s : State} {k : Packet} (hdest : k.dest.toNat = nodeId s)
include hdest

section
variable {q : SrcReq} (hq : (srcOf s (replyKey k)).reqs.find? (fun q => q.seq == k.seq.toNat) = some q)
include hq

theorem readRespPkt_ends : readRespPkt k s = fencesSee (vatEnd (setSrc s (replyKey k) { srcOf s (replyKey k) with
    reqs := (srcOf s (replyKey k)).reqs.filter (fun y => y.seq != q.seq) }) q (.data k.data)) (replyKey k) [] := by
  simp only [readRespPkt, hq, hdest, ne_eq, not_true_eq_false, if_false]

theorem rejectPkt_ends : rejectPkt k s = fencesSee (vatEnd (setSrc s (replyKey k) { srcOf s (replyKey k) with
    reqs := (srcOf s (replyKey k)).reqs.filter (fun y => y.seq != q.seq) }) q .reject) (replyKey k) [q.seq] := by
  simp only [rejectPkt, hq, hdest, ne_eq, not_true_eq_false, if_false]

end

/-- A request that an ACK ends: a posted one up to the number. -/
def ackHits (k : Packet) (q : SrcReq) : Bool :=
  decide (seqDiff k.seq.toNat q.seq < 32768) && (q.pkt.ptype == 1 || q.pkt.ptype == 8 || (q.pkt.ptype == 2 && !bitAt q.pkt.aop.toNat 7))

theorem ackPkt_ends (h : (srcOf s (replyKey k)).reqs.any (ackHits k) = true) :
    ackPkt k s = fencesSee (((srcOf s (replyKey k)).reqs.filter (ackHits k)).foldl (fun s q => vatEnd s q .done)
      (setSrc s (replyKey k) { srcOf s (replyKey k) with reqs := (srcOf s (replyKey k)).reqs.filter (fun q => !ackHits k q) })) (replyKey k) [] := by
  refine if_neg ?_
  have h' : (srcOf s (replyKey k)).reqs.any (fun q => decide (seqDiff k.seq.toNat q.seq < 32768) &&
    (q.pkt.ptype == 1 || q.pkt.ptype == 8 || (q.pkt.ptype == 2 && !bitAt q.pkt.aop.toNat 7))) = true := h
  rw [h', decide_eq_false (not_not_intro hdest)]
  exact Bool.false_ne_true

theorem nackPkt_backs (h : (srcOf s (replyKey k)).reqs ≠ []) :
    nackPkt k s = setSrc s (replyKey k) { srcOf s (replyKey k) with
      backoff := some k.seq.toNat
      reqs := (srcOf s (replyKey k)).reqs.map (fun q => if seqDiff q.seq k.seq.toNat < 32768 then { q with nacks := q.nacks + 1 } else q) } := by
  refine if_neg ?_
  rw [List.isEmpty_eq_false_iff.2 h, decide_eq_false (not_not_intro hdest)]
  exact Bool.false_ne_true

theorem resyncPkt_new (h : ¬ ((dstOf s (dstKey k)).synced = some k.seq.toNat ∧ seqDiff (dstOf s (dstKey k)).expected k.seq.toNat < 32768)) :
    resyncPkt k s = setDst s (dstKey k) { dstOf s (dstKey k) with expected := k.seq.toNat, held := [], synced := some k.seq.toNat } := by
  refine if_neg ?_
  rw [Bool.or_eq_true, Bool.and_eq_true, decide_eq_true_iff, decide_eq_true_iff, beq_iff_eq]
  exact not_or.2 ⟨not_not_intro hdest, h⟩

end

theorem resyncPkt_copy {s : State} {k : Packet}
    (h : (dstOf s (dstKey k)).synced = some k.seq.toNat ∧ seqDiff (dstOf s (dstKey k)).expected k.seq.toNat < 32768) :
    resyncPkt k s = s := by
  refine if_pos ?_
  rw [Bool.or_eq_true, Bool.and_eq_true, decide_eq_true_iff, decide_eq_true_iff, beq_iff_eq]
  exact .inr h

/-! ### Timers -/

theorem backoffExpiry_replays {s : State} {id : PairId} {k : Nat} (h : (srcOf s (pairKey id)).backoff = some k) :
    backoffExpiry id s = ((srcOf s (pairKey id)).reqs.filter (fun q => decide (seqDiff q.seq k < 32768))).foldl
      (fun s q => resend s (pairKey id) q) (setSrc s (pairKey id) { srcOf s (pairKey id) with backoff := none }) := by
  simp only [backoffExpiry, h]

theorem retransmit_resends {s : State} {id : PairId} {seq : BitVec 16} {q : SrcReq}
    (h : (srcOf s (pairKey id)).reqs.find? (fun q => q.seq == seq.toNat) = some q) : retransmit id seq s = resend s (pairKey id) q := by
  simp only [retransmit, h]

theorem deadTarget_fails {s : State} {id : PairId} {seq : BitVec 16} (h : (srcOf s (pairKey id)).reqs.any (fun q => q.seq == seq.toNat) = true) :
    deadTarget id seq s = fencesSee ((srcOf s (pairKey id)).reqs.foldl (fun s q => vatEnd s q .dead)
      (setSrc s (pairKey id) { srcOf s (pairKey id) with reqs := [], resync := some s.tick, backoff := none })) (pairKey id)
      ((srcOf s (pairKey id)).reqs.map (·.seq)) :=
  if_neg (by rw [h]; exact Bool.false_ne_true)

theorem isPair_of_bounds {id : PairId} (hp : id.part < 8) (hf : id.fdie < 2) (hn : id.node < 4096) : isPair id = true := by
  rw [isPair, decide_eq_true hp, decide_eq_true hf, decide_eq_true hn]
  rfl

/-! ### FENCE -/

theorem fenceStart_all {s : State} {r : Nat} {seq : BitVec 32} {d : Desc} (hd : startable s r seq 8 0 = some d) (hscope : d.fld 20 1 = 0)
    (hq : s.vatQueue.any (fun q => q.part == d.part && (match q.src with | .hart _ _ _ => true | _ => false)) = false) :
    fenceStart r seq s =
      let waits := (s.srcPairs.filter (fun e => e.1 / 8192 == d.part && !e.2.reqs.isEmpty)).map (fun e => (e.1, (e.2.next + 65535) % 65536))
      fenceEnd (startWork s r d (.fence ⟨waits, []⟩)) r { d with phase := .running } ⟨waits, []⟩ := by
  simp only [fenceStart, hd, hscope, if_true, beq_self_eq_true, Bool.true_or, Bool.and_true]
  exact if_neg (Bool.eq_false_iff.1 hq)

/-- Settles O53: an issue, an arrival, a reply and a timer take the branch of their pair's state. -/
theorem fabricRequestCommands : Obligations.FabricRequestCommands := by
  unfold Obligations.FabricRequestCommands
  refine ⟨fun s f q0 hf ha hst => ?_, fun s k t ha hst hage hhops hdest => congrArg Host.Outcome.next (packetForward_moves ha hst hage hhops hdest),
    fun s k c hc ha hst htap hdest => ?_, fun s k hdest => ?_, fun s id hp hf hn => ?_, fun s r seq d hr hd hscope hq => ?_⟩
  · intro q s1 k x
    have hon : ∀ {u v : State}, u = v → onUnit (isFdie f) u = .next v := fun e => (onUnit_next (decide_eq_true hf) _).trans (congrArg _ e)
    refine ⟨fun n hopen hn hb => ?_, fun hopen hn hb => hon (vatIssue_unbound ha hst hopen hn hb), fun hopen hq => hon (vatIssue_off ha hst hopen hq)⟩
    intro pkt sent
    have hs1 : s1 = takenFrom s q0 q (splitReq q0).2 := by
      show (match (splitReq q0).2 with
        | none => { s with vatQueue := s.vatQueue.erase q0 }
        | some r => morePart { s with vatQueue := s.vatQueue.map (fun y => if y = q0 then r else y) } q.src) = _
      cases (splitReq q0).2 with
      | none => rfl
      | some r => rfl
    have hsent : sent = sentAs (takenFrom s q0 q (splitReq q0).2) x pkt := by rw [← hs1]; rfl
    refine ⟨hon ((vatIssue_sends ha hst hopen hn hb).trans ?_), BitVec.toNat_ofNat _ _, rfl, rfl, rfl, rfl, toNat_ofNat_fieldOf _ _ _,
      toNat_ofNat_fieldOf _ _ _⟩
    rw [hsent]
  · intro x d a
    have hexec : ∀ {u : State}, requestArrives mordantAct k s = u → exec c s = .next (collGo u) := by
      intro u e
      rcases hc with ⟨ht, rfl⟩ | ⟨ht, rfl⟩ | ⟨ht, rfl⟩
      · exact congrArg (fun t => Host.Outcome.next (collGo t)) ((if_pos ht).trans e)
      · exact congrArg (fun t => Host.Outcome.next (collGo t)) ((if_pos ht).trans e)
      · exact congrArg (fun t => Host.Outcome.next (collGo t)) ((if_pos ht).trans e)
    exact ⟨fun hd hok => hexec (requestArrives_accepted _ ha hst htap hdest hd hok),
      fun hd hok => hexec (requestArrives_kept _ ha hst htap hdest hd hok),
      fun h0 h1 hnew hroom => hexec (requestArrives_held _ ha hst htap hdest h0 h1 hnew hroom),
      fun h0 h1 hnew hroom => hexec (requestArrives_nacked _ ha hst htap hdest h0 h1 hnew hroom),
      fun hd => hexec (requestArrives_behind _ ha hst htap hdest hd)⟩
  · intro key x
    have hcoll : ∀ {u v : State}, u = v → (Host.Outcome.next (collGo u) : Host.Outcome State Fault Refusal) = .next (collGo v) := fun e =>
      congrArg (fun t => Host.Outcome.next (collGo t)) e
    refine ⟨fun q hq => ⟨hcoll (readRespPkt_ends hdest hq), hcoll (rejectPkt_ends hdest hq)⟩, fun hit hhit hany => ?_,
      fun h => congrArg Host.Outcome.next (nackPkt_backs hdest h), fun h => congrArg Host.Outcome.next (resyncPkt_new hdest h),
      fun h => congrArg Host.Outcome.next (resyncPkt_copy h)⟩
    subst hhit
    exact hcoll (ackPkt_ends hdest hany)
  · intro key x
    have hon : ∀ {u v : State}, u = v → onUnit (isPair id) u = .next v := fun e =>
      (onUnit_next (isPair_of_bounds hp hf hn) _).trans (congrArg _ e)
    exact ⟨fun k h => hon (backoffExpiry_replays h), fun seq q h => hon (retransmit_resends h),
      fun seq h => hon (congrArg collGo (deadTarget_fails h))⟩
  · exact (onUnit_next (decide_eq_true hr) _).trans (congrArg _ (fenceStart_all hd hscope hq))

end Sys2Proof.Machine
end

section
/-! SUPPORT. The network: NET descriptors, received frames, retries and rate control, one equation per case (11 R385 to R391). -/

namespace Sys2Proof.Machine

/-! ### NET descriptors -/

section
variable {s : State} {r op : Nat} {seq : BitVec 32} {d : Desc} (hd : startable s r seq 7 op = some d)
include hd

theorem netStart_refused (k : Desc → Nat → Qp → State)
    (h : qpCount s d.part ≤ d.fld 20 2 ∨ (qpOf s d.part (d.fld 20 2)).st ≠ 3 ∨ neeFenced s (qpOf s d.part (d.fld 20 2)) = true ∨
      (if op = 5 then (qpOf s d.part (d.fld 20 2)).rring else (qpOf s d.part (d.fld 20 2)).sring) ≠ r) :
    netStart op r seq s k = endDesc s r d St.netQp 0 := by
  simp only [netStart, hd]
  refine if_pos ?_
  simp only [Bool.or_eq_true, decide_eq_true_iff, or_assoc]
  exact h

theorem netStart_passes (k : Desc → Nat → Qp → State) (hn : d.fld 20 2 < qpCount s d.part) (hst : (qpOf s d.part (d.fld 20 2)).st = 3)
    (hf : neeFenced s (qpOf s d.part (d.fld 20 2)) = false)
    (hr : (if op = 5 then (qpOf s d.part (d.fld 20 2)).rring else (qpOf s d.part (d.fld 20 2)).sring) = r) :
    netStart op r seq s k = k d (d.fld 20 2) (qpOf s d.part (d.fld 20 2)) := by
  simp only [netStart, hd]
  refine if_neg ?_
  rw [decide_eq_false (Nat.not_le.2 hn), hst, hf, decide_eq_false (not_not_intro hr)]
  exact Bool.false_ne_true

end

/-- The meaning of the NET descriptors that name a QP, by their operation. -/
def netCommand (op r : Nat) (seq : BitVec 32) (s : State) : State := if op = 5 then netRecv r seq s else netSend op r seq s

theorem exec_netCommand {c : Instr} {op r : Nat} {seq : BitVec 32} (hr : r < 4096)
    (hc : op = 0 ∧ c = .netWrite r seq ∨ op = 1 ∧ c = .netWriteImm r seq ∨ op = 2 ∧ c = .netSend r seq ∨ op = 3 ∧ c = .netSendImm r seq ∨
      op = 4 ∧ c = .netRead r seq ∨ op = 5 ∧ c = .netRecv r seq) (s : State) : exec c s = .next (netCommand op r seq s) := by
  rcases hc with ⟨rfl, rfl⟩ | ⟨rfl, rfl⟩ | ⟨rfl, rfl⟩ | ⟨rfl, rfl⟩ | ⟨rfl, rfl⟩ | ⟨rfl, rfl⟩
  · exact onUnit_next (decide_eq_true hr) _
  · exact onUnit_next (decide_eq_true hr) _
  · exact onUnit_next (decide_eq_true hr) _
  · exact onUnit_next (decide_eq_true hr) _
  · exact onUnit_next (decide_eq_true hr) _
  · exact onUnit_next (decide_eq_true hr) _

section
variable {s : State} {r op : Nat} {seq : BitVec 32} {d : Desc} (hd : startable s r seq 7 op = some d)
include hd

theorem netCommand_refused
    (h : qpCount s d.part ≤ d.fld 20 2 ∨ (qpOf s d.part (d.fld 20 2)).st ≠ 3 ∨ neeFenced s (qpOf s d.part (d.fld 20 2)) = true ∨
      (if op = 5 then (qpOf s d.part (d.fld 20 2)).rring else (qpOf s d.part (d.fld 20 2)).sring) ≠ r) :
    netCommand op r seq s = endDesc s r d St.netQp 0 := by
  by_cases h5 : op = 5
  · subst h5
    exact (if_pos rfl).trans (netStart_refused hd _ h)
  · exact (if_neg h5).trans (netStart_refused hd _ h)

variable (hn : d.fld 20 2 < qpCount s d.part) (hst : (qpOf s d.part (d.fld 20 2)).st = 3)
  (hf : neeFenced s (qpOf s d.part (d.fld 20 2)) = false)
  (hr : (if op = 5 then (qpOf s d.part (d.fld 20 2)).rring else (qpOf s d.part (d.fld 20 2)).sring) = r)
include hn hst hf hr

theorem netCommand_recv (h5 : op = 5) : netCommand op r seq s =
    setQp (startWork s r d (.net (d.fld 20 2))) d.part (d.fld 20 2)
      { qpOf s d.part (d.fld 20 2) with recvs := (qpOf s d.part (d.fld 20 2)).recvs ++ [(r, seq)] } := by
  subst h5
  exact (if_pos rfl).trans (netStart_passes hd _ hn hst hf hr)

theorem netCommand_sends {o : RoceOp} {bs : List Byte} (h5 : op ≠ 5)
    (h16 : op = 4 → ((qpOf s d.part (d.fld 20 2)).ops.filter (fun o => o.op == 4)).length < 16) (hm : netMessage s d op = .ok (o, bs)) :
    netCommand op r seq s =
      let q := qpOf s d.part (d.fld 20 2)
      sendFrame (setQp (startWork s r d (.net (d.fld 20 2))) d.part (d.fld 20 2) { q with
        sendPsn := (q.sendPsn + q.packets (d.fld 32 4)) % 2 ^ 24
        ops := q.ops ++ [⟨r, seq, op, q.sendPsn, q.packets (d.fld 32 4)⟩] }) q q.sendPsn o bs := by
  refine (if_neg h5).trans ((netStart_passes hd _ hn hst hf hr).trans ?_)
  simp only [hm]
  refine if_neg ?_
  rw [Bool.and_eq_true, decide_eq_true_iff, decide_eq_true_iff]
  exact fun h => Nat.not_le.2 (h16 h.1) h.2

end

/-! ### MODIFY -/

/-- A QP as a move to a later state leaves it. -/
def movedQp (s : State) (q : Qp) (ctx : List Byte) : Qp :=
  let q1 := { q with st := leField ctx 0 1, ctx := ctx }
  let rate := portRate s q1.port
  if leField ctx 0 1 = 2 then { q1 with recvPsn := leField ctx 16 3 }
  else if leField ctx 0 1 = 3 then { q1 with sendPsn := leField ctx 12 3, rate := rate, target := rate, alpha := 1, periods := 0 } else q1

theorem movedQp_one {s : State} {q : Qp} {ctx : List Byte} (h : leField ctx 0 1 = 1) : movedQp s q ctx = { q with st := 1, ctx := ctx } := by
  simp only [movedQp, h, Nat.reduceEqDiff, if_false]

theorem movedQp_two {s : State} {q : Qp} {ctx : List Byte} (h : leField ctx 0 1 = 2) :
    movedQp s q ctx = { q with st := 2, ctx := ctx, recvPsn := leField ctx 16 3 } := by
  simp only [movedQp, h, if_true]

theorem movedQp_three {s : State} {q : Qp} {ctx : List Byte} (h : leField ctx 0 1 = 3) :
    movedQp s q ctx =
      let rate := portRate s ({ q with st := 3, ctx := ctx } : Qp).port
      { q with st := 3, ctx := ctx, sendPsn := leField ctx 12 3, rate := rate, target := rate, alpha := 1, periods := 0 } := by
  simp only [movedQp, h, Nat.reduceEqDiff, if_false, if_true]

theorem netModify_moves {s : State} {r : Nat} {seq : BitVec 32} {d d1 : Desc} {ctx : List Byte} (hd : startable s r seq 7 6 = some d)
    (hn : d.fld 20 2 < qpCount s d.part)
    (hctx : readVa s d.part (pfld s d.part Reg.ethQpcBase 7 41 * 128 + 128 * d.fld 20 2) 64 = .ok ctx)
    (hr : (qpOf s d.part (d.fld 20 2)).sring = r) (hnext : leField ctx 0 1 = (qpOf s d.part (d.fld 20 2)).st + 1)
    (h1 : 1 ≤ leField ctx 0 1) (h3 : leField ctx 0 1 ≤ 3)
    (hfind : findDesc (qpTouch (setQp s d.part (d.fld 20 2) (movedQp s (qpOf s d.part (d.fld 20 2)) ctx)) d.part (d.fld 20 2)) r seq = some d1) :
    netModify r seq s = settleAll (completeOne
      (qpTouch (setQp s d.part (d.fld 20 2) (movedQp s (qpOf s d.part (d.fld 20 2)) ctx)) d.part (d.fld 20 2)) r d1 St.ok 0 false) := by
  have hmay : (decide (1 ≤ leField ctx 0 1) && decide (leField ctx 0 1 ≤ 3) && ((qpOf s d.part (d.fld 20 2)).st + 1 == leField ctx 0 1)) = true := by
    rw [decide_eq_true h1, decide_eq_true h3, hnext, beq_self_eq_true]
    rfl
  have hring : decide ((qpOf s d.part (d.fld 20 2)).sring ≠ r) = false := decide_eq_false (not_not_intro hr)
  simp only [netModify, hd, hctx, hmay, hring, Bool.false_and, Bool.or_true, Bool.not_true, Bool.false_eq_true, if_false]
  rw [if_neg (Nat.not_le.2 hn)]
  obtain h | h | h : leField ctx 0 1 = 1 ∨ leField ctx 0 1 = 2 ∨ leField ctx 0 1 = 3 := by omega
  · rw [movedQp_one h] at hfind ⊢
    simp only [h, Nat.reduceEqDiff, decide_false, Bool.or_self, Bool.false_eq_true, if_false, hfind]
  · rw [movedQp_two h] at hfind ⊢
    simp only [h, Nat.reduceEqDiff, decide_false, Bool.or_self, Bool.false_eq_true, if_false, hfind]
  · rw [movedQp_three h] at hfind ⊢
    simp only [h, Nat.reduceEqDiff, decide_false, Bool.or_self, Bool.false_eq_true, if_false, hfind]

/-! ### Received frames -/

section
variable {s : State} {p : Nat} {f : Frame} (hcrc : f.icrcOk = true) (hlo : qpBase s p ≤ f.qp) (hhi : f.qp - qpBase s p < qpCount s p)
  (ha : alive s = true) (hnee : neeFenced s (qpOf s p (f.qp - qpBase s p)) = false)
include hcrc hlo hhi ha hnee

theorem roceReceive_passes (hst : (qpOf s p (f.qp - qpBase s p)).st = 2 ∨ (qpOf s p (f.qp - qpBase s p)).st = 3) : (!f.icrcOk || decide (f.qp < qpBase s p) || decide (qpCount s p ≤ f.qp - qpBase s p) ||
    !((qpOf s p (f.qp - qpBase s p)).st == 2 || (qpOf s p (f.qp - qpBase s p)).st == 3) || !alive s ||
    neeFenced s (qpOf s p (f.qp - qpBase s p))) = false := by
  have hst' : ((qpOf s p (f.qp - qpBase s p)).st == 2 || (qpOf s p (f.qp - qpBase s p)).st == 3) = true := by
    rw [Bool.or_eq_true, beq_iff_eq, beq_iff_eq]
    exact hst
  rw [hcrc, decide_eq_false (Nat.not_lt.2 hlo), decide_eq_false (Nat.not_le.2 hhi), hst', ha, hnee]
  rfl

variable (hv : f.rocev2 = true) (hce : f.ce = false)
include hv hce

section
variable (hst : (qpOf s p (f.qp - qpBase s p)).st = 2 ∨ (qpOf s p (f.qp - qpBase s p)).st = 3) (hreq : isRequest f = true)
include hst hreq

theorem roceReceive_next (hdiff : (f.psn.toNat + 2 ^ 24 - (qpOf s p (f.qp - qpBase s p)).recvPsn) % 2 ^ 24 = 0) :
    roceReceive p f s = serveRequest s p (f.qp - qpBase s p) (qpOf s p (f.qp - qpBase s p)) f := by
  simp only [roceReceive, hv, roceReceive_passes hcrc hlo hhi ha hnee hst, hce, hreq, Bool.false_and, Bool.not_true, Bool.false_eq_true,
    if_false, if_true]
  rw [if_pos hdiff]

theorem roceReceive_ahead (h0 : 0 < (f.psn.toNat + 2 ^ 24 - (qpOf s p (f.qp - qpBase s p)).recvPsn) % 2 ^ 24)
    (h1 : (f.psn.toNat + 2 ^ 24 - (qpOf s p (f.qp - qpBase s p)).recvPsn) % 2 ^ 24 < 2 ^ 23) :
    roceReceive p f s = sendFrame s (qpOf s p (f.qp - qpBase s p)) (qpOf s p (f.qp - qpBase s p)).recvPsn
      (.nakSequence (BitVec.ofNat 24 (qpOf s p (f.qp - qpBase s p)).recvPsn)) [] := by
  simp only [roceReceive, hv, roceReceive_passes hcrc hlo hhi ha hnee hst, hce, hreq, Bool.false_and, Bool.not_true, Bool.false_eq_true,
    if_false, if_true]
  rw [if_neg (Nat.ne_of_gt h0), if_pos h1]

end

theorem roceReceive_answer (hreq : isRequest f = false) (hst : (qpOf s p (f.qp - qpBase s p)).st = 3) :
    roceReceive p f s = serveAnswer s p (f.qp - qpBase s p) (qpOf s p (f.qp - qpBase s p)) f := by
  simp only [roceReceive, hv, roceReceive_passes hcrc hlo hhi ha hnee (.inr hst), hce, hreq, Bool.false_and, Bool.not_true,
    Bool.false_eq_true, if_false]
  rw [if_pos hst]

end

/-! ### Retries and rates -/

section
variable {s : State} {p qpn : Nat} (hst : (qpOf s p qpn).st = 3)
include hst

section
variable {o : NetOp} {rest : List NetOp} (ho : (qpOf s p qpn).ops = o :: rest)
include ho

theorem qpTimeout_retries (h : (qpOf s p qpn).retries < (qpOf s p qpn).retryMax) : qpTimeout p qpn false s =
    resendFrom (setQp s p qpn { qpOf s p qpn with retries := (qpOf s p qpn).retries + 1 }) p qpn o.psn := by
  simp only [qpTimeout, ho, hst, h, ne_eq, not_true_eq_false, Bool.false_eq_true, if_false, if_true]

theorem qpTimeout_exhausted (h : (qpOf s p qpn).retryMax ≤ (qpOf s p qpn).retries) : qpTimeout p qpn false s = qpFlush s p qpn St.netQp 4 := by
  simp only [qpTimeout, ho, hst, Nat.not_lt.2 h, ne_eq, not_true_eq_false, Bool.false_eq_true, if_false]

theorem qpTimeout_rnrRetries (h : (qpOf s p qpn).rnrs < (qpOf s p qpn).rnrMax) : qpTimeout p qpn true s =
    resendFrom (setQp s p qpn { qpOf s p qpn with rnrs := (qpOf s p qpn).rnrs + 1 }) p qpn o.psn := by
  simp only [qpTimeout, ho, hst, h, ne_eq, not_true_eq_false, if_false, if_true]

theorem qpTimeout_rnrExhausted (h : (qpOf s p qpn).rnrMax ≤ (qpOf s p qpn).rnrs) : qpTimeout p qpn true s = qpFlush s p qpn St.netQp 4 := by
  simp only [qpTimeout, ho, hst, Nat.not_lt.2 h, ne_eq, not_true_eq_false, if_false, if_true]

end

theorem cnpReceive_cuts : cnpReceive p qpn s = setQp s p qpn { qpOf s p qpn with
    target := (qpOf s p qpn).rate
    rate := clampRate s (qpOf s p qpn).port ((qpOf s p qpn).rate * (1 - (qpOf s p qpn).alpha / 2))
    alpha := (1 - 1 / 256) * (qpOf s p qpn).alpha + 1 / 256, periods := 0 } :=
  if_neg (not_not_intro hst)

theorem rateRecovery_rises : rateRecovery p qpn s = setQp s p qpn { qpOf s p qpn with
    alpha := (qpOf s p qpn).alpha * (1 - 1 / 256)
    rate := clampRate s (qpOf s p qpn).port (((qpOf s p qpn).rate + (qpOf s p qpn).target) / 2)
    target := if ((qpOf s p qpn).periods + 1) % 5 = 0 then clampRate s (qpOf s p qpn).port ((qpOf s p qpn).target + 5000) else (qpOf s p qpn).target
    periods := (qpOf s p qpn).periods + 1 } :=
  if_neg (not_not_intro hst)

end

/-- Settles O54: a descriptor, a frame and a timer take the branch of their QP's state. -/
theorem ethernetCommands : Obligations.EthernetCommands := by
  unfold Obligations.EthernetCommands
  refine ⟨fun s r op seq d c hc hr hd => ?_, fun s r seq d d1 ctx hr hd => ?_, fun s p f hp => ?_, fun s p qpn hp hqp hst => ?_⟩
  · intro qpn q
    have hexec : ∀ {u : State}, netCommand op r seq s = u → exec c s = .next u := fun e =>
      (exec_netCommand hr hc s).trans (congrArg Host.Outcome.next e)
    exact ⟨fun h => hexec (netCommand_refused hd h), fun hn hst hf hring =>
      ⟨fun h5 => hexec (netCommand_recv hd hn hst hf hring h5),
        fun o bs h5 h16 hm => hexec (netCommand_sends hd hn hst hf hring h5 h16 hm)⟩⟩
  · intro qpn q hn hctx hring hnext h1 h3 q1 rate q2 s2 hfind
    exact (onUnit_next (decide_eq_true hr) _).trans (congrArg _ (netModify_moves hd hn hctx hring hnext h1 h3 hfind))
  · have hon : ∀ {u v : State}, u = v → onUnit (decide (p < 8)) u = .next v := fun e => (onUnit_next (decide_eq_true hp) _).trans (congrArg _ e)
    refine ⟨fun h => hon (if_pos (by rw [h]; rfl)), fun hv hcrc hlo hhi ha hce => ?_⟩
    intro qpn q diff hnee hst
    exact ⟨fun hreq h0 => hon (roceReceive_next hcrc hlo hhi ha hnee hv hce hst hreq h0),
      fun hreq h0 h1 => hon (roceReceive_ahead hcrc hlo hhi ha hnee hv hce hst hreq h0 h1),
      fun hreq h3 => hon (roceReceive_answer hcrc hlo hhi ha hnee hv hce hreq h3)⟩
  · intro q
    have hon : ∀ {u v : State}, u = v → onUnit (isQp p qpn) u = .next v := fun e =>
      (onUnit_next (by rw [isQp, decide_eq_true hp, decide_eq_true hqp]; rfl) _).trans (congrArg _ e)
    exact ⟨fun o rest ho => ⟨fun h => hon (qpTimeout_retries hst ho h), fun h => hon (qpTimeout_exhausted hst ho h),
        fun h => hon (qpTimeout_rnrRetries hst ho h), fun h => hon (qpTimeout_rnrExhausted hst ho h)⟩,
      hon (cnpReceive_cuts hst), hon (rateRecovery_rises hst)⟩

end Sys2Proof.Machine
end

section
/-! SUPPORT. Mordant packets: what the bytes of one carry, and what one does when it arrives (12 R393, R403 to R406, R426, 11 R367). -/

namespace Sys2Proof.Machine

/-! ### The bytes of a packet -/

theorem leField_head (n v : Nat) (bs : List Byte) : leField (leBytes n v ++ bs) 0 n = leNat (leBytes n v) := by
  rw [leField, List.drop_zero, List.take_left' (leBytes_length n v)]

theorem leField_skip (n v : Nat) (bs : List Byte) (off len : Nat) : leField (leBytes n v ++ bs) (n + off) len = leField bs off len := by
  rw [leField, List.drop_append, leBytes_length, List.drop_eq_nil_of_le (by rw [leBytes_length]; omega), List.nil_append, Nat.add_sub_cancel_left,
    leField]

section
variable (k : MPacket) (node : Nat)

/-- The control and the payload of a packet, field by field. -/
theorem mordantBytes_data : (mordantBytes k node).data =
    leBytes 1 k.group.toNat ++ (leBytes 1 (k.kind.toNat + 16 * k.phase.toNat) ++ (leBytes 2 k.opseq.toNat ++ (leBytes 4 k.tag.toNat ++
      (leBytes 4 k.lanefmt.toNat ++ (leBytes 2 k.root.toNat ++ (leBytes 1 (k.nlanes.toNat + 8 * b2n k.cfast) ++ (leBytes 1 0 ++ k.payload))))))) := by
  simp [mordantBytes, layoutBytes, patchBytes, leBytes, List.replicate]

theorem mordantBytes_group : leField (mordantBytes k node).data 0 1 = leNat (leBytes 1 k.group.toNat) := by
  rw [mordantBytes_data, leField_head]

theorem mordantBytes_kind : leField (mordantBytes k node).data 1 1 = leNat (leBytes 1 (k.kind.toNat + 16 * k.phase.toNat)) := by
  rw [mordantBytes_data, leField_skip 1 _ _ 0, leField_head]

theorem mordantBytes_opseq : leField (mordantBytes k node).data 2 2 = leNat (leBytes 2 k.opseq.toNat) := by
  rw [mordantBytes_data, leField_skip 1 _ _ 1, leField_skip 1 _ _ 0, leField_head]

theorem mordantBytes_tag : leField (mordantBytes k node).data 4 4 = leNat (leBytes 4 k.tag.toNat) := by
  rw [mordantBytes_data, leField_skip 1 _ _ 3, leField_skip 1 _ _ 2, leField_skip 2 _ _ 0, leField_head]

theorem mordantBytes_lanefmt : leField (mordantBytes k node).data 8 4 = leNat (leBytes 4 k.lanefmt.toNat) := by
  rw [mordantBytes_data, leField_skip 1 _ _ 7, leField_skip 1 _ _ 6, leField_skip 2 _ _ 4, leField_skip 4 _ _ 0, leField_head]

theorem mordantBytes_root : leField (mordantBytes k node).data 12 2 = leNat (leBytes 2 k.root.toNat) := by
  rw [mordantBytes_data, leField_skip 1 _ _ 11, leField_skip 1 _ _ 10, leField_skip 2 _ _ 8, leField_skip 4 _ _ 4, leField_skip 4 _ _ 0, leField_head]

theorem mordantBytes_nlanes : leField (mordantBytes k node).data 14 1 = leNat (leBytes 1 (k.nlanes.toNat + 8 * b2n k.cfast)) := by
  rw [mordantBytes_data, leField_skip 1 _ _ 13, leField_skip 1 _ _ 12, leField_skip 2 _ _ 10, leField_skip 4 _ _ 6, leField_skip 4 _ _ 2,
    leField_skip 2 _ _ 0, leField_head]

theorem mordantBytes_payload : (mordantBytes k node).data.drop 16 = k.payload := by
  rw [mordantBytes_data]
  simp only [leBytes, List.cons_append, List.nil_append, List.drop_succ_cons, List.drop_zero]

end

/-- A field written with its own number of bits reads back. -/
theorem ofNat_leBytes {w : Nat} (n : Nat) (x : BitVec w) (h : w ≤ 8 * n) : BitVec.ofNat w (leNat (leBytes n x.toNat)) = x := by
  have hlt : x.toNat < 2 ^ (8 * n) := Nat.lt_of_lt_of_le x.isLt (Nat.pow_le_pow_right (by omega) h)
  rw [leNat_leBytes, Nat.mod_eq_of_lt hlt, BitVec.ofNat_toNat, BitVec.setWidth_eq]

/-- Two numbers packed into a byte, the first in its low bits, are read back. -/
theorem packed_low {a b : Nat} (w : Nat) (v : BitVec a) (x : BitVec b) (ha : a = w) (hw : 2 ^ w ∣ 256) :
    BitVec.ofNat a (leNat (leBytes 1 (v.toNat + 2 ^ w * x.toNat)) % 2 ^ w) = v := by
  subst ha
  rw [leNat_leBytes]
  apply BitVec.eq_of_toNat_eq
  rw [BitVec.toNat_ofNat, Nat.mod_mod, Nat.mod_mod_of_dvd _ (show 2 ^ a ∣ 2 ^ (8 * 1) from hw), Nat.add_mul_mod_self_left, Nat.mod_eq_of_lt v.isLt]

theorem mordantOf_kind (k : MPacket) (node : Nat) : (mordantOf (mordantBytes k node)).kind = k.kind := by
  show BitVec.ofNat 4 (leField (mordantBytes k node).data 1 1 % 16) = _
  rw [mordantBytes_kind]
  exact packed_low 4 k.kind k.phase rfl (by decide)

theorem mordantOf_phase (k : MPacket) (node : Nat) : (mordantOf (mordantBytes k node)).phase = k.phase := by
  show BitVec.ofNat 2 (fieldOf (leField (mordantBytes k node).data 1 1) 4 2) = _
  have hk := k.kind.isLt
  have hp := k.phase.isLt
  rw [mordantBytes_kind, leNat_leBytes, fieldOf_eq_div_mod]
  apply BitVec.eq_of_toNat_eq
  rw [BitVec.toNat_ofNat]
  omega

theorem mordantOf_nlanes (k : MPacket) (node : Nat) : (mordantOf (mordantBytes k node)).nlanes = k.nlanes := by
  show BitVec.ofNat 3 (leField (mordantBytes k node).data 14 1 % 8) = _
  have hn := k.nlanes.isLt
  rw [mordantBytes_nlanes, leNat_leBytes]
  apply BitVec.eq_of_toNat_eq
  rw [BitVec.toNat_ofNat]
  omega

theorem mordantOf_cfast (k : MPacket) (node : Nat) : (mordantOf (mordantBytes k node)).cfast = k.cfast := by
  show bitAt (leField (mordantBytes k node).data 14 1) 3 = _
  have hn := k.nlanes.isLt
  rw [mordantBytes_nlanes, leNat_leBytes, bitAt_eq_field, fieldOf_eq_div_mod]
  cases k.cfast with
  | true =>
    rw [beq_iff_eq]
    show (k.nlanes.toNat + 8) % 256 / 8 % 2 = 1
    omega
  | false =>
    rw [beq_eq_false_iff_ne]
    show ¬ (k.nlanes.toNat + 0) % 256 / 8 % 2 = 1
    omega

/-- The bytes of a packet carry it. -/
theorem mordantOf_mordantBytes (k : MPacket) (node : Nat) : mordantOf (mordantBytes k node) = k := by
  have hkind := mordantOf_kind k node
  have hphase := mordantOf_phase k node
  have hnlanes := mordantOf_nlanes k node
  have hcfast := mordantOf_cfast k node
  have hgroup := ofNat_leBytes 1 k.group (by omega)
  have hopseq := ofNat_leBytes 2 k.opseq (by omega)
  have htag := ofNat_leBytes 4 k.tag (by omega)
  have hfmt := ofNat_leBytes 4 k.lanefmt (by omega)
  have hroot := ofNat_leBytes 2 k.root (by omega)
  have hpayload := mordantBytes_payload k node
  rw [← mordantBytes_group k node] at hgroup
  rw [← mordantBytes_opseq k node] at hopseq
  rw [← mordantBytes_tag k node] at htag
  rw [← mordantBytes_lanefmt k node] at hfmt
  rw [← mordantBytes_root k node] at hroot
  cases k
  simp only [mordantOf, MPacket.mk.injEq] at *
  exact ⟨rfl, rfl, rfl, hgroup, hkind, hphase, hopseq, htag, hfmt, hroot, hnlanes, hcfast, hpayload, rfl, rfl, rfl, rfl, rfl, rfl⟩

end Sys2Proof.Machine
end

section
/-! SUPPORT. Arriving Mordant packets, operations of a tree, and the COLLECTIVE descriptors, one equation per case (12 R394 to R417). -/

namespace Sys2Proof.Machine

/-! ### A tree edge's packet as a request of its pair -/

/-- The node's own number fits its field. -/
theorem nodeId_lt (s : State) : nodeId s < 2 ^ 12 := by
  rw [nodeId, ofld, rfld, fieldOf]
  exact Nat.mod_lt _ (Nat.two_pow_pos 12)

theorem mordantBytes_dest (s : State) (k : MPacket) : (mordantBytes k (nodeId s)).dest.toNat = nodeId s := by
  show (BitVec.ofNat 12 (nodeId s)).toNat = _
  rw [BitVec.toNat_ofNat, Nat.mod_eq_of_lt (nodeId_lt s)]

section
variable {s : State} {k : Packet} (act : Packet → State → State) (ht : k.ptype = 8)
include ht

theorem acceptReq_edge_granted {p va : Nat} (h : edgeCheck s k = .grant p va) : acceptReq act s k =
    (act k (replyAck (setDst s (dstKey k) { dstOf s (dstKey k) with expected := ((dstOf s (dstKey k)).expected + 1) % 65536 }) k), true) := by
  simp only [acceptReq, ht, h, if_true]

theorem acceptReq_edge_refused (h : edgeCheck s k = .refuse) : acceptReq act s k =
    (refuseReq (setDst s (dstKey k) { dstOf s (dstKey k) with expected := ((dstOf s (dstKey k)).expected + 1) % 65536 }) k, true) := by
  simp only [acceptReq, ht, h, if_true]

theorem acceptReq_edge_discarded (h : edgeCheck s k = .discard) :
    acceptReq act s k = (refusedRecord { s with retiredDiscards := s.retiredDiscards + 1 } k 0 2#8, false) := by
  simp only [acceptReq, ht, h, if_true]

end

theorem mordantBytes_ptype (k : MPacket) (node : Nat) : (mordantBytes k node).ptype = 8 := rfl

/-- The state of a tree edge with its next number expected. -/
def nextEdge (s : State) (w : Packet) : State :=
  setDst s (dstKey w) { dstOf s (dstKey w) with expected := ((dstOf s (dstKey w)).expected + 1) % 65536 }

section
variable {s : State} {w : Packet} (ht : w.ptype = 8) (hdest : w.dest.toNat = nodeId s) (ha : alive s = true) (hst : stage s < 4)
  (htap : s.tapHeld = false) (hn : seqDiff w.seq.toNat (dstOf s (dstKey w)).expected = 0)
include ht hdest ha hst htap hn

theorem requestIn_edge_granted {p va : Nat} (h : edgeCheck s w = .grant p va) :
    requestIn w s = acceptHeld mordantAct (dstKey w) (dstOf s (dstKey w)).held.length (mordantAct w (replyAck (nextEdge s w) w)) := by
  have hacc := acceptReq_edge_granted mordantAct ht h
  have heq := requestArrives_accepted mordantAct ha hst htap hdest hn (by rw [hacc])
  rw [hacc] at heq
  exact heq

theorem requestIn_edge_refused (h : edgeCheck s w = .refuse) :
    requestIn w s = acceptHeld mordantAct (dstKey w) (dstOf s (dstKey w)).held.length (refuseReq (nextEdge s w) w) := by
  have hacc := acceptReq_edge_refused mordantAct ht h
  have heq := requestArrives_accepted mordantAct ha hst htap hdest hn (by rw [hacc])
  rw [hacc] at heq
  exact heq

theorem requestIn_edge_discarded (h : edgeCheck s w = .discard) :
    requestIn w s = refusedRecord { s with retiredDiscards := s.retiredDiscards + 1 } w 0 2#8 := by
  have hacc := acceptReq_edge_discarded mordantAct ht h
  have heq := requestArrives_kept mordantAct ha hst htap hdest hn (by rw [hacc])
  rw [hacc] at heq
  exact heq

end

/-! ### What a packet of an operation does -/

section
variable {k : MPacket} (hk : k.kind.toNat < 4) (node : Nat) (s : State)
include hk

/-- A packet of an operation acts by its phase. -/
theorem mordantAct_operation : mordantAct (mordantBytes k node) s =
    match k.phase.toNat with
    | 0 => morPartial k s
    | 1 => morResultPkt k s
    | 2 => morFailPkt k s
    | _ => morNackPkt k s := by
  rw [mordantAct, mordantOf_mordantBytes]
  obtain h | h | h | h : k.kind.toNat = 0 ∨ k.kind.toNat = 1 ∨ k.kind.toNat = 2 ∨ k.kind.toNat = 3 := by omega
  · rw [h]
    rfl
  · rw [h]
    rfl
  · rw [h]
    rfl
  · rw [h]
    rfl

theorem mordantAct_partial (hp : k.phase = 0#2) : mordantAct (mordantBytes k node) s = morPartial k s := by
  rw [mordantAct_operation hk, hp]
  rfl

theorem mordantAct_result (hp : k.phase = 1#2) : mordantAct (mordantBytes k node) s = morResultPkt k s := by
  rw [mordantAct_operation hk, hp]
  rfl

theorem mordantAct_fail (hp : k.phase = 2#2) : mordantAct (mordantBytes k node) s = morFailPkt k s := by
  rw [mordantAct_operation hk, hp]
  rfl

theorem mordantAct_nack (hp : k.phase = 3#2) : mordantAct (mordantBytes k node) s = morNackPkt k s := by
  rw [mordantAct_operation hk, hp]
  rfl

end

theorem fromParent_none {s : State} {k : MPacket} (hpar : (groupTree s k.group.toNat).parent s (nodeId s) ≠ some k.src.toNat) : fromParent s k = none :=
  if_neg (by rw [beq_eq_false_iff_ne.2 hpar, Bool.and_false]; exact Bool.false_ne_true)

section
variable {s : State} {k : MPacket} {c : MCtx} (ha : alive s = true) (htap : s.tapHeld = false) (hm : morAllowed s k = true)
include ha htap hm

section
variable (hc : morCtx s k.group.toNat k.opseq.toNat = some c)
include hc

/-- The context of an operation with a child's partial added. -/
def withPartial (c : MCtx) (k : MPacket) : MCtx := { c with got := c.got ++ [(some k.src.toNat, lanesOf k.nlanes.toNat k.payload)] }

section
variable (hk : k.kind.toNat < 4) (hp : k.phase = 0#2) (hkid : ((groupTree s k.group.toNat).kids s (nodeId s)).contains k.src.toNat = true)
  (hgot : c.got.any (fun x => x.1 == some k.src.toNat) = false) (hf : c.fail = none)
include hk hp hkid hgot hf

theorem morPartial_reaches : morPartial k s =
    if c.hdr != packetHdr k then morFailUp (setCtx s (withPartial c k)) (withPartial c k) (0, 0) else morAdvance s (withPartial c k) := by
  have hk4 : decide (4 ≤ k.kind.toNat) = false := decide_eq_false (Nat.not_le.2 hk)
  have hp0 : decide (k.phase ≠ 0) = false := by rw [hp]; rfl
  have hf0 : c.fail.isSome = false := by rw [hf]; rfl
  simp only [morPartial, ha, htap, hp0, hk4, hm, hkid, hc, hgot, hf0, Bool.not_true, Bool.or_self, Bool.false_eq_true, if_false]
  rfl

theorem morPartial_advances (h : c.hdr = packetHdr k) : morPartial k s = morAdvance s (withPartial c k) :=
  (morPartial_reaches ha htap hm hc hk hp hkid hgot hf).trans (if_neg (by rw [h, bne_self_eq_false]; exact Bool.false_ne_true))

theorem morPartial_mismatch (h : c.hdr ≠ packetHdr k) :
    morPartial k s = morFailUp (setCtx s (withPartial c k)) (withPartial c k) (0, 0) :=
  (morPartial_reaches ha htap hm hc hk hp hkid hgot hf).trans (if_pos (bne_iff_ne.2 h))

end

section
variable (hpar : (groupTree s k.group.toNat).parent s (nodeId s) = some k.src.toNat)
include hpar

theorem fromParent_is : fromParent s k = some c := by
  refine (if_pos ?_).trans hc
  rw [ha, htap, hm, hpar, beq_self_eq_true]
  rfl

theorem morResultPkt_delivers (hp : k.phase = 1#2) (hv : c.val ≠ none) :
    morResultPkt k s = morDeliver s c (lanesOf k.nlanes.toNat k.payload) := by
  simp only [morResultPkt, fromParent_is ha htap hm hc hpar]
  exact if_pos (by rw [hp, Option.isSome_iff_ne_none.2 hv]; rfl)

theorem morFailPkt_ends (hp : k.phase = 2#2) :
    morFailPkt k s = morEndFail s c (leField k.payload 0 2 % 4096, leField k.payload 2 2) := by
  rw [morFailPkt]
  refine (if_neg (not_not_intro hp)).trans ?_
  simp only [fromParent_is ha htap hm hc hpar]

theorem morNackPkt_marks (hp : k.phase = 3#2) (hv : c.val ≠ none) : morNackPkt k s = setCtx s { c with nacked := true } := by
  simp only [morNackPkt, fromParent_is ha htap hm hc hpar]
  exact if_pos (by rw [hp, Option.isSome_iff_ne_none.2 hv]; rfl)

end

theorem morFailPkt_rises (hp : k.phase = 2#2) (hpar : (groupTree s k.group.toNat).parent s (nodeId s) ≠ some k.src.toNat)
    (hkid : ((groupTree s k.group.toNat).kids s (nodeId s)).contains k.src.toNat = true) (hend : c.ended = false) :
    morFailPkt k s = morFailUp s c (leField k.payload 0 2 % 4096, leField k.payload 2 2) := by
  rw [morFailPkt]
  refine (if_neg (not_not_intro hp)).trans ?_
  simp only [fromParent_none hpar, ha, htap, hm, hkid, hc, hend, Bool.not_true, Bool.or_self, Bool.false_eq_true, if_false]

end
end

/-! ### Timers of an operation -/

section
variable {s : State} {g q : Nat} {c : MCtx} (hc : morCtx s g q = some c)
include hc

theorem morResend_sends {v : List Nat} {p : Nat} (hn : c.nacked = true) (hv : c.val = some v)
    (hp : (groupTree s g).parent s (nodeId s) = some p) :
    morResend g q s = sendMordant (setCtx s { c with nacked := false }) p (morPacket s c 0 (laneBytes v)) := by
  simp only [morResend, hc, hn, hv, hp]

theorem morChildTimeout_fails {child : Nat} (ho : c.own ≠ none) (hv : c.val = none)
    (hkid : ((groupTree s g).kids s (nodeId s)).contains child = true) (hgot : c.got.any (fun x => x.1 == some child) = false) :
    morChildTimeout g q child s = morFailUp s c (child, 1) := by
  have hown : c.own.isNone = false := Bool.eq_false_iff.2 (fun e => ho (Option.isNone_iff_eq_none.1 e))
  simp only [morChildTimeout, hc, hown, hv, hkid, hgot, Option.isSome_none, Bool.not_true, Bool.or_self, Bool.false_eq_true, if_false]

theorem morMemberTimeout_fails {op : MOp} {v : List Nat} {p : Nat} (ho : c.own = some op) (hv : c.val = some v)
    (hp : (groupTree s g).parent s (nodeId s) = some p) :
    morMemberTimeout g q s = opAnswer (dropCtx s c) op (.error (St.remoteDead, p)) := by
  simp only [morMemberTimeout, hc, ho, hv, hp]

end

/-! ### Descriptors -/

section
variable {s : State} {r op : Nat} {seq : BitVec 32} {d : Desc} {ok : State → Desc → Bool} (hd : startable s r seq 9 op = some d)
  (k : Desc → State)
include hd

theorem collStart_invalid (h : ok s d = false) : collStart r seq op ok s k = endDesc s r d St.collInvalid 0 := by
  simp only [collStart, hd, h, Bool.not_false, if_true]

variable (h : ok s d = true)
include h

theorem collStart_loose (hl : (pfld s d.part Reg.detCtrl 0 1 == 1 && sumLoose s d) = true) :
    collStart r seq op ok s k = endDesc s r d St.colourfast 0 := by
  simp only [collStart, hd, h, hl, Bool.not_true, Bool.false_eq_true, if_false, if_true]

theorem collStart_begins (hl : (pfld s d.part Reg.detCtrl 0 1 == 1 && sumLoose s d) = false) : collStart r seq op ok s k = k d := by
  simp only [collStart, hd, h, hl, Bool.not_true, Bool.false_eq_true, if_false]

end

/-- The format bytes of a Mordant descriptor. -/
def fmtBytes (d : Desc) : List Nat := (List.range (d.fld 21 1)).map (fun i => d.fld (22 + i) 1)

/-- The sum of a Mordant descriptor depends on order, as O55 says it. -/
theorem sumLoose_iff {s : State} {d : Desc} {op : Nat} (ho : d.op = op) : (pfld s d.part Reg.detCtrl 0 1 == 1 && sumLoose s d) = true ↔
    pfld s d.part Reg.detCtrl 0 1 = 1 ∧ op ≤ 2 ∧ bitAt (groupWord s (d.fld 20 1)) 1 = false ∧ (5 ∈ fmtBytes d ∨ 6 ∈ fmtBytes d) := by
  have hany : (List.range (d.fld 21 1)).any (fun i => d.fld (22 + i) 1 == 5 || d.fld (22 + i) 1 == 6) = true ↔
      5 ∈ fmtBytes d ∨ 6 ∈ fmtBytes d := by
    rw [List.any_eq_true, fmtBytes, List.mem_map, List.mem_map, ← exists_or]
    refine exists_congr fun i => ?_
    rw [Bool.or_eq_true, beq_iff_eq, beq_iff_eq, and_or_left]
  rw [Bool.and_eq_true, beq_iff_eq, sumLoose, Bool.and_eq_true, Bool.and_eq_true, hany, decide_eq_true_iff, Bool.not_eq_true', ho, and_assoc]

/-- A descriptor of OP 3 or more has no sum. -/
theorem sumLoose_false {s : State} {d : Desc} (h : 2 < d.op) : (pfld s d.part Reg.detCtrl 0 1 == 1 && sumLoose s d) = false := by
  rw [sumLoose, decide_eq_false (Nat.not_le.2 h), Bool.false_and, Bool.false_and, Bool.and_false]

/-- This member gives a value to an operation, as the start of a descriptor tests it. -/
def givesValue (s : State) (op : Nat) (d : Desc) : Bool := op ≠ 3 && (op ≠ 2 || morRank s (d.fld 20 1) == d.fld 26 2)

theorem givesValue_iff {s : State} {op : Nat} {d : Desc} (h : op < 4) :
    givesValue s op d = true ↔ op = 0 ∨ op = 1 ∨ op = 2 ∧ morRank s (d.fld 20 1) = d.fld 26 2 := by
  rw [givesValue, Bool.and_eq_true, Bool.or_eq_true, decide_eq_true_iff, decide_eq_true_iff, beq_iff_eq]
  omega

/-- A Mordant descriptor's operation is put in line. -/
def morStart (s : State) (r op : Nat) (d : Desc) (lanes : List Nat) : State :=
  pushOp (startWork s r d .idle) r d op (fmtBytes d) lanes (d.fld 26 2) 0

section
variable {s : State} {r op : Nat} {seq : BitVec 32} {d : Desc} (hd : startable s r seq 9 op = some d) (h : morBodyOk s d = true)
  (hl : (pfld s d.part Reg.detCtrl 0 1 == 1 && sumLoose s d) = false)
include hd h hl

theorem morDescriptor_gives {bs : List Byte} (hg : givesValue s op d = true) (hr : readVa s d.part (d.fld 32 6) (16 * d.fld 21 1) = .ok bs) :
    morDescriptor op r seq s = morStart s r op d (lanesOf (d.fld 21 1) bs) := by
  have hg' : (decide (op ≠ 3) && (decide (op ≠ 2) || morRank s (d.fld 20 1) == d.fld 26 2)) = true := hg
  rw [morDescriptor, collStart_begins hd _ h hl]
  simp only [hg', hr, if_true]
  rfl

theorem morDescriptor_faults {e : MemErr} (hg : givesValue s op d = true) (hr : readVa s d.part (d.fld 32 6) (16 * d.fld 21 1) = .error e) :
    morDescriptor op r seq s = endMem s r d St.dmaAddress e 0 := by
  have hg' : (decide (op ≠ 3) && (decide (op ≠ 2) || morRank s (d.fld 20 1) == d.fld 26 2)) = true := hg
  rw [morDescriptor, collStart_begins hd _ h hl]
  simp only [hg', hr, if_true]

theorem morDescriptor_receives (hg : givesValue s op d = false) : morDescriptor op r seq s = morStart s r op d [] := by
  have hg' : (decide (op ≠ 3) && (decide (op ≠ 2) || morRank s (d.fld 20 1) == d.fld 26 2)) = false := hg
  rw [morDescriptor, collStart_begins hd _ h hl]
  simp only [hg', Bool.false_eq_true, if_false]
  rfl

end

theorem exec_morDescriptor {c : Instr} {op r : Nat} {seq : BitVec 32} (hr : r < 4096)
    (hc : op = 0 ∧ c = .allreduce r seq ∨ op = 1 ∧ c = .reduce r seq ∨ op = 2 ∧ c = .broadcast r seq ∨ op = 3 ∧ c = .barrier r seq) (s : State) :
    exec c s = .next (collGo (morDescriptor op r seq s)) := by
  rcases hc with ⟨rfl, rfl⟩ | ⟨rfl, rfl⟩ | ⟨rfl, rfl⟩ | ⟨rfl, rfl⟩
  · exact onUnit_next (decide_eq_true hr) _
  · exact onUnit_next (decide_eq_true hr) _
  · exact onUnit_next (decide_eq_true hr) _
  · exact onUnit_next (decide_eq_true hr) _

/-- A bulk all-reduce as it starts. -/
def bulkWork (s : State) (d : Desc) : BulkWork :=
  let t := groupTree s (d.fld 20 1)
  let me := t.place (morRank s (d.fld 20 1))
  let nb := fun (a k : Nat) => t.node s (me.put a ((me.at a + k) % t.e a))
  ⟨0, (List.range 3).map (fun a => nb a (t.e a - 1)), (List.range 3).map (fun a => nb a 1), bulkSteps t me (d.fld 24 4), 0, false, []⟩

/-- The members of a descriptor's group. -/
def memberNodes (s : State) (d : Desc) : List Nat :=
  let t := groupTree s (d.fld 20 1)
  ((List.range t.size).map (fun i => t.node s (t.place i))).filter (fun n => !t.holes.contains n)

theorem mem_memberNodes {s : State} {d : Desc} {i : Nat} (h : i ∈ memberNodes s d) :
    ∃ k, k < (groupTree s (d.fld 20 1)).size ∧ i = (groupTree s (d.fld 20 1)).node s ((groupTree s (d.fld 20 1)).place k) := by
  obtain ⟨k, hk, rfl⟩ := List.mem_map.1 (List.mem_of_mem_filter h)
  exact ⟨k, List.mem_range.1 hk, rfl⟩

section
variable {s : State} {r : Nat} {seq : BitVec 32} {d : Desc}

theorem bulkStart_begins (hd : startable s r seq 9 4 = some d) (h : bulkBodyOk s d = true) :
    bulkStart r seq s =
      let c := crc64 0 (leBytes 1 (d.fld 21 1) ++ leBytes 4 (d.fld 24 4) ++ leBytes 6 (d.fld 38 6))
      pushOp (startWork s r d (.bulk (bulkWork s d))) r d 0 [0x0B, 0x13] [c, c] 0 0 := by
  obtain ⟨-, -, -, hop, -⟩ := startable_spec hd
  exact collStart_begins hd _ h (sumLoose_false (by rw [hop]; decide))

theorem atoaStart_begins (hd : startable s r seq 9 5 = some d) (h : atoaBodyOk s d = true) :
    atoaStart r seq s = startWork s r d (.atoa ⟨1, false, 0, false, memberNodes s d, []⟩) := by
  obtain ⟨-, -, -, hop, -⟩ := startable_spec hd
  exact collStart_begins hd _ h (sumLoose_false (by rw [hop]; decide))

/-! ### Queues -/

section
variable {op : Nat} {b : List Byte} (hd : startable s r seq 9 op = some d) (ht : d.fld 28 4 ≤ 60000)
  (hb : readVa s d.part (d.fld 32 6) 64 = .ok b) (hok : qcbOk b = true) (hjob : boundJob s d.part ≠ none) (right : Nat → QueueWork → Bool)
include hd ht hb hok hjob

theorem queueStart_reaches : queueStart op r seq right s =
    if !right (d.fld 20 8) ⟨b, true, 0⟩ then endDesc s r d St.queueOrder 0 else startWork s r d (.queue ⟨b, true, 0⟩) := by
  have hj : (boundJob s d.part).isNone = false := Bool.eq_false_iff.2 (fun e => hjob (Option.isNone_iff_eq_none.1 e))
  simp only [queueStart, hd, hb, hok, hj, Bool.not_true, Bool.false_eq_true, if_false]
  exact if_neg (Nat.not_lt.2 ht)

theorem queueStart_starts (h : right (d.fld 20 8) ⟨b, true, 0⟩ = true) : queueStart op r seq right s = startWork s r d (.queue ⟨b, true, 0⟩) :=
  (queueStart_reaches hd ht hb hok hjob right).trans (if_neg (by rw [h]; exact Bool.false_ne_true))

theorem queueStart_disordered (h : right (d.fld 20 8) ⟨b, true, 0⟩ = false) : queueStart op r seq right s = endDesc s r d St.queueOrder 0 :=
  (queueStart_reaches hd ht hb hok hjob right).trans (if_pos (by rw [h]; rfl))

end

theorem queueTimeout_fails {w : QueueWork} (hd : runningDesc s r seq 9 = some d) (hw : d.work = .queue w) (h : w.waiting = true) :
    queueTimeout r seq s = endDesc s r d St.queueTimeout 0 := by
  simp only [queueTimeout, hd, hw, h, if_true]

end

/-- The item of a queue operation is in turn, by its OP. -/
def itemInTurn (op m : Nat) (w : QueueWork) : Bool := if op = 8 then m == w.f 48 8 && decide (m < w.f 40 8) else m == w.f 40 8

theorem exec_queueStart {c : Instr} {op r : Nat} {seq : BitVec 32} (hr : r < 4096)
    (hc : op = 6 ∧ c = .qpush r seq ∨ op = 7 ∧ c = .qpop r seq ∨ op = 8 ∧ c = .qrelease r seq) (s : State) :
    exec c s = .next (collGo (queueStart op r seq (itemInTurn op) s)) := by
  rcases hc with ⟨rfl, rfl⟩ | ⟨rfl, rfl⟩ | ⟨rfl, rfl⟩
  · exact onUnit_next (decide_eq_true hr) _
  · exact onUnit_next (decide_eq_true hr) _
  · exact onUnit_next (decide_eq_true hr) _

theorem itemInTurn_iff {op m : Nat} {b : List Byte} : itemInTurn op m ⟨b, true, 0⟩ = true ↔
    if op = 8 then m = leField b 48 8 ∧ m < leField b 40 8 else m = leField b 40 8 := by
  unfold itemInTurn
  split
  · rw [Bool.and_eq_true, beq_iff_eq, decide_eq_true_iff]
    rfl
  · rw [beq_iff_eq]
    rfl

/-- The packets of an operation as commands. -/
theorem exec_edgeIn {k : MPacket} {c : Instr} (hk : k.kind.toNat < 4)
    (hc : k.phase = 0#2 ∧ c = .mordantPartial k ∨ k.phase = 1#2 ∧ c = .mordantResult k ∨ k.phase = 2#2 ∧ c = .mordantFail k ∨
      k.phase = 3#2 ∧ c = .mordantNack k) (s : State) :
    exec c s = .next (collGo (requestIn (mordantBytes k (nodeId s)) s)) := by
  have hph : ∀ n : Nat, k.phase.toNat = n → opPhase n k = true := fun n h => by
    rw [opPhase, decide_eq_true hk, h, beq_self_eq_true]
    rfl
  rcases hc with ⟨h, rfl⟩ | ⟨h, rfl⟩ | ⟨h, rfl⟩ | ⟨h, rfl⟩
  · exact congrArg (fun t => Host.Outcome.next (collGo t)) (if_pos (hph 0 (congrArg BitVec.toNat h)))
  · exact congrArg (fun t => Host.Outcome.next (collGo t)) (if_pos (hph 1 (congrArg BitVec.toNat h)))
  · exact congrArg (fun t => Host.Outcome.next (collGo t)) (if_pos (hph 2 (congrArg BitVec.toNat h)))
  · exact congrArg (fun t => Host.Outcome.next (collGo t)) (if_pos (hph 3 (congrArg BitVec.toNat h)))

/-- Settles O55: descriptors, packets and timers take the branch of their case; a packet's bytes carry it. -/
theorem collectiveCommands : Obligations.CollectiveCommands := by
  unfold Obligations.CollectiveCommands
  refine ⟨fun s r op seq d c hc hr hd => ?_, fun s r seq d hr => ?_, fun s r op seq d b c hc hr hd ht hb hok hjob => ?_,
    fun s r seq d w hr hd hw hwait => ?_, fun s k c hc ha hst htap => ?_, mordantOf_mordantBytes,
    fun s k c node ha htap hm hk => ?_, fun s g q c hg hc => ?_⟩
  · intro n gives fmts start loose
    obtain ⟨-, -, -, hop, -⟩ := startable_spec hd
    have hop4 : op < 4 := by
      rcases hc with ⟨h, -⟩ | ⟨h, -⟩ | ⟨h, -⟩ | ⟨h, -⟩ <;> omega
    have hexec : ∀ {u : State}, morDescriptor op r seq s = u → exec c s = .next (collGo u) := fun e => by
      rw [exec_morDescriptor hr hc s, e]
    have htight : ¬ loose → (pfld s d.part Reg.detCtrl 0 1 == 1 && sumLoose s d) = false := fun h =>
      Bool.eq_false_iff.2 (mt (sumLoose_iff hop).1 h)
    exact ⟨fun h => hexec (collStart_invalid hd _ h), fun h hl => hexec (collStart_loose hd _ h ((sumLoose_iff hop).2 hl)),
      fun bs h hl hg hrd => hexec (morDescriptor_gives hd h (htight hl) ((givesValue_iff hop4).2 hg) hrd),
      fun e h hl hg hrd => hexec (morDescriptor_faults hd h (htight hl) ((givesValue_iff hop4).2 hg) hrd),
      fun h hl hg => hexec (morDescriptor_receives hd h (htight hl) (Bool.eq_false_iff.2 (mt (givesValue_iff hop4).1 hg)))⟩
  · have hon : ∀ {u v : State}, u = v → onUnit (decide (r < 4096)) (collGo u) = .next (collGo v) := fun e =>
      (onUnit_next (decide_eq_true hr) _).trans (congrArg (fun t => Host.Outcome.next (collGo t)) e)
    exact ⟨fun hd h => ⟨bulkWork s d, _, rfl, rfl, hon (bulkStart_begins hd h)⟩,
      fun hd h => ⟨memberNodes s d, fun i hi => mem_memberNodes hi, hon (atoaStart_begins hd h)⟩,
      fun hd h => hon (collStart_invalid hd _ h), fun hd h => hon (collStart_invalid hd _ h)⟩
  · intro right
    have hexec : ∀ {u : State}, queueStart op r seq (itemInTurn op) s = u → exec c s = .next (collGo u) := fun e => by
      rw [exec_queueStart hr hc s, e]
    exact ⟨fun h => hexec (queueStart_starts hd ht hb hok hjob _ (itemInTurn_iff.2 h)),
      fun h => hexec (queueStart_disordered hd ht hb hok hjob _ (Bool.eq_false_iff.2 (mt itemInTurn_iff.1 h)))⟩
  · exact (onUnit_next (decide_eq_true hr) _).trans (congrArg _ (queueTimeout_fails hd hw hwait))
  · intro w x n s0 goesOn
    obtain ⟨hk, hc⟩ := hc
    have hexec : ∀ {u : State}, requestIn w s = u → exec c s = .next (collGo u) := fun e => by
      rw [exec_edgeIn hk hc s, e]
    have hdest := mordantBytes_dest s k
    have ht := mordantBytes_ptype k (nodeId s)
    exact ⟨fun hn h => hexec (requestIn_edge_granted ht hdest ha hst htap hn h), fun hn h => hexec (requestIn_edge_refused ht hdest ha hst htap hn h),
      fun hn h => hexec (requestIn_edge_discarded ht hdest ha hst htap hn h),
      fun h0 h1 hnew => ⟨fun hroom => hexec (requestArrives_held mordantAct ha hst htap hdest h0 h1 hnew hroom),
        fun hroom => hexec (requestArrives_nacked mordantAct ha hst htap hdest h0 h1 hnew hroom)⟩,
      fun hn => hexec (requestArrives_behind mordantAct ha hst htap hdest hn)⟩
  · intro g kids act hc
    refine ⟨fun hp hkid hgot hf => ?_, fun hp hpar hkid hend => (mordantAct_fail hk node s hp).trans (morFailPkt_rises ha htap hm hc hp hpar hkid hend),
      fun hpar => ⟨fun hp hv => (mordantAct_result hk node s hp).trans (morResultPkt_delivers ha htap hm hc hpar hp hv),
        fun hp => (mordantAct_fail hk node s hp).trans (morFailPkt_ends ha htap hm hc hpar hp),
        fun hp hv => (mordantAct_nack hk node s hp).trans (morNackPkt_marks ha htap hm hc hpar hp hv)⟩⟩
    intro c1
    exact ⟨fun h => (mordantAct_partial hk node s hp).trans (morPartial_advances ha htap hm hc hk hp hkid hgot hf h),
      fun h => (mordantAct_partial hk node s hp).trans (morPartial_mismatch ha htap hm hc hk hp hkid hgot hf h)⟩
  · have hon : ∀ {u v : State}, u = v → onUnit (decide (g < 256)) u = .next v := fun e =>
      (onUnit_next (decide_eq_true hg) _).trans (congrArg _ e)
    exact ⟨fun v p hn hv hp => hon (morResend_sends hc hn hv hp),
      fun child ho hv hkid hgot => hon (congrArg collGo (morChildTimeout_fails hc ho hv hkid hgot)),
      fun op v p ho hv hp => hon (congrArg collGo (morMemberTimeout_fails hc ho hv hp))⟩

end Sys2Proof.Machine
end

section
/-! SUPPORT. Launching a job: descriptors, launch packets, timers and the scrub, one equation per case (12 R418 to R426). -/

namespace Sys2Proof.Machine

/-! ### Launch packets as requests of their pair -/

/-- A launch packet needs no job entry. -/
theorem edgeCheck_launch {k : MPacket} (hk : 4 ≤ k.kind.toNat) (s : State) (node : Nat) : edgeCheck s (mordantBytes k node) = .grant 0 0 := by
  have hkind : leField (mordantBytes k node).data 1 1 % 16 = k.kind.toNat := by
    have hlt := k.kind.isLt
    have hphase := k.phase.isLt
    rw [mordantBytes_kind, leNat_leBytes]
    omega
  simp only [edgeCheck, hkind, decide_eq_true hk, Bool.true_or, if_true]

/-- The commands of the launch packets, by kind. -/
theorem exec_launchIn {k : MPacket} {c : Instr}
    (hc : k.kind = 8#4 ∧ c = .prepare k ∨ k.kind = 9#4 ∧ c = .launchAck k ∨ k.kind = 10#4 ∧ c = .report k ∨ k.kind = 11#4 ∧ c = .notice k ∨
      k.kind = 12#4 ∧ c = .commit k ∨ k.kind = 13#4 ∧ c = .launchAbort k ∨ k.kind = 14#4 ∧ c = .teardownPacket k) (s : State) :
    4 ≤ k.kind.toNat ∧ exec c s = .next (requestIn (mordantBytes k (nodeId s)) s) := by
  have hin : ∀ n : Nat, k.kind.toNat = n → mordantIn (launchKind n) k s = requestIn (mordantBytes k (nodeId s)) s := fun n h =>
    if_pos (by rw [launchKind, h, beq_self_eq_true])
  rcases hc with ⟨h, rfl⟩ | ⟨h, rfl⟩ | ⟨h, rfl⟩ | ⟨h, rfl⟩ | ⟨h, rfl⟩ | ⟨h, rfl⟩ | ⟨h, rfl⟩
  · exact ⟨by rw [h]; decide, congrArg Host.Outcome.next (hin 8 (congrArg BitVec.toNat h))⟩
  · exact ⟨by rw [h]; decide, congrArg Host.Outcome.next (hin 9 (congrArg BitVec.toNat h))⟩
  · exact ⟨by rw [h]; decide, congrArg Host.Outcome.next (hin 10 (congrArg BitVec.toNat h))⟩
  · exact ⟨by rw [h]; decide, congrArg Host.Outcome.next (hin 11 (congrArg BitVec.toNat h))⟩
  · exact ⟨by rw [h]; decide, congrArg Host.Outcome.next (hin 12 (congrArg BitVec.toNat h))⟩
  · exact ⟨by rw [h]; decide, congrArg Host.Outcome.next (hin 13 (congrArg BitVec.toNat h))⟩
  · exact ⟨by rw [h]; decide, congrArg Host.Outcome.next (hin 14 (congrArg BitVec.toNat h))⟩

/-! ### What a launch packet does, by its kind -/

section
variable {k : MPacket} (node : Nat) (s : State)

theorem mordantAct_prepare (h : k.kind = 8#4) : mordantAct (mordantBytes k node) s = preparePkt k s := by
  rw [mordantAct, mordantOf_mordantBytes, h]
  rfl

theorem mordantAct_ackLaunch (h : k.kind = 9#4) : mordantAct (mordantBytes k node) s = ackLaunch k s := by
  rw [mordantAct, mordantOf_mordantBytes, h]
  rfl

theorem mordantAct_report (h : k.kind = 10#4) : mordantAct (mordantBytes k node) s = reportPkt k s := by
  rw [mordantAct, mordantOf_mordantBytes, h]
  rfl

theorem mordantAct_notice (h : k.kind = 11#4) : mordantAct (mordantBytes k node) s = noticePkt k s := by
  rw [mordantAct, mordantOf_mordantBytes, h]
  rfl

theorem mordantAct_commit (h : k.kind = 12#4) : mordantAct (mordantBytes k node) s = commitPkt k s := by
  rw [mordantAct, mordantOf_mordantBytes, h]
  rfl

theorem mordantAct_abort (h : k.kind = 13#4) : mordantAct (mordantBytes k node) s = abortPkt k s := by
  rw [mordantAct, mordantOf_mordantBytes, h]
  rfl

theorem mordantAct_teardown (h : k.kind = 14#4) : mordantAct (mordantBytes k node) s = teardownPkt k s := by
  rw [mordantAct, mordantOf_mordantBytes, h]
  rfl

end

section
variable {s : State} {k : MPacket} (ha : alive s = true) (htap : s.tapHeld = false)
include ha htap

section
variable (hl : launchOf s k.job.toNat k.key.toNat = none) (hrank : ((shapeTree k.payload []).rank s (nodeId s)).isSome = true)
include hl hrank

theorem preparePkt_starts (hk : k.kind = 8#4) (hfits : (shapeTree k.payload []).fits s = true) :
    preparePkt k s =
      let r := launchStart s k.job.toNat k.key.toNat 0 k.payload (some k.src.toNat) none
      launchGo (launchSend r.1 r.2 k.src.toNat 9 0 []) r.2 := by
  have hin : ((shapeTree k.payload []).rank s (nodeId s)).isNone = false := by rw [← Option.not_isSome, hrank]; rfl
  have hk0 : decide (k.kind ≠ 8) = false := decide_eq_false (not_not_intro hk)
  simp only [preparePkt, ha, htap, hk0, hin, hfits, hl, Bool.not_true, Bool.or_self, Bool.false_eq_true, if_false]

theorem teardownPkt_starts (hk : k.kind = 14#4) :
    teardownPkt k s =
      let r := launchStart s k.job.toNat k.key.toNat 2 k.payload (some k.src.toNat) none
      let t := launchDo (launchSend r.1 r.2 k.src.toNat 9 0 []) r.2
      launchGo t.1 t.2 := by
  have hin : ((shapeTree k.payload []).rank s (nodeId s)).isNone = false := by rw [← Option.not_isSome, hrank]; rfl
  have hk0 : decide (k.kind ≠ 14) = false := decide_eq_false (not_not_intro hk)
  simp only [teardownPkt, ha, htap, hk0, hin, hl, Bool.not_true, Bool.or_self, Bool.false_eq_true, if_false]

end

section
variable {x : LaunchSt} (hl : launchOf s k.job.toNat k.key.toNat = some x)
include hl

theorem commitPkt_commits (hk : k.kind = 12#4) (hp : x.phase = 0) (hans : x.answer = 1) :
    commitPkt k s =
      let r := launchCommitAll s { x with parent := some k.src.toNat } k.payload
      launchGo r.1 r.2 := by
  have hk0 : decide (k.kind ≠ 12) = false := decide_eq_false (not_not_intro hk)
  have hp0 : decide (x.phase ≠ 0) = false := decide_eq_false (not_not_intro hp)
  have ha0 : decide (x.answer ≠ 1) = false := decide_eq_false (not_not_intro hans)
  simp only [commitPkt, hl, ha, htap, hk0, hp0, ha0, Bool.not_true, Bool.or_self, Bool.false_eq_true, if_false]

theorem abortPkt_aborts (hk : k.kind = 13#4) (hp : x.phase = 0) : abortPkt k s = launchAbortAll s x := by
  have hk0 : decide (k.kind ≠ 13) = false := decide_eq_false (not_not_intro hk)
  have hp0 : decide (x.phase ≠ 0) = false := decide_eq_false (not_not_intro hp)
  simp only [abortPkt, hl, ha, htap, hk0, hp0, Bool.not_true, Bool.or_self, Bool.false_eq_true, if_false]

end
end

section
variable {s : State} {k : MPacket} {x : LaunchSt} (ha : alive s = true) (hl : launchOf s k.job.toNat k.key.toNat = some x)
include ha hl

theorem ackLaunch_acks (hk : k.kind = 9#4) : ackLaunch k s = setLaunch s (updKid x k.src.toNat (fun c => { c with acked := true })) := by
  have hk0 : decide (k.kind ≠ 9) = false := decide_eq_false (not_not_intro hk)
  simp only [ackLaunch, hl, ha, hk0, Bool.not_true, Bool.or_self, Bool.false_eq_true, if_false]

theorem reportPkt_counts (hk : k.kind = 10#4) (hkid : x.kids.any (fun c => c.node == k.src.toNat) = true) :
    reportPkt k s = launchGo s (updKid x k.src.toNat (fun c => { c with
      acked := true
      counts := some (leField k.payload 16 4, leField k.payload 20 4, leField k.payload 24 4, leField k.payload 28 4) })) := by
  have hk0 : decide (k.kind ≠ 10) = false := decide_eq_false (not_not_intro hk)
  simp only [reportPkt, hl, ha, hk0, hkid, Bool.not_true, Bool.or_self, Bool.false_eq_true, if_false]

theorem noticePkt_records (hk : k.kind = 11#4) (hroot : x.root ≠ none) (hp : x.phase ≠ 1) :
    noticePkt k s =
      let n := leField k.payload 32 2 % 4096
      launchGo s (if x.failed.contains n then x else { x with failed := x.failed ++ [n] }) := by
  have hk0 : decide (k.kind ≠ 11) = false := decide_eq_false (not_not_intro hk)
  have hp0 : decide (x.phase = 1) = false := decide_eq_false hp
  have hsome : x.root.isSome = true := Option.isSome_iff_ne_none.2 hroot
  have hnone : x.root.isNone = false := by rw [← Option.not_isSome, hsome]; rfl
  simp only [noticePkt, launchNotice, hl, ha, hk0, hp0, hnone, hsome, Bool.not_true, Bool.or_self, Bool.false_eq_true, if_false, if_true]

end

/-! ### Timers of a launch -/

section
variable {s : State} {job key : Nat} {x : LaunchSt} (ha : alive s = true) (hl : launchOf s job key = some x)
include ha hl

section
variable (hp : x.phase = 0) (hans : x.answer = 0)
include hp hans

theorem launchPrepared_reaches : launchPrepared job key s =
    let y := launchAnswer s x
    let s1 := match y.answer, y.part with | 1, some p => setRfld s (okey (Reg.morAdmit + 16 * p)) 17 2 1 | _, _ => s
    let r := if y.answer = 3 then launchNotice s1 y (nodeId s) else (s1, y)
    launchGo r.1 r.2 := by
  have hp0 : decide (x.phase ≠ 0) = false := decide_eq_false (not_not_intro hp)
  have ha0 : decide (x.answer ≠ 0) = false := decide_eq_false (not_not_intro hans)
  simp only [launchPrepared, hl, ha, hp0, ha0, Bool.not_true, Bool.or_self, Bool.false_eq_true, if_false] <;> rfl

theorem launchPrepared_reserves {p : Nat} (h1 : (launchAnswer s x).answer = 1) (hpart : (launchAnswer s x).part = some p) :
    launchPrepared job key s = launchGo (setRfld s (okey (Reg.morAdmit + 16 * p)) 17 2 1) (launchAnswer s x) := by
  rw [launchPrepared_reaches ha hl hp hans]
  dsimp only
  rw [h1, hpart, if_neg (by decide)] <;> rfl

theorem launchPrepared_busy (h2 : (launchAnswer s x).answer = 2) : launchPrepared job key s = launchGo s (launchAnswer s x) := by
  rw [launchPrepared_reaches ha hl hp hans]
  dsimp only
  rw [h2, if_neg (by decide)]
  rfl

theorem launchPrepared_refused (h3 : (launchAnswer s x).answer = 3) :
    launchPrepared job key s = launchGo (launchNotice s (launchAnswer s x) (nodeId s)).1 (launchNotice s (launchAnswer s x) (nodeId s)).2 := by
  rw [launchPrepared_reaches ha hl hp hans]
  dsimp only
  rw [h3, if_pos rfl]
  rfl

end

theorem launchTimeout_silent {n : Nat} {f : LaunchKid → Bool} (hp : x.phase ≠ 1) (hkid : x.kids.any (fun k => k.node == n && f k) = true) :
    launchTimeout job key n f s = launchSilent s x n := by
  simp only [launchTimeout, hl]
  exact if_pos (by rw [ha, bne_iff_ne.2 hp, hkid]; rfl)

theorem busyRetry_asks (hpar : x.parent = none) (hp : x.phase = 0) :
    busyRetry job key s = launchGo (launchAgain s x).1 (launchAgain s x).2 := by
  simp only [busyRetry, hl]
  exact if_neg (by rw [ha, hpar, hp]; exact Bool.false_ne_true)

theorem busyExpiry_fails {n : Nat} (hn : n = nodeId s) (hp : x.phase = 0) (hbusy : x.busy = true) (hans : x.answer = 2) :
    busyExpiry job key n s =
      launchGo (launchNotice s { x with answer := 4 } n).1 (launchNotice s { x with answer := 4 } n).2 := by
  simp only [busyExpiry, hl]
  exact if_neg (by rw [ha, hp, hbusy, hans, decide_eq_false (not_not_intro hn)]; exact Bool.false_ne_true)

end

/-! ### Descriptors and the scrub -/

section
variable {s : State} {r : Nat} {seq : BitVec 32} {d : Desc}

theorem launchDescriptor_invalid (hd : startable s r seq 0x0A 0 = some d) (h : launchDescOk s d = false) :
    launchDescriptor r seq s = endDesc s r d St.collInvalid 0 := by
  simp only [launchDescriptor, hd, h, Bool.not_false, if_true]

theorem launchDescriptor_starts (hd : startable s r seq 0x0A 0 = some d) (h : launchDescOk s d = true) :
    launchDescriptor r seq s =
      let t := launchStart (startWork s r d .idle) (d.fld 20 2) (d.fld 24 4) 0 (launchShape d) none (some (r, seq))
      launchGo t.1 t.2 := by
  simp only [launchDescriptor, hd, h, Bool.not_true, Bool.false_eq_true, if_false]

theorem teardownDescriptor_invalid (hd : startable s r seq 0x0A 1 = some d) (h : launchDescOk s d = false) :
    teardownDescriptor r seq s = endDesc s r d St.collInvalid 0 := by
  simp only [teardownDescriptor, hd, h, Bool.not_false, if_true]

theorem teardownDescriptor_starts (hd : startable s r seq 0x0A 1 = some d) (h : launchDescOk s d = true) :
    teardownDescriptor r seq s =
      let t := launchStart (startWork s r d .idle) (d.fld 20 2) (d.fld 24 4) 2 (launchShape d) none (some (r, seq))
      launchGo (launchDo t.1 t.2).1 (launchDo t.1 t.2).2 := by
  simp only [teardownDescriptor, hd, h, Bool.not_true, Bool.false_eq_true, if_false]

end

section
variable {s : State} {e p : Nat} (ha : alive s = true) (hp : retiredPart s e = some p)
include ha hp

theorem jobScrubDone_zeroes (h : ofld s (Reg.morAdmit + 16 * p) 17 2 = 3) :
    jobScrubDone e s =
      let lo := ofld s (Reg.fabJob + 32 * e + 8) 21 27 * 0x200000
      setRfld (zeroWindow s p lo (lo + ofld s (Reg.fabJob + 32 * e + 16) 0 27 * 0x200000)) (okey (Reg.morAdmit + 16 * p)) 17 2 0 := by
  simp only [jobScrubDone, hp]
  exact if_neg (by rw [ha, decide_eq_false (not_not_intro h)]; exact Bool.false_ne_true)

theorem jobEntryFree_frees (h : ofld s (Reg.morAdmit + 16 * p) 17 2 ≠ 3) :
    jobEntryFree e s = setBoth s (Reg.fabJob + 32 * e) (setFieldOf (reg s (okey (Reg.fabJob + 32 * e))) 0 2 0) := by
  simp only [jobEntryFree, hp]
  exact if_neg (by rw [ha, decide_eq_false h]; exact Bool.false_ne_true)

end

/-- Settles O56: descriptors, packets and timers take the branch of the launch's phase. -/
theorem launchCommands : Obligations.LaunchCommands := by
  unfold Obligations.LaunchCommands
  refine ⟨fun s r seq d hr => ?_, fun s k c hc ha hst htap => ?_, fun s k node ha htap hl hrank => ?_, fun s k x node ha htap hl => ?_,
    fun s job key x ha hl => ?_, fun s e p he ha hp => ?_⟩
  · intro start
    have hon : ∀ {u v : State}, u = v → onUnit (decide (r < 4096)) u = .next v := fun e => (onUnit_next (decide_eq_true hr) _).trans (congrArg _ e)
    exact ⟨fun hd => ⟨fun h => hon (launchDescriptor_invalid hd h), fun h => hon (launchDescriptor_starts hd h)⟩,
      fun hd => ⟨fun h => hon (teardownDescriptor_invalid hd h), fun h => hon (teardownDescriptor_starts hd h)⟩⟩
  · intro w x n s0
    obtain ⟨hk, he⟩ := exec_launchIn hc s
    have hexec : ∀ {u : State}, requestIn w s = u → exec c s = .next u := fun e => by rw [he, e]
    have hdest := mordantBytes_dest s k
    exact ⟨fun hn => hexec (requestIn_edge_granted (mordantBytes_ptype k (nodeId s)) hdest ha hst htap hn (edgeCheck_launch hk s (nodeId s))),
      fun h0 h1 hnew => ⟨fun hroom => hexec (requestArrives_held mordantAct ha hst htap hdest h0 h1 hnew hroom),
        fun hroom => hexec (requestArrives_nacked mordantAct ha hst htap hdest h0 h1 hnew hroom)⟩,
      fun hn => hexec (requestArrives_behind mordantAct ha hst htap hdest hn)⟩
  · intro act start acked
    exact ⟨fun hk hfits => (mordantAct_prepare node s hk).trans (preparePkt_starts ha htap hl hrank hk hfits),
      fun hk => (mordantAct_teardown node s hk).trans (teardownPkt_starts ha htap hl hrank hk)⟩
  · intro act
    exact ⟨fun hk => (mordantAct_ackLaunch node s hk).trans (ackLaunch_acks ha hl hk),
      fun hk hkid => (mordantAct_report node s hk).trans (reportPkt_counts ha hl hk hkid),
      fun hk hroot hp => (mordantAct_notice node s hk).trans (noticePkt_records ha hl hk hroot hp),
      fun hk hp hans => (mordantAct_commit node s hk).trans (commitPkt_commits ha htap hl hk hp hans),
      fun hk hp => (mordantAct_abort node s hk).trans (abortPkt_aborts ha htap hl hk hp)⟩
  · refine ⟨fun hp hans => ?_, fun n hp => ⟨fun hkid => congrArg Host.Outcome.next (launchTimeout_silent ha hl hp hkid),
        fun hkid => congrArg Host.Outcome.next (launchTimeout_silent ha hl hp hkid)⟩,
      fun hpar hp => congrArg Host.Outcome.next (busyRetry_asks ha hl hpar hp),
      fun n hn hp hbusy hans => congrArg Host.Outcome.next (busyExpiry_fails ha hl hn hp hbusy hans)⟩
    intro y
    exact ⟨fun p h1 hpart => congrArg Host.Outcome.next (launchPrepared_reserves ha hl hp hans h1 hpart),
      fun h2 => congrArg Host.Outcome.next (launchPrepared_busy ha hl hp hans h2),
      fun h3 => congrArg Host.Outcome.next (launchPrepared_refused ha hl hp hans h3)⟩
  · intro lo scrub
    have hon : ∀ {u v : State}, u = v → onUnit (decide (e < 64)) u = .next v := fun h => (onUnit_next (decide_eq_true he) _).trans (congrArg _ h)
    exact ⟨fun h => hon (jobScrubDone_zeroes ha hp h), fun h => hon (jobEntryFree_frees ha hp h)⟩

end Sys2Proof.Machine
end

section
/-! SUPPORT. Unit errors and what ECC errors leave, clearing and tests, merge windows, wear, spares and Swatch: one equation per case (09 R291 to
R294, 14 R443 to R475). -/

namespace Sys2Proof.Machine

/-! ### Unit errors -/

section
variable {s : State} {e : ErrEvent} (ha : alive s = true)
include ha

theorem unitError_fenced (h : (unitOf s e.unitType (unitIndex e.unit)).st = 2) : unitError e s = s :=
  if_pos (by rw [ha, decide_eq_true h]; rfl)

section
variable (h2 : (unitOf s e.unitType (unitIndex e.unit)).st ≠ 2)
include h2

theorem unitError_unwritable (hw : e.writable = false) : unitError e s = deviceFatal s 1 :=
  (if_neg (by rw [ha, decide_eq_false h2]; exact Bool.false_ne_true)).trans (if_pos (by rw [hw]; rfl))

theorem unitError_written (hw : e.writable = true) : unitError e s =
    let u := unitOf s e.unitType (unitIndex e.unit)
    let r := errEmit (eccEffect e s) e
    if e.unitType ≠ 0 && u.st = 1 then
      fenceUnit (strike r.1 { e with cls := min e.cls 2 } r.2) e.unitType (unitIndex e.unit) (u.first.getD (e.unitType, e.unit))
    else
      let s2 := if e.unitType = 0 then r.1 else setUnit r.1 e.unitType (unitIndex e.unit) { u with st := 1, first := some (e.unitType, e.unit) }
      if e.cls = 3 then fenceUnit (strike s2 e r.2) e.unitType (unitIndex e.unit) (e.unitType, e.unit)
      else coreLoadFault e (classAction s2 e r.2) :=
  (if_neg (by rw [ha, decide_eq_false h2]; exact Bool.false_ne_true)).trans (if_neg (by rw [hw]; exact Bool.false_ne_true))

end

theorem unitError_second (hw : e.writable = true) (h0 : e.unitType ≠ 0) (h1 : (unitOf s e.unitType (unitIndex e.unit)).st = 1) :
    unitError e s = fenceUnit (strike (errEmit (eccEffect e s) e).1 { e with cls := min e.cls 2 } (errEmit (eccEffect e s) e).2) e.unitType
      (unitIndex e.unit) ((unitOf s e.unitType (unitIndex e.unit)).first.getD (e.unitType, e.unit)) := by
  rw [unitError_written ha (by omega) hw]
  exact if_pos (by rw [decide_eq_true h0, decide_eq_true h1]; rfl)

section
variable (hw : e.writable = true) (h0 : e.unitType ≠ 0) (h1 : (unitOf s e.unitType (unitIndex e.unit)).st = 0)
include hw h0 h1

/-- The state with a unit's first error written and its unit in HANDLING. -/
def handled (e : ErrEvent) (s : State) : State :=
  setUnit (errEmit (eccEffect e s) e).1 e.unitType (unitIndex e.unit)
    { unitOf s e.unitType (unitIndex e.unit) with st := 1, first := some (e.unitType, e.unit) }

theorem unitError_first : unitError e s =
    if e.cls = 3 then fenceUnit (strike (handled e s) e (errEmit (eccEffect e s) e).2) e.unitType (unitIndex e.unit) (e.unitType, e.unit)
    else coreLoadFault e (classAction (handled e s) e (errEmit (eccEffect e s) e).2) := by
  rw [unitError_written ha (by omega) hw]
  refine (if_neg ?_).trans ?_
  · rw [h1, Bool.and_eq_true]
    exact fun h => absurd h.2 (by decide)
  · dsimp only
    rw [if_neg h0]
    rfl

end

theorem unitError_unitless (hw : e.writable = true) (h0 : e.unitType = 0) (h1 : (unitOf s e.unitType (unitIndex e.unit)).st = 0) (h3 : e.cls ≠ 3) :
    unitError e s = coreLoadFault e (classAction (errEmit (eccEffect e s) e).1 e (errEmit (eccEffect e s) e).2) := by
  rw [unitError_written ha (by omega) hw]
  refine (if_neg ?_).trans ?_
  · rw [h0]
    exact Bool.false_ne_true
  · dsimp only
    rw [if_pos h0, if_neg h3]

end

theorem coreLoadFault_iff (e : ErrEvent) (t : State) :
    (decide (e.unitType = 9) && e.cls == 2 && !e.struck && (e.kind == 1 || e.kind == 2) && hartReady t (unitIndex e.unit)) = true ↔
      e.unitType = 9 ∧ e.cls = 2 ∧ e.struck = false ∧ (e.kind = 1 ∨ e.kind = 2) ∧ hartReady t (unitIndex e.unit) = true := by
  simp only [Bool.and_eq_true, Bool.or_eq_true, decide_eq_true_iff, beq_iff_eq, Bool.not_eq_true', and_assoc]

theorem coreLoadFault_traps {e : ErrEvent} {t : State}
    (h : e.unitType = 9 ∧ e.cls = 2 ∧ e.struck = false ∧ (e.kind = 1 ∨ e.kind = 2) ∧ hartReady t (unitIndex e.unit) = true) :
    coreLoadFault e t = setHart t (unitIndex e.unit) ((hartOf t (unitIndex e.unit)).trapped 5 e.addr 0) :=
  if_pos ((coreLoadFault_iff e t).2 h)

theorem coreLoadFault_other {e : ErrEvent} {t : State}
    (h : ¬ (e.unitType = 9 ∧ e.cls = 2 ∧ e.struck = false ∧ (e.kind = 1 ∨ e.kind = 2) ∧ hartReady t (unitIndex e.unit) = true)) :
    coreLoadFault e t = t :=
  if_neg (mt (coreLoadFault_iff e t).1 h)

/-! ### What an ECC error leaves behind -/

section
variable {s : State} {e : ErrEvent} (hk : e.kind = 2)
include hk

section
variable (hc : e.cls = 1)
include hc

theorem eccEffect_corrected : eccEffect e s =
    let stack := leField e.detail 1 1 % 16
    let st := Reg.hmcStackStatus + 8 * stack
    if leField e.detail 0 1 = 0 then { setRfld s (okey st) 32 16 (satNat 16 (ofld s st 32 16 + 1)) with
      eccLog := sset (fun _ => (0, 0)) s.eccLog stack ((eccLogOf s stack).1 + 1, leField e.detail 4 4) }
    else if leField e.detail 0 1 = 1 then setRfld s (okey st) 48 16 (satNat 16 (ofld s st 48 16 + 1)) else s := by
  rw [eccEffect]
  exact (if_neg (not_not_intro hk)).trans (if_pos hc)

end

variable (hc : 2 ≤ e.cls)
include hc

theorem eccEffect_uncorrected : eccEffect e s =
    if leField e.detail 0 1 = 3 then
      let w := spKey (unitIndex e.unit) (e.addr.toNat / 8 * 8)
      if e.unitType = 1 then { s with poison := s.poison ++ ((List.range 8).map (w + ·)).filter (fun b => !s.poison.contains b) } else s
    else match eccKey s e with
      | some k => if isHbm k && !s.bad.contains (k / 32) then { s with bad := s.bad ++ [k / 32] } else s
      | none => s := by
  rw [eccEffect]
  exact (if_neg (not_not_intro hk)).trans ((if_neg (by omega)).trans (if_neg (by omega)))

theorem eccEffect_poisons (h3 : leField e.detail 0 1 = 3) (hu : e.unitType = 1) {i : Nat} (hi : i < 8) :
    spKey (unitIndex e.unit) (e.addr.toNat / 8 * 8) + i ∈ (eccEffect e s).poison := by
  rw [eccEffect_uncorrected hk hc, if_pos h3]
  dsimp only
  rw [if_pos hu]
  show _ ∈ s.poison ++ _
  by_cases h : spKey (unitIndex e.unit) (e.addr.toNat / 8 * 8) + i ∈ s.poison
  · exact List.mem_append_left _ h
  · refine List.mem_append_right _ (List.mem_filter.2 ⟨List.mem_map.2 ⟨i, List.mem_range.2 hi, rfl⟩, ?_⟩)
    rw [Bool.not_eq_true', List.contains_eq_mem, decide_eq_false h]

theorem eccEffect_marks (h3 : leField e.detail 0 1 ≠ 3) {k : Nat} (hkey : eccKey s e = some k) (hh : isHbm k = true) :
    (eccEffect e s).bad.contains (k / 32) = true := by
  rw [eccEffect_uncorrected hk hc, if_neg h3, hkey]
  dsimp only
  rw [hh, Bool.true_and]
  cases hbad : s.bad.contains (k / 32) with
  | true => exact hbad
  | false =>
    show (s.bad ++ [k / 32]).contains (k / 32) = true
    rw [List.contains_eq_mem, decide_eq_true_iff]
    exact List.mem_append_right _ (List.mem_singleton_self _)

end

theorem isBad_of_bad {s : State} {k : Nat} (hh : isHbm k = true) (h : s.bad.contains (k / 32) = true) (n : Nat) : isBad s k n = true := by
  rw [isBad, hh, h]
  rfl

/-! ### Clearing, tests, windows and wear -/

section
variable {s s1 : State} {view : Nat} {v : Word} (hgo : bitAt v.toNat 24 = true) (ha : alive s = true)
  (hw : actionWrite s view Reg.errUnitCtrl v = some s1)
include hgo ha hw

theorem unitClear_reaches : unitClear view v s =
    let ty := fieldOf v.toNat 0 4
    let ix := fieldOf v.toNat 8 11
    if fenced s1 ty ix && decide (ix < unitCount ty) then setUnit (setResult s1 Reg.errUnitCtrl 24 1 25 3 1) ty ix { unitOf s1 ty ix with testing := true }
    else setResult s1 Reg.errUnitCtrl 24 0 25 3 3 := by
  simp only [unitClear, hgo, ha, hw, Bool.not_true, Bool.or_self, Bool.false_eq_true, if_false]

theorem unitClear_tests (hf : fenced s1 (fieldOf v.toNat 0 4) (fieldOf v.toNat 8 11) = true)
    (hix : fieldOf v.toNat 8 11 < unitCount (fieldOf v.toNat 0 4)) :
    unitClear view v s = setUnit (setResult s1 Reg.errUnitCtrl 24 1 25 3 1) (fieldOf v.toNat 0 4) (fieldOf v.toNat 8 11)
      { unitOf s1 (fieldOf v.toNat 0 4) (fieldOf v.toNat 8 11) with testing := true } :=
  (unitClear_reaches hgo ha hw).trans (if_pos (by rw [hf, decide_eq_true hix]; rfl))

theorem unitClear_refused (h : fenced s1 (fieldOf v.toNat 0 4) (fieldOf v.toNat 8 11) = false ∨
      unitCount (fieldOf v.toNat 0 4) ≤ fieldOf v.toNat 8 11) :
    unitClear view v s = setResult s1 Reg.errUnitCtrl 24 0 25 3 3 := by
  refine (unitClear_reaches hgo ha hw).trans (if_neg ?_)
  rw [Bool.and_eq_true, decide_eq_true_iff]
  rintro ⟨hf, hix⟩
  rcases h with h | h
  · exact Bool.false_ne_true (h.symm.trans hf)
  · exact Nat.not_lt.2 h hix

end

theorem worn_setUnit (s : State) (ty ix : Nat) (u : UnitSt) : (setUnit s ty ix u).worn = s.worn := rfl

theorem worn_setResult (s : State) (off bit g lo n v : Nat) : (setResult s off bit g lo n v).worn = s.worn := rfl

/-- A unit that has failed its self-test. -/
def failedUnit (s : State) : State :=
  setUnit (setResult s Reg.errUnitCtrl 24 0 25 3 2) (ofld s Reg.errUnitCtrl 0 4) (ofld s Reg.errUnitCtrl 8 11)
    { unitOf s (ofld s Reg.errUnitCtrl 0 4) (ofld s Reg.errUnitCtrl 8 11) with testing := false, failed := true }

theorem worn_failedUnit (s : State) : (failedUnit s).worn = s.worn := by
  rw [failedUnit, worn_setUnit, worn_setResult]

section
variable {s : State} (ha : alive s = true) (hgo : ofld s Reg.errUnitCtrl 24 1 = 1)
  (ht : (unitOf s (ofld s Reg.errUnitCtrl 0 4) (ofld s Reg.errUnitCtrl 8 11)).testing = true)
include ha hgo ht

theorem selfTestDone_reaches (pass : Bool) : selfTestDone pass s =
    let ty := ofld s Reg.errUnitCtrl 0 4
    let ix := ofld s Reg.errUnitCtrl 8 11
    if pass then
      let s1 := setUnit (setResult s Reg.errUnitCtrl 24 0 25 3 0) ty ix UnitSt.init
      healthRefresh (if ty = 9 then setHart s1 ix { hartOf s1 ix with stopped := false } else s1)
    else
      let s1 := setUnit (setResult s Reg.errUnitCtrl 24 0 25 3 2) ty ix { unitOf s ty ix with testing := false, failed := true }
      healthRefresh (match wornClass ty ix with
        | some x => if s1.worn.contains x then s1 else { s1 with worn := s1.worn ++ [x] }
        | none => s1) := by
  rw [selfTestDone]
  exact if_neg (by rw [hgo, ht, ha]; decide)

theorem selfTestDone_passed_hart (h9 : ofld s Reg.errUnitCtrl 0 4 = 9) :
    selfTestDone true s =
      let s1 := setUnit (setResult s Reg.errUnitCtrl 24 0 25 3 0) (ofld s Reg.errUnitCtrl 0 4) (ofld s Reg.errUnitCtrl 8 11) UnitSt.init
      healthRefresh (setHart s1 (ofld s Reg.errUnitCtrl 8 11) { hartOf s1 (ofld s Reg.errUnitCtrl 8 11) with stopped := false }) := by
  rw [selfTestDone_reaches ha hgo ht]
  exact congrArg healthRefresh (if_pos h9)

theorem selfTestDone_passed (h9 : ofld s Reg.errUnitCtrl 0 4 ≠ 9) :
    selfTestDone true s = healthRefresh (setUnit (setResult s Reg.errUnitCtrl 24 0 25 3 0) (ofld s Reg.errUnitCtrl 0 4)
      (ofld s Reg.errUnitCtrl 8 11) UnitSt.init) := by
  rw [selfTestDone_reaches ha hgo ht]
  exact congrArg healthRefresh (if_neg h9)

theorem selfTestDone_failed : selfTestDone false s =
    healthRefresh (match wornClass (ofld s Reg.errUnitCtrl 0 4) (ofld s Reg.errUnitCtrl 8 11) with
      | some x => if (failedUnit s).worn.contains x then failedUnit s else { failedUnit s with worn := (failedUnit s).worn ++ [x] }
      | none => failedUnit s) := by
  rw [selfTestDone_reaches ha hgo ht] <;> rfl

theorem selfTestDone_failed_wears {x : Nat × Nat × Nat} (hx : wornClass (ofld s Reg.errUnitCtrl 0 4) (ofld s Reg.errUnitCtrl 8 11) = some x)
    (hnew : s.worn.contains x = false) : selfTestDone false s = healthRefresh { failedUnit s with worn := s.worn ++ [x] } := by
  rw [selfTestDone_failed ha hgo ht, hx, worn_failedUnit]
  exact congrArg healthRefresh (if_neg (by rw [hnew]; exact Bool.false_ne_true))

theorem selfTestDone_failed_alone (hx : wornClass (ofld s Reg.errUnitCtrl 0 4) (ofld s Reg.errUnitCtrl 8 11) = none) :
    selfTestDone false s = healthRefresh (failedUnit s) := by
  rw [selfTestDone_failed ha hgo ht, hx]

end

theorem ringEnableErr_enables {s : State} {view : Nat} {v : Word} (hv : bitAt v.toNat 8 = true) (ha : alive s = true) :
    ringEnableErr view v s =
      errRingEnable (storeWord s view (Reg.errRing + 8) v.toNat) view (bitAt (reg s (pkey view (Reg.errRing + 8))) 9) :=
  if_neg (by rw [hv, ha]; exact Bool.false_ne_true)

theorem alive_with_windows (s : State) (l : List Window) : alive { s with windows := l } = alive s := rfl

theorem mergeExpiry_records {s : State} {kind ty unit : Nat} {w : Window} {e : ErrEvent} {t : Nat}
    (hw : s.windows.find? (fun w => w.kind == kind && w.utype == ty && w.unit == unit) = some w) (hf : w.first = some (e, t))
    (ha : alive s = true) :
    mergeExpiry kind ty unit s =
      (errPost { s with windows := s.windows.filter (fun x => !(x.kind == kind && x.utype == ty && x.unit == unit)) } e w.count t).1 := by
  simp only [mergeExpiry, hw, hf]
  exact if_pos ((alive_with_windows s _).trans ha)

/-- The state with a worn part noted; a row's wear and a lane's are not kept. -/
def wornNoted (s : State) (cls die ix : Nat) : State :=
  if cls = 3 ∨ cls = 5 ∨ s.worn.contains (cls, die, ix) = true then s else { s with worn := s.worn ++ [(cls, die, ix)] }

theorem wornNoted_eq (s : State) (cls die ix : Nat) : wornNoted s cls die ix =
    if cls = 3 || cls = 5 || s.worn.contains (cls, die, ix) then s else { s with worn := s.worn ++ [(cls, die, ix)] } := by
  simp only [wornNoted, Bool.or_eq_true, decide_eq_true_iff, or_assoc]

theorem partWear_eq {s : State} (ha : alive s = true) (cls die ix events : Nat) : partWear cls die ix events s =
    if ofld s Reg.errSpareCtrl 0 1 = 1 then wornNoted s cls die ix
    else report (wornNoted s cls die ix) 0x0E 0 0 (die * 4096) none 0 (leBytes 1 cls ++ leBytes 2 ix ++ leBytes 4 events) := by
  rw [wornNoted_eq, partWear]
  exact if_neg (by rw [ha]; exact Bool.false_ne_true)

/-! ### Spares -/

theorem spareRequest_answers {s s1 : State} {view : Nat} {v : Word} (hgo : bitAt v.toNat 24 = true) (ha : alive s = true)
    (hw : actionWrite s view Reg.errSpareCtrl v = some s1) :
    spareRequest view v s =
      let cls := fieldOf v.toNat 4 3
      let known := cls = 1 ∨ cls = 2 ∨ cls = 4
      let left := sparesFor s1 cls (fieldOf v.toNat 20 3) (fieldOf v.toNat 8 11)
      setResult s1 Reg.errSpareCtrl 24 (if known ∧ stage s1 < 2 ∧ left ≠ 0 then 1 else 0) 25 3
        (if ¬ known then 4 else if 2 ≤ stage s1 then 2 else if left = 0 then 3 else 1) := by
  have hknown : (fieldOf v.toNat 4 3 == 1 || fieldOf v.toNat 4 3 == 2 || fieldOf v.toNat 4 3 == 4) = true ↔
      (fieldOf v.toNat 4 3 = 1 ∨ fieldOf v.toNat 4 3 = 2 ∨ fieldOf v.toNat 4 3 = 4) := by
    rw [Bool.or_eq_true, Bool.or_eq_true, beq_iff_eq, beq_iff_eq, beq_iff_eq, or_assoc]
  simp only [spareRequest, hgo, ha, hw, Bool.not_true, Bool.or_self, Bool.false_eq_true, if_false]
  by_cases hk : fieldOf v.toNat 4 3 = 1 ∨ fieldOf v.toNat 4 3 = 2 ∨ fieldOf v.toNat 4 3 = 4
  · rw [hknown.2 hk, if_neg (not_not_intro hk)]
    refine (if_neg Bool.false_ne_true).trans ?_
    by_cases hs : 2 ≤ stage s1
    · rw [if_pos hs, if_pos hs, if_neg (fun h => Nat.not_lt.2 hs h.2.1)]
    · rw [if_neg hs, if_neg hs]
      by_cases hl : sparesFor s1 (fieldOf v.toNat 4 3) (fieldOf v.toNat 20 3) (fieldOf v.toNat 8 11) = 0
      · rw [if_pos hl, if_pos hl, if_neg (fun h => h.2.2 hl)]
      · rw [if_neg hl, if_neg hl, if_pos ⟨hk, Nat.not_le.1 hs, hl⟩]
  · rw [Bool.eq_false_iff.2 (mt hknown.1 hk), if_pos hk]
    refine (if_pos rfl).trans ?_
    rw [if_neg (fun h => hk h.1)]

section
variable {s : State} {t : Nat} (mask : Nat) (hm : withdrawMay s 1 (tileDie t) t = true) (hbusy : bitAt (busyGroups s) (t / 8) = false)
  (hz : (groupOf s (t / 8)).zeroing = false) (hwd : (groupOf s (t / 8)).withdrawn = false) (hsp : (groupOf s (t / 8)).sparing = none)
  (hsw : (groupOf s (t / 8)).swatch = none) (hd : domainOpen s (22 + tileDie t) = true)
include hm hbusy hz hwd hsp hsw hd

theorem tileSpareIn_reaches : tileSpareIn t mask s =
    if sparesFor s 1 0 t = 0 then groupWithdraw s t
    else if !spareMay s 1 (tileDie t) t then s
    else loseBanks (takesReserved (setGroup s (t / 8) { groupOf s (t / 8) with sparing := some t }) (groupPart s (t / 8)) (tileDie t) 1) t
      (mask ||| unreadBanks s t) := by
  rw [tileSpareIn]
  exact if_neg (by rw [hm, hbusy, hz, hwd, hsp, hsw, hd]; exact Bool.false_ne_true)

theorem tileSpareIn_withdraws (h : sparesFor s 1 0 t = 0) : tileSpareIn t mask s = groupWithdraw s t :=
  (tileSpareIn_reaches mask hm hbusy hz hwd hsp hsw hd).trans (if_pos h)

theorem tileSpareIn_copies (h : sparesFor s 1 0 t ≠ 0) (hmay : spareMay s 1 (tileDie t) t = true) : tileSpareIn t mask s =
    loseBanks (takesReserved (setGroup s (t / 8) { groupOf s (t / 8) with sparing := some t }) (groupPart s (t / 8)) (tileDie t) 1) t
      (mask ||| unreadBanks s t) :=
  (tileSpareIn_reaches mask hm hbusy hz hwd hsp hsw hd).trans ((if_neg h).trans (if_neg (by rw [hmay]; exact Bool.false_ne_true)))

end

/-- A free value taken modulo a list's length picks one of its elements. -/
theorem getD_mod_mem {l : List Nat} (h : l ≠ []) (n : Nat) : l.getD (n % l.length) 0 ∈ l := by
  have hlt : n % l.length < l.length := Nat.mod_lt _ (List.length_pos_iff.2 h)
  rw [List.getD_eq_getElem _ _ hlt]
  exact List.getElem_mem hlt

/-- The end of a tile's spare-in with the spare that takes its place. -/
def tileSpared (s : State) (t new : Nat) : State :=
  let die := tileDie t
  let k := okey (Reg.tilDieInfo + 8 * die)
  let s0 := { setGroup s (t / 8) { groupOf s (t / 8) with sparing := none } with freeCount := s.freeCount + 1 }
  let s1 := setRfld { s0 with tileGone := s.tileGone ++ [die * 256 + tilePhys s t] } (okey (Reg.tilRemap + 0x100 * die + 8 * (t % 168 / 8)))
    (8 * (t % 8)) 8 new
  let s2 := setUnit (setRfld s1 k 8 8 (rfld s1 k 8 8 - 1)) 1 t UnitSt.init
  healthRefresh (spareRecord (spareEnd s2 1 die t) 1 t (tilePhys s t) new (rfld s2 k 8 8) 1 (tileUnit t) (groupPart s (t / 8)))

theorem tileSpareDone_takes {s : State} {t : Nat} (ha : alive s = true) (hsp : (groupOf s (t / 8)).sparing = some t) :
    tileSpareDone t s =
      tileSpared s t ((spareTiles s (tileDie t)).getD ((Config.freeValue s.freeCount).toNat % (spareTiles s (tileDie t)).length) 0) := by
  rw [tileSpareDone]
  exact if_neg (by rw [ha, decide_eq_false (not_not_intro hsp)]; exact Bool.false_ne_true)

section
variable {s : State} {h : Nat} (hm : withdrawMay s 2 (h / 48) h = true) (hc : s.clusterGone.contains (12 * (h / 48) + h % 48 / 4) = false)
include hm hc

theorem coreSpareIn_reaches : coreSpareIn h s =
    if sparesFor s 2 (h / 48) h = 0 then clusterWithdraw s h
    else if !spareMay s 2 (h / 48) h then s
    else
      let d := h / 48
      let k := okey (Reg.glbPdieInfo + 8 * d)
      let (x, s0) := fresh s
      let free := spareCores s d
      let old := corePhys s h
      let new := free.getD (x.toNat % free.length) 0
      let s1 := { s0 with coreGone := s0.coreGone ++ [64 * d + old], coreMap := sset (fun k => k % 48) s0.coreMap h new }
      let s2 := setHart (setUnit (setRfld s1 k 8 2 (rfld s1 k 8 2 - 1)) 9 h UnitSt.init) h
        { hartOf s1 h with stopped := (hartOf s1 h).stopped && !fenced s 9 h }
      healthRefresh (spareRecord (spareEnd s2 2 d h) 2 h old new (rfld s2 k 8 2) 9 (unitField 9 h) (hartPart s h)) := by
  rw [coreSpareIn]
  exact if_neg (by rw [hm, hc]; exact Bool.false_ne_true)

theorem coreSpareIn_withdraws (h0 : sparesFor s 2 (h / 48) h = 0) : coreSpareIn h s = clusterWithdraw s h :=
  (coreSpareIn_reaches hm hc).trans (if_pos h0)

end

/-- A core's spare-in with the spare that takes its place. -/
def coreSpared (s : State) (h new : Nat) : State :=
  let d := h / 48
  let k := okey (Reg.glbPdieInfo + 8 * d)
  let s1 := { s with
    freeCount := s.freeCount + 1, coreGone := s.coreGone ++ [64 * d + corePhys s h]
    coreMap := sset (fun k => k % 48) s.coreMap h new }
  let s2 := setHart (setUnit (setRfld s1 k 8 2 (rfld s1 k 8 2 - 1)) 9 h UnitSt.init) h
    { hartOf s h with stopped := (hartOf s h).stopped && !fenced s 9 h }
  healthRefresh (spareRecord (spareEnd s2 2 d h) 2 h (corePhys s h) new (rfld s2 k 8 2) 9 (unitField 9 h) (hartPart s h))

theorem coreSpareIn_takes {s : State} {h : Nat} (hm : withdrawMay s 2 (h / 48) h = true)
    (hc : s.clusterGone.contains (12 * (h / 48) + h % 48 / 4) = false) (h0 : sparesFor s 2 (h / 48) h ≠ 0)
    (hmay : spareMay s 2 (h / 48) h = true) :
    coreSpareIn h s =
      coreSpared s h ((spareCores s (h / 48)).getD ((Config.freeValue s.freeCount).toNat % (spareCores s (h / 48)).length) 0) :=
  (coreSpareIn_reaches hm hc).trans ((if_neg h0).trans (if_neg (by rw [hmay]; exact Bool.false_ne_true)))

section
variable {s : State} {die array : Nat}

section
variable (hm : withdrawMay s 4 die array = true) (hg : s.wayGone.contains (die, array) = false) (hmove : sget (fun _ => none) s.wayMove die = none)
include hm hg hmove

theorem lakeWaySpareIn_reaches : lakeWaySpareIn die array s =
    if bitAt (ofld s (Reg.lakWayStatus + 8 * die) 0 16) (array / 16) then wayWithdraw s die array
    else if !spareMay s 4 die array then s
    else { s with wayMove := sset (fun _ => none) s.wayMove die (some array) } := by
  rw [lakeWaySpareIn]
  exact if_neg (by rw [hm, hg, hmove]; exact Bool.false_ne_true)

theorem lakeWaySpareIn_withdraws (h : bitAt (ofld s (Reg.lakWayStatus + 8 * die) 0 16) (array / 16) = true) :
    lakeWaySpareIn die array s = wayWithdraw s die array :=
  (lakeWaySpareIn_reaches hm hg hmove).trans (if_pos h)

theorem lakeWaySpareIn_copies (h : bitAt (ofld s (Reg.lakWayStatus + 8 * die) 0 16) (array / 16) = false) (hmay : spareMay s 4 die array = true) :
    lakeWaySpareIn die array s = { s with wayMove := sset (fun _ => none) s.wayMove die (some array) } :=
  (lakeWaySpareIn_reaches hm hg hmove).trans ((if_neg (by rw [h]; exact Bool.false_ne_true)).trans (if_neg (by rw [hmay]; exact Bool.false_ne_true)))

end

theorem lakeWayCopyDone_takes (h : sget (fun _ => none) s.wayMove die = some array) : lakeWayCopyDone die array s =
    let k := Reg.lakWayStatus + 8 * die
    let s1 := setRfld { s with wayMove := sset (fun _ => none) s.wayMove die none } (okey k) (array / 16) 1 1
    healthRefresh (spareRecord (spareEnd s1 4 die array) 4 array (array / 16 * 17 + array % 16) (array / 16 * 17 + 16)
      (16 - popcount 16 (ofld s1 k 0 16)) 0 (die * 4096) (wayPart s die (array % 16))) :=
  if_neg (not_not_intro h)

end

/-! ### Swatch -/

theorem swatchLoad_starts {s s1 : State} {view : Nat} {v : Word} (hgo : bitAt v.toNat 48 = true) (ha : alive s = true)
    (hw : actionWrite s view Reg.errSwatchCtrl v = some s1) : swatchLoad view v s = setResult s1 Reg.errSwatchCtrl 48 1 49 3 1 := by
  simp only [swatchLoad, hgo, ha, hw, Bool.not_true, Bool.or_self, Bool.false_eq_true, if_false]

/-- The RESULT of a Swatch load. -/
def swatchResult (s : State) (k : SwatchPackage) : Nat :=
  if !k.sigOk then 2 else if k.stepping ≠ 1 then 3 else if k.serial.toNat < ofld s Reg.errSwatchCtrl 16 32 then 4 else 0

section
variable {s : State} {k : SwatchPackage} (hgo : ofld s Reg.errSwatchCtrl 48 1 = 1) (ha : alive s = true)
include hgo ha

theorem swatchLoaded_reaches : swatchLoaded k s =
    if swatchResult s k = 0 then { setRfld (setResult s Reg.errSwatchCtrl 48 0 49 3 (swatchResult s k)) (okey Reg.errSwatchCtrl) 16 32 k.serial.toNat with
      swPkg := some k }
    else setResult s Reg.errSwatchCtrl 48 0 49 3 (swatchResult s k) := by
  rw [swatchLoaded]
  exact if_neg (by rw [hgo, ha]; decide)

theorem swatchLoaded_taken (hs : k.sigOk = true) (hst : k.stepping = 1) (hser : ofld s Reg.errSwatchCtrl 16 32 ≤ k.serial.toNat) :
    swatchLoaded k s =
      { setRfld (setResult s Reg.errSwatchCtrl 48 0 49 3 0) (okey Reg.errSwatchCtrl) 16 32 k.serial.toNat with swPkg := some k } := by
  have hres : swatchResult s k = 0 := by
    rw [swatchResult, hs, if_neg (by decide), if_neg (not_not_intro hst), if_neg (Nat.not_lt.2 hser)]
  rw [swatchLoaded_reaches hgo ha, hres]
  exact if_pos rfl

theorem swatchLoaded_refused {r : Nat} (hr : swatchResult s k = r) (h0 : r ≠ 0) : swatchLoaded k s = setResult s Reg.errSwatchCtrl 48 0 49 3 r := by
  rw [swatchLoaded_reaches hgo ha, hr]
  exact if_neg h0

end

theorem swatchResult_unsigned {s : State} {k : SwatchPackage} (hs : k.sigOk = false) : swatchResult s k = 2 :=
  if_pos (by rw [hs]; rfl)

theorem swatchResult_old {s : State} {k : SwatchPackage} (hs : k.sigOk = true) (hst : k.stepping = 1)
    (hser : k.serial.toNat < ofld s Reg.errSwatchCtrl 16 32) : swatchResult s k = 4 := by
  rw [swatchResult, hs, if_neg (by decide), if_neg (not_not_intro hst), if_pos hser]

section
variable {s : State} {g pat : Nat} {k : SwatchPackage} (ha : alive s = true) (hpkg : s.swPkg = some k)
include ha hpkg

theorem swatchRun_starts (hen : bitAt (reg s (okey Reg.errSwatchCtrl)) 0 = true) (hper : fieldOf (reg s (okey Reg.errSwatchCtrl)) 1 3 ≠ 0)
    (hpat : pat < k.patterns.length) (hst : stage s < 2) (hidle : groupsIdle s (2 ^ g) = true) (hwd : (groupOf s g).withdrawn = false)
    (haw : groupAwaited s g = false) (hd : domainOpen s (22 + g / 21) = true) :
    swatchRun g pat s = setGroup s g { groupOf s g with swatch := some pat, swLeft := (List.range 8).map (· + 8 * g), swFailed := [] } := by
  simp only [swatchRun, hpkg]
  exact if_pos (by
    rw [ha, hen, bne_iff_ne.2 hper, decide_eq_true hpat, decide_eq_true hst, hidle, hwd, haw, hd]
    rfl)

section
variable {t : Nat} {digest : Word} {x : SwatchPattern} (hsw : (groupOf s g).swatch = some pat) (hleft : (groupOf s g).swLeft.contains t = true)
  (hnew : (groupOf s g).swFailed.contains t = false) (hx : k.patterns[pat]? = some x)
include hsw hleft hnew hx

theorem swatchDone_same (h : x.expect = digest) : swatchDone g t digest s = swatchTileEnd s g t := by
  have hsame : (x.expect == digest) = true := beq_iff_eq.2 h
  simp only [swatchDone, hsw, hpkg, hleft, ha, hx, hsame, hnew, Bool.not_true, Bool.or_self, Bool.false_eq_true, if_false, if_true]

theorem swatchDone_differs (h : x.expect ≠ digest) :
    swatchDone g t digest s = setGroup s g { groupOf s g with swFailed := (groupOf s g).swFailed ++ [t] } := by
  have hdiff : (x.expect == digest) = false := beq_eq_false_iff_ne.2 h
  simp only [swatchDone, hsw, hpkg, hleft, ha, hx, hdiff, hnew, Bool.not_true, Bool.or_self, Bool.false_eq_true, if_false]

end
end

/-- Settles O57: errors, tests, wear, spares and Swatch take the branch of their case; a spare taken is one of the free ones. -/
theorem unitAndSpareCommands : Obligations.UnitAndSpareCommands := by
  unfold Obligations.UnitAndSpareCommands
  refine ⟨fun s e ha hun => ?_, fun s e => ?_, fun s ty ix hix h => ?_, fun s s1 view v hgo ha hw => ?_, fun s ha hgo => ?_,
    fun s view v hview hv ha => ?_, fun s kind ty unit w e t hw hf ha => congrArg Host.Outcome.next (mergeExpiry_records hw hf ha),
    fun s cls die ix events h1 h5 hd ha => ?_, fun s s1 view v hgo ha hw => congrArg Host.Outcome.next (spareRequest_answers hgo ha hw),
    fun s t mask ht hm => ?_, fun s t ht ha hsp hfree => ?_, fun s h hh hm hc => ?_, fun s die array hd harr => ?_,
    fun s s1 view v hgo ha hw => congrArg Host.Outcome.next (swatchLoad_starts hgo ha hw), fun s k hgo ha => ?_, fun s g hg => ?_⟩
  · intro ix u first
    have hon : ∀ {t v : State}, t = v → onUnit (e.unitType = 0 || unitIndex e.unit < unitCount e.unitType) (collGo t) = .next (collGo v) := fun h =>
      (onUnit_next (by rw [Bool.or_eq_true, decide_eq_true_iff, decide_eq_true_iff]; exact hun) _).trans
        (congrArg (fun t => Host.Outcome.next (collGo t)) h)
    refine ⟨fun h => hon (unitError_fenced ha h), fun h2 hw => hon (unitError_unwritable ha h2 hw), ?_⟩
    intro s1 wrote
    refine ⟨fun hw h0 h1 => hon (unitError_second ha hw h0 h1), fun hw h0 h1 => ?_, fun hw h0 h1 h3 => hon ?_⟩
    · intro s2
      refine ⟨fun h3 => hon ((unitError_first ha hw h0 h1).trans (if_pos h3)), fun h3 => ?_⟩
      intro t load
      have hfirst : unitError e s = coreLoadFault e t := (unitError_first ha hw h0 h1).trans (if_neg h3)
      exact ⟨fun h => hon (hfirst.trans (coreLoadFault_traps h)), fun h => hon (hfirst.trans (coreLoadFault_other h))⟩
    · refine (unitError_unitless ha hw h0 h1 h3).trans (coreLoadFault_other fun h => ?_)
      rw [h0] at h
      exact absurd h.1 (by decide)
  · intro kind stack st word
    exact ⟨fun h => if_pos h, fun hk hc h0 => (eccEffect_corrected hk hc).trans (if_pos h0),
      fun hk hc h1 => (eccEffect_corrected hk hc).trans ((if_neg (by rw [show leField e.detail 0 1 = 1 from h1]; decide)).trans (if_pos h1)),
      fun hk hc h3 hu i hi => eccEffect_poisons hk hc h3 hu hi,
      fun hk hc h3 k hkey hh => isBad_of_bad hh (eccEffect_marks hk hc h3 hkey hh) 1⟩
  · exact (onUnit_next (decide_eq_true hix) _).trans (congrArg _ (if_pos h))
  · intro ty ix
    exact ⟨fun hf hix => congrArg Host.Outcome.next (unitClear_tests hgo ha hw hf hix),
      fun h => congrArg Host.Outcome.next (unitClear_refused hgo ha hw h)⟩
  · intro ty ix ht
    exact ⟨fun h9 => congrArg Host.Outcome.next (selfTestDone_passed_hart ha hgo ht h9),
      fun x hx hnew => congrArg Host.Outcome.next (selfTestDone_failed_wears ha hgo ht hx hnew),
      fun h9 => congrArg Host.Outcome.next (selfTestDone_passed ha hgo ht h9),
      fun hx => congrArg Host.Outcome.next (selfTestDone_failed_alone ha hgo ht hx)⟩
  · exact (onUnit_next (decide_eq_true hview) _).trans (congrArg _ (ringEnableErr_enables hv ha))
  · intro s1
    have hon : ∀ {u v : State}, u = v → onUnit (1 ≤ cls && cls ≤ 5 && die < 8) u = .next v := fun e =>
      (onUnit_next (by rw [decide_eq_true h1, decide_eq_true h5, decide_eq_true hd]; rfl) _).trans (congrArg _ e)
    exact ⟨fun hauto => hon ((partWear_eq ha cls die ix events).trans (if_pos hauto)),
      fun hauto => hon ((partWear_eq ha cls die ix events).trans (if_neg (by omega)))⟩
  · intro g hbusy hz hwd hsp hsw hdom
    have hon : ∀ {u v : State}, u = v → onUnit (decide (t < 1344)) u = .next v := fun e => (onUnit_next (decide_eq_true ht) _).trans (congrArg _ e)
    exact ⟨fun h => hon (tileSpareIn_withdraws mask.toNat hm hbusy hz hwd hsp hsw hdom h),
      fun h hmay => hon (tileSpareIn_copies mask.toNat hm hbusy hz hwd hsp hsw hdom h hmay)⟩
  · intro die k s0
    exact ⟨_, getD_mod_mem hfree _, (onUnit_next (decide_eq_true ht) _).trans (congrArg _ (tileSpareDone_takes ha hsp))⟩
  · intro d k
    have hon : ∀ {u v : State}, u = v → onUnit (decide (h < 96)) u = .next v := fun e => (onUnit_next (decide_eq_true hh) _).trans (congrArg _ e)
    exact ⟨fun h0 => hon (coreSpareIn_withdraws hm hc h0),
      fun h0 hmay hfree => ⟨_, getD_mod_mem hfree _, hon (coreSpareIn_takes hm hc h0 hmay)⟩⟩
  · intro k
    have hon : ∀ {u v : State}, u = v → onUnit (decide (die < 8) && decide (array < 256)) u = .next v := fun e =>
      (onUnit_next (by rw [decide_eq_true hd, decide_eq_true harr]; rfl) _).trans (congrArg _ e)
    exact ⟨fun hm hg hmove => ⟨fun hu => hon (lakeWaySpareIn_withdraws hm hg hmove hu),
      fun hu hmay => hon (lakeWaySpareIn_copies hm hg hmove hu hmay)⟩, fun hmove => hon (lakeWayCopyDone_takes hmove)⟩
  · exact ⟨fun hs hst hser => congrArg Host.Outcome.next (swatchLoaded_taken hgo ha hs hst hser),
      fun hs => congrArg Host.Outcome.next (swatchLoaded_refused hgo ha (swatchResult_unsigned hs) (by decide)),
      fun hs hst hser => congrArg Host.Outcome.next (swatchLoaded_refused hgo ha (swatchResult_old hs hst hser) (by decide))⟩
  · have hon : ∀ {u v : State}, u = v → onUnit (decide (g < 168)) u = .next v := fun e => (onUnit_next (decide_eq_true hg) _).trans (congrArg _ e)
    exact ⟨fun pat k ha hen hper hpkg hpat hst hidle hwd haw hdom => hon (swatchRun_starts ha hpkg hen hper hpat hst hidle hwd haw hdom),
      fun t digest pat k hsw hpkg hleft ha hnew x hx =>
        ⟨fun h => hon (swatchDone_same ha hpkg hsw hleft hnew hx h), fun h => hon (swatchDone_differs ha hpkg hsw hleft hnew hx h)⟩, hon rfl⟩

end Sys2Proof.Machine
end

section
/-! SUPPORT. SNAP, RESTORE, DIGEST, SIGN, the stalled writes and PROOF: one equation per case (14 R470, R477 to R483). -/

namespace Sys2Proof.Machine

variable {s s1 s2 : State} {r e p : Nat} {seq : BitVec 32} {d d1 : Desc} {bs data h m c : List Byte}

/-! ### SNAP and RESTORE -/

/-- What a SNAP or RESTORE does once its descriptor, region list and copy engine are good. -/
theorem snapBegin_goes {op : Nat} {k : Desc → Nat → List (Nat × Nat) → State} (hd : startable s r seq 0x0B op = some d) (hbody : snapBodyOk s d = true)
    (hread : readVa s d.part (d.fld 32 6) (16 * d.fld 38 2) = .ok bs) (hparts : partsOk d (regionList (d.fld 38 2) bs) = true)
    (he : copyPlace s d.part = some e) : snapBegin r seq op s k = k d e (regionList (d.fld 38 2) bs) := by
  simp only [snapBegin, hd, hbody, hread, hparts, he, Bool.not_true, Bool.false_eq_true, if_false]

/-- A second SNAP of a partition waits (14 R479). -/
theorem snapStart_waits (hd : startable s r seq 0x0B 0 = some d) (hsnap : snapOf s d.part ≠ none) : snapStart r seq s = s := by
  simp only [snapStart, hd, Option.isSome_iff_ne_none.2 hsnap, if_true]

/-- A SNAP whose region list, data and slot are good (14 R477, R478). -/
theorem snapStart_starts {l : List (Nat × Nat)} {w : SnapWork} (hd : startable s r seq 0x0B 0 = some d) (hbody : snapBodyOk s d = true)
    (hread : readVa s d.part (d.fld 32 6) (16 * d.fld 38 2) = .ok bs) (hl : l = regionList (d.fld 38 2) bs) (hparts : partsOk d l = true)
    (he : copyPlace s d.part = some e) (hsnap : snapOf s d.part = none) (hdata : readParts s d.part l = .ok data)
    (hh : h = slotHeader (snapStep d) (detSignature s d.part) (ofld s Reg.fabId 0 18) l data)
    (hs1 : s1 = setSnap (startWork s r d .idle) d.part (some ⟨r, seq, List.range (data.length / 65536), []⟩)) (hfind : findDesc s1 r seq = some d1)
    (hput : slotPut s1 r d1 ⟨e, 0, l, data, [], h, 0, 0⟩ (snapToLocal d) (snapToRemote d) commitOff (leBytes 8 0) = .ok (s2, w)) :
    snapStart r seq s = setSnapWork s2 r d1 w := by
  subst hl hh hs1
  simp only [snapStart, hd, hsnap, Option.isSome_none, Bool.false_eq_true, if_false, snapBegin_goes hd hbody hread hparts he, hdata, hfind, hput]

/-- A RESTORE from a slot of this package holds the header and COMMIT that it read (14 R480). -/
theorem restoreStart_local {l : List (Nat × Nat)} {a : Nat} (hd : startable s r seq 0x0B 1 = some d) (hbody : snapBodyOk s d = true)
    (hread : readVa s d.part (d.fld 32 6) (16 * d.fld 38 2) = .ok bs) (hl : l = regionList (d.fld 38 2) bs) (hparts : partsOk d l = true)
    (he : copyPlace s d.part = some e) (ha : restoreLocal s d = some a) (hhd : readVa s d.part a (headerBytes l.length) = .ok h)
    (hc : readVa s d.part (a + commitOff) 8 = .ok c) : restoreStart r seq s = setSnapWork (startWork s r d .idle) r
      { d with phase := .running, work := .snap ⟨e, 0, l, [], [], [], 0, 0⟩, cf := pfld s d.part Reg.detCtrl 0 1 == 1 }
      ⟨e, 0, l, [], [(0, h), (commitOff, c)], [], 0, 0⟩ := by
  subst hl
  rw [restoreStart, snapBegin_goes hd hbody hread hparts he]
  simp only [ha, hhd, hc]

/-! ### DIGEST and SIGN -/

/-- A DIGEST of 1 byte to 2^40 bytes starts on its copy engine (14 R482). -/
theorem digestStart_starts (hd : startable s r seq 0x0B 2 = some d) (hbody : bodyZeroBut d.bytes [(20, 6), (26, 6), (32, 8)] = true)
    (hpos : 0 < d.fld 32 8) (hmax : d.fld 32 8 ≤ 2 ^ 40) (he : copyPlace s d.part = some e) :
    digestStart r seq s = startWork s r d (.snap ⟨e, 0, [], [], [], [], 0, 0⟩) := by
  have h0 : decide (d.fld 32 8 = 0) = false := decide_eq_false hpos.ne'
  have h1 : decide (2 ^ 40 < d.fld 32 8) = false := decide_eq_false (Nat.not_lt.2 hmax)
  simp only [digestStart, hd, hbody, h0, h1, he, Bool.not_true, Bool.or_self, Bool.false_eq_true, if_false]

/-- A SIGN whose manifest's header agrees with the descriptor takes the SMC (14 R482, R483). -/
theorem signStart_starts (hd : startable s r seq 0x0B 3 = some d) (hfree : s.signing = none)
    (hbody : bodyZeroBut d.bytes [(20, 6), (28, 4)] = true) (hread : readVa s d.part (d.fld 20 6) 128 = .ok h) (hver : leField h 0 4 = 1)
    (halg : leField h 4 1 = 0) (hn : leField h 32 4 = d.fld 28 4) (hpos : 0 < d.fld 28 4) (hmax : d.fld 28 4 ≤ 65535)
    (he : copyPlace s d.part = some e) (hput : writeVa s d.part (d.fld 20 6 + 36) (leBytes 4 (ofld s Reg.fabId 0 18)) = .ok s1)
    (hm : readVa s1 d.part (d.fld 20 6) (128 + 96 * d.fld 28 4) = .ok m) :
    signStart r seq s = startWork { s1 with signing := some (r, seq) } r d (.snap ⟨e, 0, [], [], [], sha384 m, 0, 0⟩) := by
  have h0 : decide (leField h 0 4 ≠ 1) = false := decide_eq_false (not_not_intro hver)
  have h1 : decide (leField h 4 1 ≠ 0) = false := decide_eq_false (not_not_intro halg)
  have h2 : decide (leField h 32 4 ≠ d.fld 28 4) = false := decide_eq_false (not_not_intro hn)
  have h3 : decide (d.fld 28 4 = 0) = false := decide_eq_false hpos.ne'
  have h4 : decide (65535 < d.fld 28 4) = false := decide_eq_false (Nat.not_lt.2 hmax)
  simp only [signStart, hd, hfree, Option.isSome_none, hbody, hread, h0, h1, h2, h3, h4, he, hput, manifestBytes, hm, Bool.not_true, Bool.or_self,
    Bool.false_eq_true, if_false]

/-- The signature's 96 bytes follow the manifest's entries and end the SIGN (14 R483). -/
theorem signDone_ends (ha : alive s = true) (hsign : s.signing = some (r, seq)) (hd : runningDesc { s with signing := none } r seq 0x0B = some d)
    (hput : writeVa { s with signing := none, freeCount := s.freeCount + 96 } d.part (d.fld 20 6 + (128 + 96 * d.fld 28 4)) (freeBytes s.freeCount 96) =
      .ok s1) : signDone r seq s = settleAll (completeOne s1 r d St.ok 0 false) := by
  have h0 : decide (s.signing ≠ some (r, seq)) = false := decide_eq_false (not_not_intro hsign)
  simp only [signDone, h0, ha, hd, manifestBytes, hput, snapOk, Bool.not_true, Bool.or_self, Bool.false_eq_true, if_false]

/-! ### Stalled writes -/

/-- A write to a protected block stalls (14 R478). -/
theorem snapStall_stalls {n : Snap} {va : Nat} (hn : snapOf s p = some n) (hp : protectedBy (snapParts s n) n.blocks va data.length = true) :
    snapStall p va data s = setSnap s p (some { n with stalled := n.stalled ++ [(va, data)] }) := by
  simp only [snapStall, hn, hp, if_true]

/-- The stalled writes whose blocks are copied proceed in their order (14 R478). -/
theorem snapResume_goes {n : Snap} (hn : snapOf s p = some n) : snapResume p s =
    (n.stalled.filter (fun x => !protectedBy (snapParts s n) n.blocks x.1 x.2.length)).foldl (resumeWrite p)
      (setSnap s p (some { n with stalled := n.stalled.filter (fun x => protectedBy (snapParts s n) n.blocks x.1 x.2.length) })) := by
  simp only [snapResume, hn]

/-! ### PROOF -/

/-- Below supply stage S2 a PROOF starts if its body is good, and fails if not (14 R470). -/
theorem proofStart_eq (hd : startable s r seq 0x0C 0 = some d) (hst : stage s < 2) :
    proofStart r seq s = if proofDescOk d then startWork s r d .idle else endDesc s r d St.descInvalid 0 := by
  simp only [proofStart, hd, Nat.not_le.2 hst, if_false]

/-- A PROOF's timeout below supply stage S2 (14 R470). -/
theorem proofTimeout_ends (hd : runningDesc s r seq 0x0C = some d) (ha : alive s = true) (hst : stage s < 2) :
    proofTimeout r seq s = endDesc s r d St.proofTimeout 0 := by
  have h0 : decide (2 ≤ stage s) = false := decide_eq_false (Nat.not_le.2 hst)
  simp only [proofTimeout, hd, h0, ha, Bool.not_true, Bool.or_self, Bool.false_eq_true, if_false]

section
variable {inbox own : List Byte} (hd : runningDesc s r seq 0x0C = some d) (ha : alive s = true)
  (hin : readVa s d.part (d.fld 38 6) (64 + 8 * d.fld 30 2) = .ok inbox)
include hd ha hin

/-- A PROOF whose buddy's list is not there yet waits (14 R470). -/
theorem proofReady_waits (h : leField inbox 56 8 ≠ (d.fld 20 8 + 1) % 2 ^ 64) : proofReady r seq s = s := by
  simp only [proofReady, hd, ha, hin, Bool.not_true, Bool.false_eq_true, if_false]
  exact if_pos h

variable (hown : readVa s d.part (d.fld 32 6) (64 + 8 * d.fld 30 2) = .ok own) (hready : leField inbox 56 8 = (d.fld 20 8 + 1) % 2 ^ 64)
include hown hready

/-- Lists of different shape fail a PROOF (14 R470). -/
theorem proofReady_shape (h : leField own 8 8 ≠ leField inbox 8 8 ∨ leField own 16 4 ≠ leField inbox 16 4) :
    proofReady r seq s = endDesc s r d St.proofShape 0 := by
  have h0 : (decide (leField own 8 8 ≠ leField inbox 8 8) || decide (leField own 16 4 ≠ leField inbox 16 4)) = true := by
    rwa [Bool.or_eq_true, decide_eq_true_iff, decide_eq_true_iff]
  simp only [proofReady, hd, ha, hin, hown, Bool.not_true, Bool.false_eq_true, if_false]
  exact (if_neg (not_not_intro hready)).trans (if_pos h0)

variable (hshape : leField own 8 8 = leField inbox 8 8) (hcount : leField own 16 4 = leField inbox 16 4)
include hshape hcount

/-- Equal lists end a PROOF OK (14 R470). -/
theorem proofReady_same (h : proofDiffs own inbox (d.fld 30 2) = []) : proofReady r seq s = settleAll (completeOne s r d St.ok 0 false) := by
  simp only [proofReady, hd, ha, hin, hready, hown, hshape, hcount, h, snapOk, ne_eq, not_true_eq_false, decide_false, Bool.not_true, Bool.or_self,
    Bool.false_eq_true, if_false]

/-- Lists that differ end a PROOF with the first index, the number of differences and an error record (14 R470). -/
theorem proofReady_differs {i : Nat} {rest : List Nat} (h : proofDiffs own inbox (d.fld 30 2) = i :: rest) :
    proofReady r seq s = endWith s r d St.proofMismatch (i + (rest.length + 1) * 65536)
      (mkErr 0x0C 2 0 0 none 0 (leBytes 2 i ++ leBytes 2 (rest.length + 1) ++ leBytes 2 (d.fld 28 2))) := by
  simp only [proofReady, hd, ha, hin, hready, hown, hshape, hcount, h, ne_eq, not_true_eq_false, decide_false, Bool.not_true, Bool.or_self,
    Bool.false_eq_true, if_false]

end

/-- Settles O58, case by case of the commands. -/
theorem snapshotAndProofCommands : Obligations.SnapshotAndProofCommands := by
  have hon : ∀ {r : Nat}, r < 4096 → ∀ {u v : State}, u = v → onUnit (decide (r < 4096)) u = .next v :=
    fun hr _ _ e => (onUnit_next (decide_eq_true hr) _).trans (congrArg _ e)
  refine ⟨?_, fun s r seq d hr hd hn => hon hr (snapStart_waits hd hn), ?_, ?_, ?_, ?_, ?_⟩
  · intro s r seq d bs data e hr hbody hread l hparts he
    refine ⟨fun h d1 s2 w hd hn hdata hh => ?_, fun a hd c hst ha hhd hc =>
      ⟨_, ?_, ?_, hon hr (restoreStart_local hst hbody hread rfl hparts he ha hhd hc)⟩⟩
    · intro s1 hfind hput
      exact hon hr (snapStart_starts hd hbody hread rfl hparts he hn hdata hh rfl hfind hput)
    · rfl
    · rfl
  · exact fun s r seq d e hr he => ⟨fun hd hbody hpos hmax => hon hr (digestStart_starts hd hbody hpos hmax he),
      fun h m s1 hd hfree hbody hread hver halg hn hpos hmax hput hm =>
        hon hr (signStart_starts hd hfree hbody hread hver halg hn hpos hmax he hput hm)⟩
  · intro s s1 r seq d hr ha hsign s0 hd hput
    exact hon hr (signDone_ends ha hsign hd hput)
  · intro s p n hp hn stays
    have hon8 : ∀ {u v : State}, u = v → onUnit (decide (p < 8)) u = .next v := fun e => (onUnit_next (decide_eq_true hp) _).trans (congrArg _ e)
    exact ⟨fun va data hprot => hon8 (snapStall_stalls hn hprot), hon8 (snapResume_goes hn)⟩
  · exact fun s r seq d hr hd hst => ⟨fun hok => hon hr ((proofStart_eq hd hst).trans (if_pos hok)),
      fun hok => hon hr ((proofStart_eq hd hst).trans (if_neg (Bool.eq_false_iff.1 hok)))⟩
  · exact fun s r seq d hr hd ha => ⟨fun hst => hon hr (proofTimeout_ends hd ha hst), fun inbox own hin hown =>
      ⟨fun h => hon hr (proofReady_waits hd ha hin h), fun hready => ⟨fun h => hon hr (proofReady_shape hd ha hin hown hready h),
        fun hshape hcount => ⟨fun h => hon hr (proofReady_same hd ha hin hown hready hshape hcount h),
          fun i rest h => hon hr (proofReady_differs hd ha hin hown hready hshape hcount h)⟩⟩⟩⟩

end Sys2Proof.Machine
end

section
/-! SUPPORT. Commits, the life cycle, attestation and management: one equation per case (15 R495 to R511). -/

namespace Sys2Proof.Machine

variable {s s1 : State} {view : Nat} {v : Word}

/-! ### Commits -/

/-- A write of PRT_COMMIT with GO is answered by the first rule broken (15 R495). -/
theorem prtCommit_goes (hv : bitAt v.toNat 0 = true) (ha : alive s = true) (hw : actionWrite s view Reg.prtCommit v = some s1) :
    prtCommit view v s = commitAnswer s1 (commitRefusal s1 (makeLive s1)) := by
  simp only [prtCommit, hv, ha, hw, Bool.not_true, Bool.or_self, Bool.false_eq_true, if_false]

section
variable {w : CommitWork} (ha : alive s = true) (hw : s.commit = some w)
include ha hw

/-- The drain of a commit under way ends (15 R495). -/
theorem commitDrainDone_drains : commitDrainDone s = { s with commit := some { w with drained := true } } := by
  simp only [commitDrainDone, hw, ha, if_true]

/-- A drained commit whose lost tile groups are zero ends (15 R495). -/
theorem commitReleaseDone_ends (hdrained : w.drained = true) (hzero : w.groups.all (fun g => !(groupOf s g).zeroing) = true) :
    commitReleaseDone s = commitEnd s w := by
  simp only [commitReleaseDone, hw, hdrained, hzero, ha, Bool.and_self, if_true]

end

/-! ### The life cycle -/

section
variable (ha : alive s = true) (hw : actionWrite s view Reg.secCtrl v = some s1)
include ha hw

/-- CONFIRM of a trial image within 60 s of the SMC's start (15 R509). -/
theorem confirm_confirms {img : Image} (hv : bitAt v.toNat 0 = true) (htrial : ofld s Reg.secStatus 3 1 = 1)
    (htime : s.tick - s.smcStart ≤ 6000000000) (himg : s.running = some img) :
    confirm view v s = setRfld (setRfld (setRfld { s1 with dirActive := s.dirNext } (okey Reg.secStatus) 2 1 (b2n s.dirNext)) (okey Reg.secStatus) 3 1 0)
      (okey Reg.secStatus) 8 16 (max (ofld s Reg.secStatus 8 16) (imageSvn img)) := by
  simp only [confirm, hv, ha, hw, htrial, htime, himg, Bool.not_true, Bool.or_self, Bool.false_eq_true, if_false, and_self, if_true]

/-- LC_ARM shows the arm (15 R510). -/
theorem lcArm_arms (hv : bitAt v.toNat 3 = true) : lcArm view v s = setRfld s1 (okey Reg.secCtrl) 8 3 1 := by
  simp only [lcArm, hv, ha, hw, Bool.not_true, Bool.or_self, Bool.false_eq_true, if_false]

variable (hv : bitAt v.toNat 4 = true)
include hv

/-- LC_GO without an arm (15 R510). -/
theorem lcGo_unarmed (h : ofld s Reg.secCtrl 8 3 ≠ 1) : lcGo view v s = setRfld s1 (okey Reg.secCtrl) 8 3 3 := by
  simp only [lcGo, hv, ha, hw, Bool.not_true, Bool.or_self, Bool.false_eq_true, if_false]
  exact if_pos h

/-- LC_GO with an arm makes the move, if it is a field move (15 R510). -/
theorem lcGo_armed (h : ofld s Reg.secCtrl 8 3 = 1) : lcGo view v s =
    if fieldMove (lifeCycle s) (ofld s1 Reg.secCtrl 1 2) then setRfld (lifeChange s1 (ofld s1 Reg.secCtrl 1 2)) (okey Reg.secCtrl) 8 3 0
    else setRfld s1 (okey Reg.secCtrl) 8 3 2 := by
  cases hm : fieldMove (lifeCycle s) (ofld s1 Reg.secCtrl 1 2) <;>
    simp only [lcGo, hv, ha, hw, h, hm, Bool.not_true, Bool.not_false, Bool.or_self, Bool.false_eq_true, if_false, if_true, ne_eq, not_true_eq_false]

end

/-- Settles O59, case by case of the commands. -/
theorem commitAndLifeCycleCommands : Obligations.CommitAndLifeCycleCommands := by
  refine ⟨fun s s1 view v hv ha hw => ⟨fun h => congrArg Host.Outcome.next ?_, fun rule ix h => congrArg Host.Outcome.next ?_⟩, ?_, ?_, ?_⟩
  · rw [prtCommit_goes hv ha hw, h, commitAnswer]
  · rw [prtCommit_goes hv ha hw, h, commitAnswer, commitRefuse]
  · exact fun s w ha hw => ⟨congrArg Host.Outcome.next (commitDrainDone_drains ha hw),
      fun hd hz => congrArg (fun t => Host.Outcome.next (launchWake t)) (commitReleaseDone_ends ha hw hd hz)⟩
  · intro s s1 view v hview ha hw kc ks
    have hon : ∀ {u v : State}, u = v → onUnit (decide (view ≤ 8)) u = .next v := fun e => (onUnit_next (decide_eq_true hview) _).trans (congrArg _ e)
    exact ⟨fun hv ht htime img himg => hon (confirm_confirms ha hw hv ht htime himg), fun hv => hon (lcArm_arms ha hw hv),
      fun hv h => hon (lcGo_unarmed ha hw hv h),
      fun hv h => ⟨fun hm => hon ((lcGo_armed ha hw hv h).trans (if_neg (Bool.eq_false_iff.1 hm))),
        fun hm => hon ((lcGo_armed ha hw hv h).trans (if_pos hm))⟩⟩
  · exact fun s h => congrArg Host.Outcome.next (if_pos h)

/-! ### Attestation -/

section
variable {via : Transport} (hr : spdmReady s via = true)
include hr

/-- GET_CERTIFICATE of a slot and an offset that exist (15 Table 6). -/
theorem spdmCertificate_answers {slot off : Nat} (len : Nat) (hslot : slot < 2) (hoff : off ≤ (certChain s slot).length) :
    spdmCertificate via slot off len s = answer s via (spdm 0x02 slot 0 (leBytes 2 (((certChain s slot).drop off).take len).length ++
      leBytes 2 ((certChain s slot).length - off - (((certChain s slot).drop off).take len).length) ++ ((certChain s slot).drop off).take len)) := by
  simp only [spdmCertificate, hr, Nat.not_le.2 hslot, Nat.not_lt.2 hoff, Bool.not_true, Bool.false_eq_true, if_false, or_self]

variable {nonce : List Byte} (hn : nonce.length = 32)
include hn

/-- A CHALLENGE of a slot that exists is signed, or answered with an error where the keys do not sign (15 R504). -/
theorem spdmChallenge_eq {slot : Nat} (hslot : slot < 2) : spdmChallenge via slot nonce s =
    if signs s then answer { s with freeCount := s.freeCount + 128 } via (spdm 0x03 slot 3 (sha384 (certChain s slot) ++
      (freeBytes s.freeCount 128).take 32 ++ [0#8, 0#8] ++ (freeBytes s.freeCount 128).drop 32)) else spdmError s via 5 := by
  have h0 : decide (2 ≤ slot) = false := decide_eq_false (Nat.not_le.2 hslot)
  cases hs : signs s <;>
    simp only [spdmChallenge, takeFree, hr, h0, hn, hs, bne_self_eq_false, Bool.not_true, Bool.not_false, Bool.or_self, Bool.false_eq_true, if_false, if_true]

/-- A signed measurement block (15 Table 6). -/
theorem spdmMeasurements_one {ix : Nat} (hpos : 1 ≤ ix) (hmax : ix ≤ 7) (hs : signs s = true) : spdmMeasurements via ix nonce s =
    answer { s with freeCount := s.freeCount + 128 } via (spdm 0x60 0 0 (leBytes 1 1 ++ leBytes 3 (measBlock s ix).length ++ measBlock s ix ++
      (freeBytes s.freeCount 128).take 32 ++ [0#8, 0#8] ++ (freeBytes s.freeCount 128).drop 32)) := by
  have h0 : decide (7 < ix) = false := decide_eq_false (Nat.not_lt.2 hmax)
  have h1 : ix ≠ 0 := Nat.pos_iff_ne_zero.1 hpos
  have h2 : ix ≠ 255 := by omega
  simp only [spdmMeasurements, takeFree, hr, h0, h1, h2, hn, hs, bne_self_eq_false, Bool.not_true, Bool.false_and, Bool.or_self, Bool.false_eq_true,
    if_false, List.flatMap_singleton, List.length_singleton]

end

/-! ### Management -/

/-- An MCTP control message over any transport but DOE is answered with a free completion code (15 R506). -/
theorem mctpControl_answers {via : Transport} (hr : reachable s via = true) (hvia : ∀ sl, via ≠ .doe sl) (cmd : Byte) :
    mctpControl via cmd s = answer { s with freeCount := s.freeCount + 1 } via [cmd, (Config.freeValue s.freeCount).truncate 8] := by
  cases via with
  | doe sl => exact absurd rfl (hvia sl)
  | mctpPcie sl => exact if_pos hr
  | mctpI3c => exact if_pos hr
  | mctpSmbus => exact if_pos hr

/-- The transports over which the device takes management messages (15 R506). -/
theorem mgmtTaken_iff {via : Transport} (hr : reachable s via = true) : mgmtTaken s via = true ↔ via = .mctpI3c ∨ via = .mctpSmbus := by
  rw [mgmtTaken, hr, Bool.and_true, Bool.or_eq_true, beq_iff_eq, beq_iff_eq]

/-- A firmware update writes the slot that is not active, which the device tries next (15 R508, R509). -/
theorem mgmtUpdate_writes {via : Transport} (h : mgmtTaken s via = true) (img : Image) : mgmtUpdate via img s = { s with
    slotA := if s.dirActive then some img else s.slotA, slotB := if s.dirActive then s.slotB else some img
    dirNext := !s.dirActive, dirTrial := true, boot := if s.boot = .recovery then .verifying else s.boot } := by
  by_cases hb : s.boot = .recovery <;> cases ha : s.dirActive <;>
    simp [mgmtUpdate, h, hb, ha]

/-- A life-cycle request of a field move or of one of Krovolaran's own (15 R506). -/
theorem mgmtLife_moves {via : Transport} (h : mgmtTaken s via = true) {new : BitVec 2}
    (hm : fieldMove (lifeCycle s) new.toNat = true ∨ new.toNat = 1 ∧ (lifeCycle s = 0 ∨ lifeCycle s = 2)) :
    mgmtLife via new s = lifeChange s new.toNat := by
  rw [mgmtLife]
  refine if_pos ?_
  rwa [h, Bool.true_and, Bool.or_eq_true, Bool.and_eq_true, Bool.or_eq_true, beq_iff_eq, beq_iff_eq, beq_iff_eq]

/-- Settles O60, case by case of the commands. -/
theorem attestationCommands : Obligations.AttestationCommands := by
  constructor
  · intro s via hr
    have hgo : ∀ {t u : State}, (if spdmReady s via then t else u) = t := if_pos hr
    have hnot : (!spdmReady s via) = false := by rw [hr]; rfl
    refine ⟨congrArg Host.Outcome.next hgo, ⟨_, freeBytes_length _ _, congrArg Host.Outcome.next hgo⟩, congrArg Host.Outcome.next ?_,
      fun p384 sha h => congrArg Host.Outcome.next ?_, congrArg Host.Outcome.next hgo, ?_, ?_, ?_⟩
    · simp only [spdmAlgorithms, hnot, Bool.false_eq_true, if_false, Bool.and_self, if_true]
    · simp only [spdmAlgorithms, hnot, h, Bool.false_eq_true, if_false]
    · intro slot off len hslot hoff part
      exact congrArg Host.Outcome.next (spdmCertificate_answers hr len hslot hoff)
    · exact fun slot nonce hslot hn =>
        ⟨fun hs => ⟨_, freeBytes_length _ _, congrArg Host.Outcome.next ((spdmChallenge_eq hr hn hslot).trans (if_pos hs))⟩,
          fun hs => congrArg Host.Outcome.next ((spdmChallenge_eq hr hn hslot).trans (if_neg (Bool.eq_false_iff.1 hs)))⟩
    · exact fun ix nonce hpos hmax hn hs => ⟨_, freeBytes_length _ _, congrArg Host.Outcome.next (spdmMeasurements_one hr hn hpos hmax hs)⟩
  · intro s via hr
    refine ⟨fun hvia cmd => ⟨_, congrArg Host.Outcome.next (mctpControl_answers hr hvia cmd)⟩, ?_⟩
    intro taken
    have hyes : taken → mgmtTaken s via = true := (mgmtTaken_iff hr).2
    refine ⟨fun img h => congrArg Host.Outcome.next (mgmtUpdate_writes (hyes h) img),
      fun new h hm => congrArg Host.Outcome.next (mgmtLife_moves (hyes h) hm), fun first count h => congrArg Host.Outcome.next (if_pos (hyes h)),
      fun img new first count h => ?_⟩
    have hno : mgmtTaken s via = false := Bool.eq_false_iff.2 (fun e => h ((mgmtTaken_iff hr).1 e))
    refine ⟨congrArg Host.Outcome.next ?_, congrArg Host.Outcome.next ?_, congrArg Host.Outcome.next ?_⟩
    · simp only [mgmtUpdate, hno, Bool.not_false, if_true]
    · simp only [mgmtLife, hno, Bool.false_and, Bool.false_eq_true, if_false]
    · simp only [mgmtLog, hno, Bool.false_eq_true, if_false]

end Sys2Proof.Machine
end
